-- ==== Sys2Proof/Word.lean ====
section
/-! DEFINITION. The plain word types of the machine and the sparse-map type that its memories and register files are
kept in. -/

namespace Sys2Proof

/-- A byte of scratchpad or moraine. -/
abbrev Byte := BitVec 8

/-- A 32-bit register word. -/
abbrev Word := BitVec 32

/-- A 64-bit cornice word. -/
abbrev Quad := BitVec 64

/-- Sparse data by key: (key, value) pairs in one canonical form, keys strictly rising and no value equal to what an
unlisted key reads as. -/
abbrev SMap (α : Type) := List (Nat × α)

end Sys2Proof
end

