-- ==== Sys2Proof/Syntax.lean ====
section
/-! DEFINITION. The commands of the block: one constructor for every row of the table of operations and events. An
instruction row carries the lead partition of the schedule domain that issues it; the word is the one the lead's fetch
pointer finds in the cornice. A register row carries who accesses it, the register and the value. An event row carries
what the event brings from outside the machine (a measured value, a received packet, a moment); an operand with a default brings
nothing of its kind where it is left out. -/

namespace Sys2Proof

/-- Who makes a register, scratchpad or window access (R444): the management complex, the host's physical function, or
virtual function n. -/
inductive Who where
  | fw
  | pf
  | vf (n : Nat)
  deriving DecidableEq, Repr

/-- What one pending write writes (R279): scratchpad bytes, a deferred register, or a cornice commit (R210). -/
inductive PendWhat where
  | scratch (ash addr : Nat) (data : List Byte)
  | reg (addr : Nat) (v : Word)
  | commit (part ia : Nat) (w : Quad)
  deriving DecidableEq, Repr

/-- What the host writes to the endpoint's configuration space, BARs and MSI-X tables (R523, R524, R527); function 0 is the PF,
n + 1 the VF of partition n. -/
inductive PciWrite where
  | config (fn off : Nat) (v : Word)
  | bar (fn j : Nat) (v : Quad)
  | vector (fn n : Nat) (addr : Quad) (data : Word)
  | mask (fn : Nat) (on : Bool)
  deriving DecidableEq, Repr

/-- What Boluk does to the secure associations of a port (R533): one of four of the transmit or the receive channel is installed with
its key, for a cipher suite with or without extended packet numbers, or removed. -/
inductive SaChange where
  | install (tx : Bool) (an : Nat) (key : List Byte) (xpn : Bool)
  | remove (tx : Bool) (an : Nat)
  deriving DecidableEq, Repr

/-- How a management message comes (R535, R536): by a VDM of the PF, or to a 7-bit SMBus address. -/
inductive Via where
  | vdm
  | smbus (addr : Nat)
  deriving DecidableEq, Repr

/-- What a received Ethernet frame holds, as far as R528 to R534 act on it. -/
inductive EthFrame where
  | bad
  | unprotected
  | invalid
  | other
  | rdmaOp
  | rdmaWrite (rkey addr : Nat) (srcMod srcAsh : Nat) (data : List Byte)
  /-- Priority flow control: a priority, and for how many quanta it is paused. -/
  | pause (prio quanta : Nat)
  /-- A congestion notification for a queue pair. -/
  | cnp (qpn : Nat)
  deriving DecidableEq, Repr

/-- Where an array goes wrong in one step of a pass (R547): a cell forms its product wrongly; a column tree, the addition of
stage C or an accumulator after it goes wrong; the checksum row, the checksum column at a cell row, or the checksum
accumulator goes wrong. -/
inductive FaultPlace where
  | cell (row col : Nat)
  | column (col : Nat)
  | shadowRow
  | checkColumn (row : Nat)
  | checkAcc
  deriving DecidableEq, Repr

/-- A fault of an array that the environment brings: the ashlar, the array, the step of the pass, the place, and by how much
what is formed there is off, on the set's grid. -/
structure ArrFault where
  ash : Nat
  arr : Nat
  step : Nat
  place : FaultPlace
  off : Int
  deriving DecidableEq, Repr

inductive Instr where
  -- ticks, courses and the freeze
  | tick
  | rackSyncEdge (stamp : Nat)
  | tickEnable (w : Who) (v : Word)
  | tickParamWrite (w : Who) (addr : Nat) (v : Word)
  | arm (w : Who) (p : Nat) (withDisarm : Bool)
  | disarm (w : Who) (p : Nat)
  | pendingWriteApply (p : Nat)
  | courseStart (d : Nat)
  | endcRetire (d : Nat)
  | freezeEnd (d : Nat)
  | freezeLimitExceeded (d : Nat)
  -- register access
  | readToClear (w : Who) (addr : Nat)
  | loLatchRead (w : Who) (addr : Nat)
  | registerWrite (w : Who) (addr : Nat) (v : Word)
  | hostPartitionWrite (w : Who) (x : PendWhat)
  | pendingQueueAdmit (p : Nat)
  | hostDataWindowRead (w : Who) (ap off len : Nat)
  | hostDataWindowWrite (w : Who) (ap off : Nat) (data : List Byte)
  -- scratchpad
  | granuleLand (ash slice at_ err : Nat) (ce : Nat := 0)
  | scrubRow (ash slice row : Nat) (found : List (Nat × Bool)) (at_ : Nat := 0)
  | slicePowerCtrl (w : Who) (ash : Nat) (v : Word)
  | sliceReady (ash slice : Nat)
  | groutRowApply (w : Who) (ash n : Nat) (v : Word)
  | groutBankWrite (w : Who) (ash slice : Nat) (v : Word)
  | groutBankCopyEnd (ash slice : Nat)
  | sempMessageArrival (i at_ : Nat)
  -- engine starts and summaries
  | arrayOpStart (d : Nat) (faults : List ArrFault := [])
  | vectorOpStart (d : Nat)
  | transferOpStart (d : Nat)
  | summaryArrival (d : Nat)
  -- instructions of classes 0x4 to 0x7
  | mma (d : Nat) | mmw (d : Nat) | accz (d : Nat) | win (d : Nat) | chk (d : Nat)
  | vch (d : Nat) | vred (d : Nat) | vsum (d : Nat) | cvt (d : Nat) | mxp (d : Nat) | mxu (d : Nat) | rsc (d : Nat)
  | smp (d : Nat)
  | smpCommit (d : Nat)
  | emit (d : Nat)
  | emitPresent (d : Nat)
  -- instructions of classes 0x0 to 0x3
  | nop (d : Nat) | loop (d : Nat) | jmp (d : Nat) | brs (d : Nat) | call (d : Nat) | endc (d : Nat) | ovl (d : Nat)
  | setq (d : Nat) | addq (d : Nat) | halt (d : Nat)
  | movi (d : Nat) | alu (d : Nat) | cmpp (d : Nat) | rdf (d : Nat) | rdt (d : Nat) | rdz (d : Nat)
  | ldw (d : Nat) | lda (d : Nat) | st (d : Nat) | xfer (d : Nat) | mcast (d : Nat) | stk (d : Nat)
  | semp (d : Nat) | semw (d : Nat) | waitc (d : Nat) | rel (d : Nat) | acq (d : Nat) | fence (d : Nat)
  -- overlays and what returns from the fabric
  | overlayLoadStart (d : Nat)
  | overlayLoadDone (d : Nat)
  | overlayDeadlock (d : Nat)
  | getReqArrival (i at_ : Nat)
  | completionArrival (i at_ : Nat)
  | stkRowComplete (i row at_ : Nat)
  | stkDeadline (d : Nat)
  | corniceDataHiWrite (w : Who) (p : Nat) (v : Word)
  | corniceDataLoRead (w : Who) (p : Nat)
  | corniceDataHiRead (w : Who) (p : Nat)
  | domainReset (w : Who) (p : Nat)
  -- clocks
  | stepRequest (w : Who) (v : Word)
  | stepChangeApply (late : List (Nat × Nat) := [])
  | plumbCalibration (avail margin : Nat) (failed : List (Nat × Nat)) (bridge : Bool)
  | droopStretch (ash mv : Nat) (leaf : Bool := false)
  | stretchEnd (ash cycles : Nat)
  | refQualified (phase16 : Int)
  | referenceLost
  | holdoverLimitExceeded
  | phaseSlewEnd
  | clkGlacierWrite (w : Who) (v : Word)
  -- Ubnov
  | ubnPacketReceive (port : Nat) (h0 h1 : Quad) (payload : List Byte) (crcOk : Bool) (seq : Nat := 0) (vc : Nat := 0)
      (fecOk : Bool := true)
  | ingressRelease (ash at_ : Nat)
  | egressSend (port vc : Nat) (ce : Nat := 0)
  | creditGrantArrival (md req rpl : Nat)
  | resvApply (w : Who) (v : Word)
  | mcCopyRelease (i : Nat)
  | multicastStuck (i : Nat)
  | linkAck (port : Nat) (seq : Option Nat) (credits : List (Nat × Nat) := [])
  | linkReplay (port seq : Nat)
  | replayComplete (port counts : Nat)
  | linkDown (port : Nat)
  | linkNarrowed (port laneOk : Nat)
  | narrowingDone (port : Nat)
  | linkBerWindow (port : Nat) (counts : List Nat) (corrected : Nat := 0)
  | retrain (w : Who) (port : Nat) (v : Word)
  | portTrained (port rtt laneOk : Nat)
  | planCommit (w : Who) (v : Word)
  | identityFrame (port : Nat) (w0 w1 w2 : Quad) (rest : List Quad := [])
  | identTimeout (port : Nat)
  | plannedLinkMissing (port : Nat)
  -- serving
  | servingBoundary (p : Nat)
  | cmdOpen (p : Nat) | cmdAppend (p : Nat) | cmdGo (p : Nat) | cmdCancel (p : Nat) | cmdSet (p : Nat)
  | cmdClose (p : Nat) | cmdPark (p : Nat) | cmdResume (p : Nat) | cmdDrop (p : Nat) | cmdAbort (p : Nat)
  | cmdTouch (p : Nat)
  | badOpcodeCommand (p : Nat)
  | fastCancel (w : Who) (p : Nat) (v : Word)
  | srvCtxWrite (w : Who) (p c off : Nat) (v : Word)
  | parkCommit (slot : Nat)
  | resumeCommit (p c : Nat)
  | resumeDataError (p c row : Nat)
  | handleExpiry (slot : Nat)
  -- moraine and loads
  | swapGo (w : Who) (p : Nat)
  | swapDone (p : Nat) (bad : Option Nat)
  | loadSubmit (w : Who) (v : Word)
  | loadComplete (port status : Nat) (data : List Byte)
  | rdmaLoadTimeout (port : Nat) (data : List Byte := [])
  | relayPacketArrival (i : Nat)
  | morChainWrite (w : Who) (addr : Nat) (v : Word)
  | refreshShadow (stack : Nat)
  | moraineReadRetry (cls row i result : Nat)
  | morainePatrolScrub (row result : Nat)
  | moraineStackFailed (stack : Nat) (link : Bool := false)
  -- mailbox (instance 0 to 11: the partition's; 12: the module's)
  | getInfo (m : Nat) | imageWrite (m : Nat) | imageCommit (m : Nat) | mbxReset (m : Nat) | partitionLoad (m : Nat)
  | faultRead (m : Nat) | policyGet (m : Nat) | policySet (m : Nat) | planSet (m : Nat) | mailboxBadOpcode (m : Nat)
  -- power, reset and boot
  | powerOn (mv : Nat) (present : Bool)
  | powerLoss (mv : Nat := 0)
  | coldReset (cause : Nat)
  | warmReset (cause : Nat)
  | managementReset
  | perstAssert
  | bootRomVerify
  | imageVerify
  | imageApply
  | firmwareWatchdog
  -- power and telemetry
  | governorLoop (pLoad : Nat)
  | throttleClear
  | telemetrySample (mv ma : Nat)
  | temperatureSample (temps : List Nat) (margin : Nat := 65535) (late : List (Nat × Nat) := [])
  | faultLogCopy
  | regrout (ash slice : Nat)
  -- record and replay
  | recCtrlWrite (w : Who) (v : Word)
  | replayEntryApply (late : Nat := 0)
  -- Ethernet and management ports
  | rdmaWrite (e rkey addr srcMod srcAsh : Nat) (data : List Byte)
  | streamFrameTransmit (e : Nat)
  | ethFrameReceive (e len : Nat) (f : EthFrame) (an : Nat := 0) (ecn : Option Nat := none)
  | ptpEventMessage (e : Nat) (tx : Bool) (seqId frac : Nat)
  | ptpTsRead (w : Who) (e : Nat)
  | ethFlowWrite (w : Who) (f : Nat) (hi : Bool) (v : Word)
  | mctpMessage (typ : Nat) (body : List Byte) (via : Via := .vdm)
  | pldmFirmwareUpdate (kind off : Nat) (data : List Byte) (last : Bool) (via : Via := .vdm)
  | lightReturns (port : Nat)
  | dieInitEnd
  | moraineStackHot (stack temp : Nat)
  | ethLinkChange (e : Nat) (up : Bool) (speed : Nat) (sas : List SaChange := [])
  | pciExpressLinkUp (rate width : Nat) (flit : Bool := false) (writes : List PciWrite := [])
  | moraineWritePerformed (i : Nat)
  deriving DecidableEq, Repr

end Sys2Proof
end

