-- ==== Sys2Proof/Decode.lean ====
section
/-! DEFINITION. Decoding of table words: the table of commands gives no row any bits, since a command comes from outside
the block and is no word of a memory. (The cornice words that the block's own sequencers fetch are taken apart in
Machine/Operands.lean.) -/

namespace Sys2Proof

/-- The command that a word spells by the table's bits: the table gives bits to no row, so no word spells one. -/
def decodeTableWord (_nbits _w : Nat) : Option Instr := none

end Sys2Proof
end

