-- ==== Sys2Proof/Machine/Regs.lean ====
section
/-! DEFINITION. The register map of the spec: every register the chapters' register tables name, by its address, and
every field by its bit range, access code (R10) and reset value. A register's address is a byte address of the model's
one register space: module registers at their own offset, the control window of partition n at
0x0100_0000 + n x 0x0010_0000 (R447), the page of ashlar i of a partition at window offset 0x4_0000 + i x 0x1000 (R82),
and the doorbell page of partition n at 0x0200_0000 + n x 0x1000 (the model's own place for it: log entry 7). -/

namespace Sys2Proof.Machine

/-- A register access code (R10). -/
inductive Access where
  | ro | rw | rws | w1c | wo | rc
  deriving DecidableEq, Repr

/-- Which of the four address layouts a register row lies in. -/
inductive Space where
  | module | partition | tile | doorbell
  deriving DecidableEq, Repr

/-- One field of a register row: bits [hi:lo], its access code and its reset value. -/
structure FieldRow where
  hi : Nat
  lo : Nat
  acc : Access
  reset : Nat
  deriving DecidableEq, Repr

/-- One row of the register tables: `dims` are the (stride, count) pairs of its indices, outermost first. -/
structure RegRow where
  space : Space
  base : Nat
  dims : List (Nat × Nat)
  fields : List FieldRow
  deriving DecidableEq, Repr

/-- A field of one register: the register's address and the bit range. -/
structure Slot where
  reg : Nat
  hi : Nat
  lo : Nat
  deriving DecidableEq, Repr

/-- Address of offset `o` in the control window of partition `p` (R447). -/
def Reg.window (p o : Nat) : Nat := 0x01000000 + p * 0x100000 + o

/-- Address of offset `o` in the page of ashlar `i` of partition `p`. -/
def Reg.page (p i o : Nat) : Nat := 0x01000000 + p * 0x100000 + 0x40000 + i * 0x1000 + o

/-- Address of offset `o` in the doorbell page of partition `p`. -/
def Reg.doorbell (p o : Nat) : Nat := 0x02000000 + p * 0x1000 + o

/-- CLK_COURSE_CTRL (R47). -/
def Reg.CLK_COURSE_CTRL.addr : Nat := 0x18000
def Reg.CLK_COURSE_CTRL.TICK_EN : Slot := ⟨Reg.CLK_COURSE_CTRL.addr, 0, 0⟩
def Reg.CLK_COURSE_CTRL.SYNC_CHECK_EN : Slot := ⟨Reg.CLK_COURSE_CTRL.addr, 1, 1⟩
def Reg.CLK_COURSE_CTRL.ALIGN_ON_SYNC : Slot := ⟨Reg.CLK_COURSE_CTRL.addr, 2, 2⟩
/-- CLK_COURSE_PERIOD (R47). -/
def Reg.CLK_COURSE_PERIOD.addr : Nat := 0x18004
def Reg.CLK_COURSE_PERIOD.PERIOD : Slot := ⟨Reg.CLK_COURSE_PERIOD.addr, 17, 0⟩
/-- CLK_TICK_ORIGIN_LO (R47). -/
def Reg.CLK_TICK_ORIGIN_LO.addr : Nat := 0x18008
def Reg.CLK_TICK_ORIGIN_LO.ORIGIN : Slot := ⟨Reg.CLK_TICK_ORIGIN_LO.addr, 31, 0⟩
/-- CLK_TICK_ORIGIN_HI (R47). -/
def Reg.CLK_TICK_ORIGIN_HI.addr : Nat := 0x1800c
def Reg.CLK_TICK_ORIGIN_HI.ORIGIN : Slot := ⟨Reg.CLK_TICK_ORIGIN_HI.addr, 31, 0⟩
/-- CLK_ORIGIN_COURSE_LO (R47). -/
def Reg.CLK_ORIGIN_COURSE_LO.addr : Nat := 0x18010
def Reg.CLK_ORIGIN_COURSE_LO.ORIGIN_COURSE : Slot := ⟨Reg.CLK_ORIGIN_COURSE_LO.addr, 31, 0⟩
/-- CLK_ORIGIN_COURSE_HI (R47). -/
def Reg.CLK_ORIGIN_COURSE_HI.addr : Nat := 0x18014
def Reg.CLK_ORIGIN_COURSE_HI.ORIGIN_COURSE : Slot := ⟨Reg.CLK_ORIGIN_COURSE_HI.addr, 15, 0⟩
/-- CLK_COURSE_NUM_LO (R47). -/
def Reg.CLK_COURSE_NUM_LO.addr : Nat := 0x18018
def Reg.CLK_COURSE_NUM_LO.COURSE_NUM : Slot := ⟨Reg.CLK_COURSE_NUM_LO.addr, 31, 0⟩
/-- CLK_COURSE_NUM_HI (R47). -/
def Reg.CLK_COURSE_NUM_HI.addr : Nat := 0x1801c
def Reg.CLK_COURSE_NUM_HI.COURSE_NUM : Slot := ⟨Reg.CLK_COURSE_NUM_HI.addr, 15, 0⟩
/-- CLK_COURSE_START_LO (R47). -/
def Reg.CLK_COURSE_START_LO.addr : Nat := 0x18020
def Reg.CLK_COURSE_START_LO.START : Slot := ⟨Reg.CLK_COURSE_START_LO.addr, 31, 0⟩
/-- CLK_COURSE_START_HI (R47). -/
def Reg.CLK_COURSE_START_HI.addr : Nat := 0x18024
def Reg.CLK_COURSE_START_HI.START : Slot := ⟨Reg.CLK_COURSE_START_HI.addr, 31, 0⟩
/-- CLK_SYNC_DELAY (R47). -/
def Reg.CLK_SYNC_DELAY.addr : Nat := 0x18028
def Reg.CLK_SYNC_DELAY.DELAY : Slot := ⟨Reg.CLK_SYNC_DELAY.addr, 15, 0⟩
/-- CLK_SYNC_STATUS (R47). -/
def Reg.CLK_SYNC_STATUS.addr : Nat := 0x1802c
def Reg.CLK_SYNC_STATUS.ALIGNED : Slot := ⟨Reg.CLK_SYNC_STATUS.addr, 0, 0⟩
def Reg.CLK_SYNC_STATUS.SYNC_MISSING : Slot := ⟨Reg.CLK_SYNC_STATUS.addr, 1, 1⟩
def Reg.CLK_SYNC_STATUS.SYNC_DEVIATION : Slot := ⟨Reg.CLK_SYNC_STATUS.addr, 2, 2⟩
def Reg.CLK_SYNC_STATUS.PERIOD_REJECT : Slot := ⟨Reg.CLK_SYNC_STATUS.addr, 3, 3⟩
def Reg.CLK_SYNC_STATUS.LAST_DEVIATION : Slot := ⟨Reg.CLK_SYNC_STATUS.addr, 31, 16⟩
/-- CLK_SYNC_MISS_COUNT (R47). -/
def Reg.CLK_SYNC_MISS_COUNT.addr : Nat := 0x18030
def Reg.CLK_SYNC_MISS_COUNT.MISSES : Slot := ⟨Reg.CLK_SYNC_MISS_COUNT.addr, 31, 0⟩
/-- SEQ_DOMAIN (R48). -/
def Reg.SEQ_DOMAIN.addr (p : Nat) : Nat := Reg.window p (0x400)
def Reg.SEQ_DOMAIN.LEAD (p : Nat) : Slot := ⟨Reg.SEQ_DOMAIN.addr p, 3, 0⟩
def Reg.SEQ_DOMAIN.MEMBERS (p : Nat) : Slot := ⟨Reg.SEQ_DOMAIN.addr p, 19, 8⟩
/-- SEQ_COURSE_CTRL (R48). -/
def Reg.SEQ_COURSE_CTRL.addr (p : Nat) : Nat := Reg.window p (0x404)
def Reg.SEQ_COURSE_CTRL.ARM (p : Nat) : Slot := ⟨Reg.SEQ_COURSE_CTRL.addr p, 0, 0⟩
def Reg.SEQ_COURSE_CTRL.DISARM (p : Nat) : Slot := ⟨Reg.SEQ_COURSE_CTRL.addr p, 1, 1⟩
/-- SEQ_START_COURSE_LO (R48). -/
def Reg.SEQ_START_COURSE_LO.addr (p : Nat) : Nat := Reg.window p (0x408)
def Reg.SEQ_START_COURSE_LO.START_COURSE (p : Nat) : Slot := ⟨Reg.SEQ_START_COURSE_LO.addr p, 31, 0⟩
/-- SEQ_START_COURSE_HI (R48). -/
def Reg.SEQ_START_COURSE_HI.addr (p : Nat) : Nat := Reg.window p (0x40c)
def Reg.SEQ_START_COURSE_HI.START_COURSE (p : Nat) : Slot := ⟨Reg.SEQ_START_COURSE_HI.addr p, 15, 0⟩
/-- SEQ_COURSE_STATUS (R48). -/
def Reg.SEQ_COURSE_STATUS.addr (p : Nat) : Nat := Reg.window p (0x410)
def Reg.SEQ_COURSE_STATUS.ARMED (p : Nat) : Slot := ⟨Reg.SEQ_COURSE_STATUS.addr p, 0, 0⟩
def Reg.SEQ_COURSE_STATUS.RUNNING (p : Nat) : Slot := ⟨Reg.SEQ_COURSE_STATUS.addr p, 1, 1⟩
def Reg.SEQ_COURSE_STATUS.ARM_REFUSED (p : Nat) : Slot := ⟨Reg.SEQ_COURSE_STATUS.addr p, 2, 2⟩
def Reg.SEQ_COURSE_STATUS.MORTAR_SHORT (p : Nat) : Slot := ⟨Reg.SEQ_COURSE_STATUS.addr p, 3, 3⟩
def Reg.SEQ_COURSE_STATUS.OVERRUN (p : Nat) : Slot := ⟨Reg.SEQ_COURSE_STATUS.addr p, 4, 4⟩
def Reg.SEQ_COURSE_STATUS.HEADER_INVALID (p : Nat) : Slot := ⟨Reg.SEQ_COURSE_STATUS.addr p, 5, 5⟩
def Reg.SEQ_COURSE_STATUS.FREEZE_LIMIT (p : Nat) : Slot := ⟨Reg.SEQ_COURSE_STATUS.addr p, 6, 6⟩
def Reg.SEQ_COURSE_STATUS.FROZEN (p : Nat) : Slot := ⟨Reg.SEQ_COURSE_STATUS.addr p, 7, 7⟩
def Reg.SEQ_COURSE_STATUS.SCHED_MISMATCH (p : Nat) : Slot := ⟨Reg.SEQ_COURSE_STATUS.addr p, 8, 8⟩
def Reg.SEQ_COURSE_STATUS.LAG_LIMIT (p : Nat) : Slot := ⟨Reg.SEQ_COURSE_STATUS.addr p, 9, 9⟩
def Reg.SEQ_COURSE_STATUS.LAG (p : Nat) : Slot := ⟨Reg.SEQ_COURSE_STATUS.addr p, 31, 16⟩
/-- SEQ_FREEZE_LIMIT (R48). -/
def Reg.SEQ_FREEZE_LIMIT.addr (p : Nat) : Nat := Reg.window p (0x414)
def Reg.SEQ_FREEZE_LIMIT.LIMIT (p : Nat) : Slot := ⟨Reg.SEQ_FREEZE_LIMIT.addr p, 31, 0⟩
/-- SEQ_LAST_COURSE_LO (R48). -/
def Reg.SEQ_LAST_COURSE_LO.addr (p : Nat) : Nat := Reg.window p (0x418)
def Reg.SEQ_LAST_COURSE_LO.COURSE (p : Nat) : Slot := ⟨Reg.SEQ_LAST_COURSE_LO.addr p, 31, 0⟩
/-- SEQ_LAST_COURSE_HI (R48). -/
def Reg.SEQ_LAST_COURSE_HI.addr (p : Nat) : Nat := Reg.window p (0x41c)
def Reg.SEQ_LAST_COURSE_HI.COURSE (p : Nat) : Slot := ⟨Reg.SEQ_LAST_COURSE_HI.addr p, 15, 0⟩
/-- SEQ_LAST_SCHED (R48). -/
def Reg.SEQ_LAST_SCHED.addr (p : Nat) : Nat := Reg.window p (0x420)
def Reg.SEQ_LAST_SCHED.CYCLES (p : Nat) : Slot := ⟨Reg.SEQ_LAST_SCHED.addr p, 31, 0⟩
/-- SEQ_LAST_FREEZE (R48). -/
def Reg.SEQ_LAST_FREEZE.addr (p : Nat) : Nat := Reg.window p (0x424)
def Reg.SEQ_LAST_FREEZE.CYCLES (p : Nat) : Slot := ⟨Reg.SEQ_LAST_FREEZE.addr p, 31, 0⟩
/-- SEQ_LAST_FRZ_WAIT (R48). -/
def Reg.SEQ_LAST_FRZ_WAIT.addr (p : Nat) : Nat := Reg.window p (0x428)
def Reg.SEQ_LAST_FRZ_WAIT.CYCLES (p : Nat) : Slot := ⟨Reg.SEQ_LAST_FRZ_WAIT.addr p, 31, 0⟩
/-- SEQ_LAST_FRZ_CROSS (R48). -/
def Reg.SEQ_LAST_FRZ_CROSS.addr (p : Nat) : Nat := Reg.window p (0x42c)
def Reg.SEQ_LAST_FRZ_CROSS.CYCLES (p : Nat) : Slot := ⟨Reg.SEQ_LAST_FRZ_CROSS.addr p, 31, 0⟩
/-- SEQ_LAST_FRZ_MORAINE (R48). -/
def Reg.SEQ_LAST_FRZ_MORAINE.addr (p : Nat) : Nat := Reg.window p (0x430)
def Reg.SEQ_LAST_FRZ_MORAINE.CYCLES (p : Nat) : Slot := ⟨Reg.SEQ_LAST_FRZ_MORAINE.addr p, 31, 0⟩
/-- SEQ_LAST_FRZ_LINK (R48). -/
def Reg.SEQ_LAST_FRZ_LINK.addr (p : Nat) : Nat := Reg.window p (0x434)
def Reg.SEQ_LAST_FRZ_LINK.CYCLES (p : Nat) : Slot := ⟨Reg.SEQ_LAST_FRZ_LINK.addr p, 31, 0⟩
/-- SEQ_LAST_FRZ_THROTTLE (R48). -/
def Reg.SEQ_LAST_FRZ_THROTTLE.addr (p : Nat) : Nat := Reg.window p (0x438)
def Reg.SEQ_LAST_FRZ_THROTTLE.CYCLES (p : Nat) : Slot := ⟨Reg.SEQ_LAST_FRZ_THROTTLE.addr p, 31, 0⟩
/-- SEQ_LAST_END (R48). -/
def Reg.SEQ_LAST_END.addr (p : Nat) : Nat := Reg.window p (0x43c)
def Reg.SEQ_LAST_END.COUNTS (p : Nat) : Slot := ⟨Reg.SEQ_LAST_END.addr p, 31, 0⟩
/-- SEQ_LAST_START_SLIP (R48). -/
def Reg.SEQ_LAST_START_SLIP.addr (p : Nat) : Nat := Reg.window p (0x440)
def Reg.SEQ_LAST_START_SLIP.COUNTS (p : Nat) : Slot := ⟨Reg.SEQ_LAST_START_SLIP.addr p, 31, 0⟩
/-- SEQ_MIN_HEADROOM (R48). -/
def Reg.SEQ_MIN_HEADROOM.addr (p : Nat) : Nat := Reg.window p (0x444)
def Reg.SEQ_MIN_HEADROOM.COUNTS (p : Nat) : Slot := ⟨Reg.SEQ_MIN_HEADROOM.addr p, 31, 0⟩
/-- SEQ_OVERRUN_COUNT (R48). -/
def Reg.SEQ_OVERRUN_COUNT.addr (p : Nat) : Nat := Reg.window p (0x448)
def Reg.SEQ_OVERRUN_COUNT.COUNT (p : Nat) : Slot := ⟨Reg.SEQ_OVERRUN_COUNT.addr p, 31, 0⟩
/-- SEQ_LATE_COUNT (R48). -/
def Reg.SEQ_LATE_COUNT.addr (p : Nat) : Nat := Reg.window p (0x44c)
def Reg.SEQ_LATE_COUNT.COUNT (p : Nat) : Slot := ⟨Reg.SEQ_LATE_COUNT.addr p, 31, 0⟩
/-- SEQ_FREEZE_TOTAL_LO (R48). -/
def Reg.SEQ_FREEZE_TOTAL_LO.addr (p : Nat) : Nat := Reg.window p (0x450)
def Reg.SEQ_FREEZE_TOTAL_LO.CYCLES (p : Nat) : Slot := ⟨Reg.SEQ_FREEZE_TOTAL_LO.addr p, 31, 0⟩
/-- SEQ_FREEZE_TOTAL_HI (R48). -/
def Reg.SEQ_FREEZE_TOTAL_HI.addr (p : Nat) : Nat := Reg.window p (0x454)
def Reg.SEQ_FREEZE_TOTAL_HI.CYCLES (p : Nat) : Slot := ⟨Reg.SEQ_FREEZE_TOTAL_HI.addr p, 31, 0⟩
/-- SEQ_MAX_FREEZE (R48). -/
def Reg.SEQ_MAX_FREEZE.addr (p : Nat) : Nat := Reg.window p (0x458)
def Reg.SEQ_MAX_FREEZE.CYCLES (p : Nat) : Slot := ⟨Reg.SEQ_MAX_FREEZE.addr p, 31, 0⟩
/-- SEQ_MORTAR_SHORT_COUNT (R48). -/
def Reg.SEQ_MORTAR_SHORT_COUNT.addr (p : Nat) : Nat := Reg.window p (0x45c)
def Reg.SEQ_MORTAR_SHORT_COUNT.COUNT (p : Nat) : Slot := ⟨Reg.SEQ_MORTAR_SHORT_COUNT.addr p, 31, 0⟩
/-- FEAT_TILE (R82). -/
def Reg.FEAT_TILE.addr : Nat := 0x110
def Reg.FEAT_TILE.ARRAYS : Slot := ⟨Reg.FEAT_TILE.addr, 3, 0⟩
def Reg.FEAT_TILE.ARRAY_ROWS : Slot := ⟨Reg.FEAT_TILE.addr, 11, 4⟩
def Reg.FEAT_TILE.ARRAY_COLS : Slot := ⟨Reg.FEAT_TILE.addr, 19, 12⟩
def Reg.FEAT_TILE.VEC_LANES : Slot := ⟨Reg.FEAT_TILE.addr, 27, 20⟩
/-- FEAT_TILE_SYNC (R82). -/
def Reg.FEAT_TILE_SYNC.addr : Nat := 0x114
def Reg.FEAT_TILE_SYNC.CAIRNS : Slot := ⟨Reg.FEAT_TILE_SYNC.addr, 7, 0⟩
def Reg.FEAT_TILE_SYNC.SEMS : Slot := ⟨Reg.FEAT_TILE_SYNC.addr, 15, 8⟩
def Reg.FEAT_TILE_SYNC.QUEUE_DEPTH : Slot := ⟨Reg.FEAT_TILE_SYNC.addr, 23, 16⟩
def Reg.FEAT_TILE_SYNC.OPS_IN_FLIGHT : Slot := ⟨Reg.FEAT_TILE_SYNC.addr, 31, 24⟩
/-- FEAT_MEM (R82). -/
def Reg.FEAT_MEM.addr : Nat := 0x118
def Reg.FEAT_MEM.SLICES : Slot := ⟨Reg.FEAT_MEM.addr, 3, 0⟩
def Reg.FEAT_MEM.STRATA : Slot := ⟨Reg.FEAT_MEM.addr, 7, 4⟩
def Reg.FEAT_MEM.ROWS : Slot := ⟨Reg.FEAT_MEM.addr, 21, 8⟩
def Reg.FEAT_MEM.BANKS : Slot := ⟨Reg.FEAT_MEM.addr, 28, 22⟩
/-- FEAT_MEM_LAT (R82). -/
def Reg.FEAT_MEM_LAT.addr : Nat := 0x11c
def Reg.FEAT_MEM_LAT.LAT : Slot := ⟨Reg.FEAT_MEM_LAT.addr, 31, 0⟩
/-- FEAT_MEM_SPARE (R82). -/
def Reg.FEAT_MEM_SPARE.addr : Nat := 0x120
def Reg.FEAT_MEM_SPARE.SPARE_ROWS : Slot := ⟨Reg.FEAT_MEM_SPARE.addr, 7, 0⟩
def Reg.FEAT_MEM_SPARE.SPARE_BANKS : Slot := ⟨Reg.FEAT_MEM_SPARE.addr, 11, 8⟩
def Reg.FEAT_MEM_SPARE.CE_LOG : Slot := ⟨Reg.FEAT_MEM_SPARE.addr, 15, 12⟩
/-- TILE_REPAIR (R83). -/
def Reg.TILE_REPAIR.addr (i : Nat) : Nat := 0x20000 + 4 * i
def Reg.TILE_REPAIR.DEAD_POS (i : Nat) : Slot := ⟨Reg.TILE_REPAIR.addr i, 4, 0⟩
def Reg.TILE_REPAIR.SECOND_DEAD (i : Nat) : Slot := ⟨Reg.TILE_REPAIR.addr i, 8, 8⟩
def Reg.TILE_REPAIR.SECOND_POS (i : Nat) : Slot := ⟨Reg.TILE_REPAIR.addr i, 13, 9⟩
/-- TILE_ID (R84). -/
def Reg.TILE_ID.addr (p a : Nat) : Nat := Reg.page p a (0x0)
def Reg.TILE_ID.LOGICAL_ID (p a : Nat) : Slot := ⟨Reg.TILE_ID.addr p a, 9, 0⟩
def Reg.TILE_ID.ROW (p a : Nat) : Slot := ⟨Reg.TILE_ID.addr p a, 13, 10⟩
def Reg.TILE_ID.LCOL (p a : Nat) : Slot := ⟨Reg.TILE_ID.addr p a, 19, 14⟩
def Reg.TILE_ID.PCOL (p a : Nat) : Slot := ⟨Reg.TILE_ID.addr p a, 25, 20⟩
/-- TILE_STATUS (R84). -/
def Reg.TILE_STATUS.addr (p a : Nat) : Nat := Reg.page p a (0x4)
def Reg.TILE_STATUS.CE_EVENT (p a : Nat) : Slot := ⟨Reg.TILE_STATUS.addr p a, 0, 0⟩
def Reg.TILE_STATUS.CE_LOG_FULL (p a : Nat) : Slot := ⟨Reg.TILE_STATUS.addr p a, 1, 1⟩
def Reg.TILE_STATUS.UE (p a : Nat) : Slot := ⟨Reg.TILE_STATUS.addr p a, 2, 2⟩
def Reg.TILE_STATUS.BANK_CONFLICT (p a : Nat) : Slot := ⟨Reg.TILE_STATUS.addr p a, 3, 3⟩
def Reg.TILE_STATUS.CAIRN_OVF (p a : Nat) : Slot := ⟨Reg.TILE_STATUS.addr p a, 4, 4⟩
def Reg.TILE_STATUS.SEM_OVF (p a : Nat) : Slot := ⟨Reg.TILE_STATUS.addr p a, 5, 5⟩
def Reg.TILE_STATUS.PWR_ACCESS (p a : Nat) : Slot := ⟨Reg.TILE_STATUS.addr p a, 6, 6⟩
/-- TILE_SLICE_PWR (R84). -/
def Reg.TILE_SLICE_PWR.addr (p a : Nat) : Nat := Reg.page p a (0x10)
def Reg.TILE_SLICE_PWR.PWR_EN (p a : Nat) : Slot := ⟨Reg.TILE_SLICE_PWR.addr p a, 7, 0⟩
def Reg.TILE_SLICE_PWR.READY (p a : Nat) : Slot := ⟨Reg.TILE_SLICE_PWR.addr p a, 15, 8⟩
/-- TILE_SCRUB_CTRL (R84). -/
def Reg.TILE_SCRUB_CTRL.addr (p a : Nat) : Nat := Reg.page p a (0x14)
def Reg.TILE_SCRUB_CTRL.EN (p a : Nat) : Slot := ⟨Reg.TILE_SCRUB_CTRL.addr p a, 0, 0⟩
def Reg.TILE_SCRUB_CTRL.INTERVAL (p a : Nat) : Slot := ⟨Reg.TILE_SCRUB_CTRL.addr p a, 31, 16⟩
/-- TILE_CE_THRESHOLD (R84). -/
def Reg.TILE_CE_THRESHOLD.addr (p a : Nat) : Nat := Reg.page p a (0x18)
def Reg.TILE_CE_THRESHOLD.THRESHOLD (p a : Nat) : Slot := ⟨Reg.TILE_CE_THRESHOLD.addr p a, 15, 0⟩
/-- TILE_ECC_CE_COUNT (R84). -/
def Reg.TILE_ECC_CE_COUNT.addr (p a : Nat) : Nat := Reg.page p a (0x20)
def Reg.TILE_ECC_CE_COUNT.COUNT (p a : Nat) : Slot := ⟨Reg.TILE_ECC_CE_COUNT.addr p a, 31, 0⟩
/-- TILE_ECC_UE_ADDR (R84). -/
def Reg.TILE_ECC_UE_ADDR.addr (p a : Nat) : Nat := Reg.page p a (0x24)
def Reg.TILE_ECC_UE_ADDR.ADDR (p a : Nat) : Slot := ⟨Reg.TILE_ECC_UE_ADDR.addr p a, 24, 0⟩
def Reg.TILE_ECC_UE_ADDR.VALID (p a : Nat) : Slot := ⟨Reg.TILE_ECC_UE_ADDR.addr p a, 31, 31⟩
/-- TILE_CONFLICT_INFO (R84). -/
def Reg.TILE_CONFLICT_INFO.addr (p a : Nat) : Nat := Reg.page p a (0x28)
def Reg.TILE_CONFLICT_INFO.SLICE (p a : Nat) : Slot := ⟨Reg.TILE_CONFLICT_INFO.addr p a, 2, 0⟩
def Reg.TILE_CONFLICT_INFO.BANK (p a : Nat) : Slot := ⟨Reg.TILE_CONFLICT_INFO.addr p a, 8, 3⟩
def Reg.TILE_CONFLICT_INFO.CYCLE (p a : Nat) : Slot := ⟨Reg.TILE_CONFLICT_INFO.addr p a, 31, 9⟩
/-- TILE_GROUT_BANK (R84). -/
def Reg.TILE_GROUT_BANK.addr (p a i : Nat) : Nat := Reg.page p a (0x40 + 4 * i)
def Reg.TILE_GROUT_BANK.BANK (p a i : Nat) : Slot := ⟨Reg.TILE_GROUT_BANK.addr p a i, 5, 0⟩
def Reg.TILE_GROUT_BANK.VALID (p a i : Nat) : Slot := ⟨Reg.TILE_GROUT_BANK.addr p a i, 7, 7⟩
/-- TILE_CE_LOG (R84). -/
def Reg.TILE_CE_LOG.addr (p a i : Nat) : Nat := Reg.page p a (0x100 + 4 * i)
def Reg.TILE_CE_LOG.ROW (p a i : Nat) : Slot := ⟨Reg.TILE_CE_LOG.addr p a i, 12, 0⟩
def Reg.TILE_CE_LOG.COUNT (p a i : Nat) : Slot := ⟨Reg.TILE_CE_LOG.addr p a i, 29, 16⟩
def Reg.TILE_CE_LOG.VALID (p a i : Nat) : Slot := ⟨Reg.TILE_CE_LOG.addr p a i, 31, 31⟩
/-- TILE_CAIRN (R84). -/
def Reg.TILE_CAIRN.addr (p a i : Nat) : Nat := Reg.page p a (0x200 + 4 * i)
def Reg.TILE_CAIRN.VALUE (p a i : Nat) : Slot := ⟨Reg.TILE_CAIRN.addr p a i, 23, 0⟩
/-- TILE_SEM (R84). -/
def Reg.TILE_SEM.addr (p a i : Nat) : Nat := Reg.page p a (0x300 + 4 * i)
def Reg.TILE_SEM.VALUE (p a i : Nat) : Slot := ⟨Reg.TILE_SEM.addr p a i, 7, 0⟩
/-- TILE_GROUT_ROW (R84). -/
def Reg.TILE_GROUT_ROW.addr (p a i : Nat) : Nat := Reg.page p a (0x400 + 4 * i)
def Reg.TILE_GROUT_ROW.LOGICAL_ROW (p a i : Nat) : Slot := ⟨Reg.TILE_GROUT_ROW.addr p a i, 12, 0⟩
def Reg.TILE_GROUT_ROW.VALID (p a i : Nat) : Slot := ⟨Reg.TILE_GROUT_ROW.addr p a i, 15, 15⟩
/-- FEAT_ARR (R102). -/
def Reg.FEAT_ARR.addr : Nat := 0x124
def Reg.FEAT_ARR.ACC_SETS : Slot := ⟨Reg.FEAT_ARR.addr, 7, 0⟩
def Reg.FEAT_ARR.PIPE : Slot := ⟨Reg.FEAT_ARR.addr, 11, 8⟩
def Reg.FEAT_ARR.BF16_PERIOD : Slot := ⟨Reg.FEAT_ARR.addr, 15, 12⟩
def Reg.FEAT_ARR.ACC_BITS : Slot := ⟨Reg.FEAT_ARR.addr, 23, 16⟩
def Reg.FEAT_ARR.CHK_ACC_BITS : Slot := ⟨Reg.FEAT_ARR.addr, 31, 24⟩
/-- ARR_CTRL (R103). -/
def Reg.ARR_CTRL.addr (p : Nat) : Nat := Reg.window p (0x800)
def Reg.ARR_CTRL.ROW_CHECK_EN (p : Nat) : Slot := ⟨Reg.ARR_CTRL.addr p, 0, 0⟩
/-- ARR_CHK_STATUS (R103). -/
def Reg.ARR_CHK_STATUS.addr (p : Nat) : Nat := Reg.window p (0x804)
def Reg.ARR_CHK_STATUS.ROW_MISMATCH (p : Nat) : Slot := ⟨Reg.ARR_CHK_STATUS.addr p, 0, 0⟩
def Reg.ARR_CHK_STATUS.SET_MISMATCH (p : Nat) : Slot := ⟨Reg.ARR_CHK_STATUS.addr p, 1, 1⟩
def Reg.ARR_CHK_STATUS.CHK_SKIPPED (p : Nat) : Slot := ⟨Reg.ARR_CHK_STATUS.addr p, 2, 2⟩
/-- ARR_CHK_INFO (R103). -/
def Reg.ARR_CHK_INFO.addr (p : Nat) : Nat := Reg.window p (0x808)
def Reg.ARR_CHK_INFO.ASHLAR (p : Nat) : Slot := ⟨Reg.ARR_CHK_INFO.addr p, 5, 0⟩
def Reg.ARR_CHK_INFO.ARRAY (p : Nat) : Slot := ⟨Reg.ARR_CHK_INFO.addr p, 7, 6⟩
def Reg.ARR_CHK_INFO.SET (p : Nat) : Slot := ⟨Reg.ARR_CHK_INFO.addr p, 11, 8⟩
def Reg.ARR_CHK_INFO.KIND (p : Nat) : Slot := ⟨Reg.ARR_CHK_INFO.addr p, 12, 12⟩
def Reg.ARR_CHK_INFO.CELL_ROW (p : Nat) : Slot := ⟨Reg.ARR_CHK_INFO.addr p, 18, 13⟩
/-- ARR_CHK_CYCLE (R103). -/
def Reg.ARR_CHK_CYCLE.addr (p : Nat) : Nat := Reg.window p (0x80c)
def Reg.ARR_CHK_CYCLE.CYCLE (p : Nat) : Slot := ⟨Reg.ARR_CHK_CYCLE.addr p, 31, 0⟩
/-- ARR_CHK_PASS_COUNT (R103). -/
def Reg.ARR_CHK_PASS_COUNT.addr (p : Nat) : Nat := Reg.window p (0x810)
def Reg.ARR_CHK_PASS_COUNT.COUNT (p : Nat) : Slot := ⟨Reg.ARR_CHK_PASS_COUNT.addr p, 31, 0⟩
/-- ARR_CHK_SKIP_COUNT (R103). -/
def Reg.ARR_CHK_SKIP_COUNT.addr (p : Nat) : Nat := Reg.window p (0x814)
def Reg.ARR_CHK_SKIP_COUNT.COUNT (p : Nat) : Slot := ⟨Reg.ARR_CHK_SKIP_COUNT.addr p, 31, 0⟩
/-- ARR_MISMATCH_COUNT (R103). -/
def Reg.ARR_MISMATCH_COUNT.addr (p : Nat) : Nat := Reg.window p (0x818)
def Reg.ARR_MISMATCH_COUNT.COUNT (p : Nat) : Slot := ⟨Reg.ARR_MISMATCH_COUNT.addr p, 31, 0⟩
/-- ARR_UTIL (R103). -/
def Reg.ARR_UTIL.addr (p i : Nat) : Nat := Reg.window p (0x900 + 4 * i)
def Reg.ARR_UTIL.STEPS (p i : Nat) : Slot := ⟨Reg.ARR_UTIL.addr p i, 31, 0⟩
/-- FEAT_FMT (R131). -/
def Reg.FEAT_FMT.addr : Nat := 0x128
def Reg.FEAT_FMT.CODES : Slot := ⟨Reg.FEAT_FMT.addr, 15, 0⟩
def Reg.FEAT_FMT.BLOCK_LOG2 : Slot := ⟨Reg.FEAT_FMT.addr, 19, 16⟩
/-- SEQ_NUM_CTRL (R132). -/
def Reg.SEQ_NUM_CTRL.addr (p : Nat) : Nat := Reg.window p (0xc00)
def Reg.SEQ_NUM_CTRL.SAT_THRESH_EN (p : Nat) : Slot := ⟨Reg.SEQ_NUM_CTRL.addr p, 0, 0⟩
def Reg.SEQ_NUM_CTRL.SAT_HALT (p : Nat) : Slot := ⟨Reg.SEQ_NUM_CTRL.addr p, 1, 1⟩
/-- SEQ_SAT_THRESHOLD (R132). -/
def Reg.SEQ_SAT_THRESHOLD.addr (p : Nat) : Nat := Reg.window p (0xc04)
def Reg.SEQ_SAT_THRESHOLD.THRESHOLD (p : Nat) : Slot := ⟨Reg.SEQ_SAT_THRESHOLD.addr p, 19, 0⟩
/-- SEQ_NUM_STICKY (R132). -/
def Reg.SEQ_NUM_STICKY.addr (p : Nat) : Nat := Reg.window p (0xc08)
def Reg.SEQ_NUM_STICKY.SAT (p : Nat) : Slot := ⟨Reg.SEQ_NUM_STICKY.addr p, 0, 0⟩
def Reg.SEQ_NUM_STICKY.UNDER (p : Nat) : Slot := ⟨Reg.SEQ_NUM_STICKY.addr p, 1, 1⟩
def Reg.SEQ_NUM_STICKY.FLUSHED (p : Nat) : Slot := ⟨Reg.SEQ_NUM_STICKY.addr p, 2, 2⟩
def Reg.SEQ_NUM_STICKY.NAN (p : Nat) : Slot := ⟨Reg.SEQ_NUM_STICKY.addr p, 3, 3⟩
/-- SEQ_NUM_FLAGS (R132). -/
def Reg.SEQ_NUM_FLAGS.addr (p i : Nat) : Nat := Reg.window p (0xc40 + 4 * i)
def Reg.SEQ_NUM_FLAGS.SAT (p i : Nat) : Slot := ⟨Reg.SEQ_NUM_FLAGS.addr p i, 0, 0⟩
def Reg.SEQ_NUM_FLAGS.UNDER (p i : Nat) : Slot := ⟨Reg.SEQ_NUM_FLAGS.addr p i, 1, 1⟩
def Reg.SEQ_NUM_FLAGS.FLUSHED (p i : Nat) : Slot := ⟨Reg.SEQ_NUM_FLAGS.addr p i, 2, 2⟩
def Reg.SEQ_NUM_FLAGS.NAN (p i : Nat) : Slot := ⟨Reg.SEQ_NUM_FLAGS.addr p i, 3, 3⟩
/-- ARR_TALLY_LO (R132). -/
def Reg.ARR_TALLY_LO.addr (p i : Nat) : Nat := Reg.window p (0xd00 + 8 * i)
def Reg.ARR_TALLY_LO.TALLY_LO (p i : Nat) : Slot := ⟨Reg.ARR_TALLY_LO.addr p i, 31, 0⟩
/-- ARR_TALLY_HI (R132). -/
def Reg.ARR_TALLY_HI.addr (p i : Nat) : Nat := Reg.window p (0xd04 + 8 * i)
def Reg.ARR_TALLY_HI.TALLY_HI (p i : Nat) : Slot := ⟨Reg.ARR_TALLY_HI.addr p i, 31, 0⟩
/-- VEC_TALLY_LO (R132). -/
def Reg.VEC_TALLY_LO.addr (p i : Nat) : Nat := Reg.window p (0xe80 + 8 * i)
def Reg.VEC_TALLY_LO.TALLY_LO (p i : Nat) : Slot := ⟨Reg.VEC_TALLY_LO.addr p i, 31, 0⟩
/-- VEC_TALLY_HI (R132). -/
def Reg.VEC_TALLY_HI.addr (p i : Nat) : Nat := Reg.window p (0xe84 + 8 * i)
def Reg.VEC_TALLY_HI.TALLY_HI (p i : Nat) : Slot := ⟨Reg.VEC_TALLY_HI.addr p i, 31, 0⟩
/-- FEAT_VEC (R161). -/
def Reg.FEAT_VEC.addr : Nat := 0x12c
def Reg.FEAT_VEC.MAX_STAGES : Slot := ⟨Reg.FEAT_VEC.addr, 3, 0⟩
def Reg.FEAT_VEC.VREGS : Slot := ⟨Reg.FEAT_VEC.addr, 7, 4⟩
def Reg.FEAT_VEC.SUMMARY_LAT : Slot := ⟨Reg.FEAT_VEC.addr, 15, 8⟩
def Reg.FEAT_VEC.LAT_F : Slot := ⟨Reg.FEAT_VEC.addr, 19, 16⟩
def Reg.FEAT_VEC.LAT_S : Slot := ⟨Reg.FEAT_VEC.addr, 23, 20⟩
def Reg.FEAT_VEC.LAT_L : Slot := ⟨Reg.FEAT_VEC.addr, 27, 24⟩
/-- VEC_STATUS (R162). -/
def Reg.VEC_STATUS.addr (p : Nat) : Nat := Reg.window p (0x1000)
def Reg.VEC_STATUS.Q_WRAP (p : Nat) : Slot := ⟨Reg.VEC_STATUS.addr p, 0, 0⟩
def Reg.VEC_STATUS.NAN_REDUCE (p : Nat) : Slot := ⟨Reg.VEC_STATUS.addr p, 1, 1⟩
/-- VEC_UTIL (R162). -/
def Reg.VEC_UTIL.addr (p i : Nat) : Nat := Reg.window p (0x1100 + 4 * i)
def Reg.VEC_UTIL.F_ISSUES (p i : Nat) : Slot := ⟨Reg.VEC_UTIL.addr p i, 31, 0⟩
/-- VEC_SFU_UTIL (R162). -/
def Reg.VEC_SFU_UTIL.addr (p i : Nat) : Nat := Reg.window p (0x1200 + 4 * i)
def Reg.VEC_SFU_UTIL.S_ISSUES (p i : Nat) : Slot := ⟨Reg.VEC_SFU_UTIL.addr p i, 31, 0⟩
/-- VEC_LAST_RED (R162). -/
def Reg.VEC_LAST_RED.addr (p i : Nat) : Nat := Reg.window p (0x1300 + 4 * i)
def Reg.VEC_LAST_RED.RESULT (p i : Nat) : Slot := ⟨Reg.VEC_LAST_RED.addr p i, 31, 0⟩
/-- FEAT_SEQ (R208). -/
def Reg.FEAT_SEQ.addr : Nat := 0x130
def Reg.FEAT_SEQ.CORNICE_BANKS : Slot := ⟨Reg.FEAT_SEQ.addr, 3, 0⟩
def Reg.FEAT_SEQ.BANK_INSNS : Slot := ⟨Reg.FEAT_SEQ.addr, 13, 4⟩
def Reg.FEAT_SEQ.LOOP_DEPTH : Slot := ⟨Reg.FEAT_SEQ.addr, 16, 14⟩
def Reg.FEAT_SEQ.FREEZE_H : Slot := ⟨Reg.FEAT_SEQ.addr, 23, 17⟩
def Reg.FEAT_SEQ.OVL_LAT : Slot := ⟨Reg.FEAT_SEQ.addr, 31, 24⟩
/-- FEAT_CORE (R208). -/
def Reg.FEAT_CORE.addr : Nat := 0x134
def Reg.FEAT_CORE.S_REGS : Slot := ⟨Reg.FEAT_CORE.addr, 7, 0⟩
def Reg.FEAT_CORE.A_REGS : Slot := ⟨Reg.FEAT_CORE.addr, 15, 8⟩
def Reg.FEAT_CORE.Q_REGS : Slot := ⟨Reg.FEAT_CORE.addr, 23, 16⟩
def Reg.FEAT_CORE.PREDS : Slot := ⟨Reg.FEAT_CORE.addr, 27, 24⟩
def Reg.FEAT_CORE.Z_REGS : Slot := ⟨Reg.FEAT_CORE.addr, 31, 28⟩
/-- FEAT_SEQ_RT (R208). -/
def Reg.FEAT_SEQ_RT.addr : Nat := 0x138
def Reg.FEAT_SEQ_RT.ROUTINES : Slot := ⟨Reg.FEAT_SEQ_RT.addr, 7, 0⟩
def Reg.FEAT_SEQ_RT.OVL_QUEUE : Slot := ⟨Reg.FEAT_SEQ_RT.addr, 11, 8⟩
def Reg.FEAT_SEQ_RT.REDIRECT : Slot := ⟨Reg.FEAT_SEQ_RT.addr, 15, 12⟩
/-- SEQ_CTRL (R209). -/
def Reg.SEQ_CTRL.addr (p : Nat) : Nat := Reg.window p (0x0)
def Reg.SEQ_CTRL.DOMAIN_RESET (p : Nat) : Slot := ⟨Reg.SEQ_CTRL.addr p, 0, 0⟩
/-- SEQ_STATUS (R209). -/
def Reg.SEQ_STATUS.addr (p : Nat) : Nat := Reg.window p (0x4)
def Reg.SEQ_STATUS.HALTED (p : Nat) : Slot := ⟨Reg.SEQ_STATUS.addr p, 0, 0⟩
def Reg.SEQ_STATUS.OVL_BUSY (p : Nat) : Slot := ⟨Reg.SEQ_STATUS.addr p, 1, 1⟩
def Reg.SEQ_STATUS.FETCH_WAIT (p : Nat) : Slot := ⟨Reg.SEQ_STATUS.addr p, 2, 2⟩
def Reg.SEQ_STATUS.QUEUE_STALL (p : Nat) : Slot := ⟨Reg.SEQ_STATUS.addr p, 3, 3⟩
def Reg.SEQ_STATUS.Q_COLLIDE (p : Nat) : Slot := ⟨Reg.SEQ_STATUS.addr p, 4, 4⟩
def Reg.SEQ_STATUS.LOOP_LEVEL (p : Nat) : Slot := ⟨Reg.SEQ_STATUS.addr p, 10, 8⟩
def Reg.SEQ_STATUS.IN_ROUTINE (p : Nat) : Slot := ⟨Reg.SEQ_STATUS.addr p, 11, 11⟩
/-- SEQ_ENTRY (R209). -/
def Reg.SEQ_ENTRY.addr (p : Nat) : Nat := Reg.window p (0x8)
def Reg.SEQ_ENTRY.ENTRY (p : Nat) : Slot := ⟨Reg.SEQ_ENTRY.addr p, 16, 0⟩
/-- SEQ_NEXT_ENTRY (R209). -/
def Reg.SEQ_NEXT_ENTRY.addr (p : Nat) : Nat := Reg.window p (0xc)
def Reg.SEQ_NEXT_ENTRY.ENTRY (p : Nat) : Slot := ⟨Reg.SEQ_NEXT_ENTRY.addr p, 16, 0⟩
/-- SEQ_PC (R209). -/
def Reg.SEQ_PC.addr (p : Nat) : Nat := Reg.window p (0x10)
def Reg.SEQ_PC.PC (p : Nat) : Slot := ⟨Reg.SEQ_PC.addr p, 16, 0⟩
/-- SEQ_STALL_QUEUE (R209). -/
def Reg.SEQ_STALL_QUEUE.addr (p : Nat) : Nat := Reg.window p (0x14)
def Reg.SEQ_STALL_QUEUE.CYCLES (p : Nat) : Slot := ⟨Reg.SEQ_STALL_QUEUE.addr p, 31, 0⟩
/-- SEQ_STALL_OVL (R209). -/
def Reg.SEQ_STALL_OVL.addr (p : Nat) : Nat := Reg.window p (0x18)
def Reg.SEQ_STALL_OVL.CYCLES (p : Nat) : Slot := ⟨Reg.SEQ_STALL_OVL.addr p, 31, 0⟩
/-- SEQ_HALT_CODE (R209). -/
def Reg.SEQ_HALT_CODE.addr (p : Nat) : Nat := Reg.window p (0x20)
def Reg.SEQ_HALT_CODE.CODE (p : Nat) : Slot := ⟨Reg.SEQ_HALT_CODE.addr p, 7, 0⟩
def Reg.SEQ_HALT_CODE.SOURCE (p : Nat) : Slot := ⟨Reg.SEQ_HALT_CODE.addr p, 9, 8⟩
def Reg.SEQ_HALT_CODE.ASHLAR (p : Nat) : Slot := ⟨Reg.SEQ_HALT_CODE.addr p, 15, 10⟩
def Reg.SEQ_HALT_CODE.PART (p : Nat) : Slot := ⟨Reg.SEQ_HALT_CODE.addr p, 19, 16⟩
def Reg.SEQ_HALT_CODE.VALID (p : Nat) : Slot := ⟨Reg.SEQ_HALT_CODE.addr p, 31, 31⟩
/-- SEQ_HALT_PC (R209). -/
def Reg.SEQ_HALT_PC.addr (p : Nat) : Nat := Reg.window p (0x24)
def Reg.SEQ_HALT_PC.PC (p : Nat) : Slot := ⟨Reg.SEQ_HALT_PC.addr p, 16, 0⟩
def Reg.SEQ_HALT_PC.PC_VALID (p : Nat) : Slot := ⟨Reg.SEQ_HALT_PC.addr p, 31, 31⟩
/-- SEQ_HALT_CYCLE (R209). -/
def Reg.SEQ_HALT_CYCLE.addr (p : Nat) : Nat := Reg.window p (0x28)
def Reg.SEQ_HALT_CYCLE.CYCLE (p : Nat) : Slot := ⟨Reg.SEQ_HALT_CYCLE.addr p, 31, 0⟩
/-- SEQ_HALT_COURSE_LO (R209). -/
def Reg.SEQ_HALT_COURSE_LO.addr (p : Nat) : Nat := Reg.window p (0x2c)
def Reg.SEQ_HALT_COURSE_LO.COURSE (p : Nat) : Slot := ⟨Reg.SEQ_HALT_COURSE_LO.addr p, 31, 0⟩
/-- SEQ_HALT_COURSE_HI (R209). -/
def Reg.SEQ_HALT_COURSE_HI.addr (p : Nat) : Nat := Reg.window p (0x30)
def Reg.SEQ_HALT_COURSE_HI.COURSE (p : Nat) : Slot := ⟨Reg.SEQ_HALT_COURSE_HI.addr p, 15, 0⟩
/-- SEQ_HALT_ARG (R209). -/
def Reg.SEQ_HALT_ARG.addr (p : Nat) : Nat := Reg.window p (0x34)
def Reg.SEQ_HALT_ARG.ARG (p : Nat) : Slot := ⟨Reg.SEQ_HALT_ARG.addr p, 15, 0⟩
/-- SEQ_HALT_COUNT (R209). -/
def Reg.SEQ_HALT_COUNT.addr (p : Nat) : Nat := Reg.window p (0x38)
def Reg.SEQ_HALT_COUNT.COUNT (p : Nat) : Slot := ⟨Reg.SEQ_HALT_COUNT.addr p, 31, 0⟩
/-- SEQ_LOOP_COUNT (R209). -/
def Reg.SEQ_LOOP_COUNT.addr (p i : Nat) : Nat := Reg.window p (0x40 + 4 * i)
def Reg.SEQ_LOOP_COUNT.REMAINING (p i : Nat) : Slot := ⟨Reg.SEQ_LOOP_COUNT.addr p i, 31, 0⟩
/-- SEQ_LOOP_BODY (R209). -/
def Reg.SEQ_LOOP_BODY.addr (p i : Nat) : Nat := Reg.window p (0x50 + 4 * i)
def Reg.SEQ_LOOP_BODY.FIRST (p i : Nat) : Slot := ⟨Reg.SEQ_LOOP_BODY.addr p i, 16, 0⟩
def Reg.SEQ_LOOP_BODY.LENGTH (p i : Nat) : Slot := ⟨Reg.SEQ_LOOP_BODY.addr p i, 29, 17⟩
def Reg.SEQ_LOOP_BODY.ACTIVE (p i : Nat) : Slot := ⟨Reg.SEQ_LOOP_BODY.addr p i, 31, 31⟩
/-- SEQ_Q (R209). -/
def Reg.SEQ_Q.addr (p i : Nat) : Nat := Reg.window p (0x60 + 4 * i)
def Reg.SEQ_Q.VALUE (p i : Nat) : Slot := ⟨Reg.SEQ_Q.addr p i, 31, 0⟩
/-- SEQ_ZSUM (R209). -/
def Reg.SEQ_ZSUM.addr (p i : Nat) : Nat := Reg.window p (0xa0 + 4 * i)
def Reg.SEQ_ZSUM.ZOR (p i : Nat) : Slot := ⟨Reg.SEQ_ZSUM.addr p i, 15, 0⟩
def Reg.SEQ_ZSUM.ZAND (p i : Nat) : Slot := ⟨Reg.SEQ_ZSUM.addr p i, 31, 16⟩
/-- SEQ_BANK (R209). -/
def Reg.SEQ_BANK.addr (p i : Nat) : Nat := Reg.window p (0xc0 + 4 * i)
def Reg.SEQ_BANK.STATE (p i : Nat) : Slot := ⟨Reg.SEQ_BANK.addr p i, 1, 0⟩
def Reg.SEQ_BANK.LEASED (p i : Nat) : Slot := ⟨Reg.SEQ_BANK.addr p i, 2, 2⟩
def Reg.SEQ_BANK.RESIDENT (p i : Nat) : Slot := ⟨Reg.SEQ_BANK.addr p i, 3, 3⟩
def Reg.SEQ_BANK.QUEUED (p i : Nat) : Slot := ⟨Reg.SEQ_BANK.addr p i, 6, 4⟩
def Reg.SEQ_BANK.TAG (p i : Nat) : Slot := ⟨Reg.SEQ_BANK.addr p i, 29, 16⟩
/-- SEQ_CORNICE_ADDR (R209). -/
def Reg.SEQ_CORNICE_ADDR.addr (p : Nat) : Nat := Reg.window p (0x100)
def Reg.SEQ_CORNICE_ADDR.LOCAL_IA (p : Nat) : Slot := ⟨Reg.SEQ_CORNICE_ADDR.addr p, 12, 0⟩
def Reg.SEQ_CORNICE_ADDR.AUTO_INC (p : Nat) : Slot := ⟨Reg.SEQ_CORNICE_ADDR.addr p, 31, 31⟩
/-- SEQ_CORNICE_DATA_LO (R209). -/
def Reg.SEQ_CORNICE_DATA_LO.addr (p : Nat) : Nat := Reg.window p (0x104)
def Reg.SEQ_CORNICE_DATA_LO.DATA (p : Nat) : Slot := ⟨Reg.SEQ_CORNICE_DATA_LO.addr p, 31, 0⟩
/-- SEQ_CORNICE_DATA_HI (R209). -/
def Reg.SEQ_CORNICE_DATA_HI.addr (p : Nat) : Nat := Reg.window p (0x108)
def Reg.SEQ_CORNICE_DATA_HI.DATA (p : Nat) : Slot := ⟨Reg.SEQ_CORNICE_DATA_HI.addr p, 31, 0⟩
/-- SEQ_ROUTINE_LO (R209). -/
def Reg.SEQ_ROUTINE_LO.addr (p i : Nat) : Nat := Reg.window p (0x200 + 8 * i)
def Reg.SEQ_ROUTINE_LO.ENTRY (p i : Nat) : Slot := ⟨Reg.SEQ_ROUTINE_LO.addr p i, 16, 0⟩
def Reg.SEQ_ROUTINE_LO.LENGTH (p i : Nat) : Slot := ⟨Reg.SEQ_ROUTINE_LO.addr p i, 29, 17⟩
def Reg.SEQ_ROUTINE_LO.VALID (p i : Nat) : Slot := ⟨Reg.SEQ_ROUTINE_LO.addr p i, 31, 31⟩
/-- SEQ_ROUTINE_HI (R209). -/
def Reg.SEQ_ROUTINE_HI.addr (p i : Nat) : Nat := Reg.window p (0x204 + 8 * i)
def Reg.SEQ_ROUTINE_HI.VERSION (p i : Nat) : Slot := ⟨Reg.SEQ_ROUTINE_HI.addr p i, 7, 0⟩
/-- VEC_CH_HDR (R249). -/
def Reg.VEC_CH_HDR.addr (p i : Nat) : Nat := Reg.window p (0x1400 + 64 * i)
def Reg.VEC_CH_HDR.NSTAGES (p i : Nat) : Slot := ⟨Reg.VEC_CH_HDR.addr p i, 3, 0⟩
def Reg.VEC_CH_HDR.SRC_KIND (p i : Nat) : Slot := ⟨Reg.VEC_CH_HDR.addr p i, 5, 4⟩
def Reg.VEC_CH_HDR.SRC_FMT (p i : Nat) : Slot := ⟨Reg.VEC_CH_HDR.addr p i, 9, 6⟩
def Reg.VEC_CH_HDR.SNK_KIND (p i : Nat) : Slot := ⟨Reg.VEC_CH_HDR.addr p i, 11, 10⟩
def Reg.VEC_CH_HDR.SNK_FMT (p i : Nat) : Slot := ⟨Reg.VEC_CH_HDR.addr p i, 15, 12⟩
def Reg.VEC_CH_HDR.VALID (p i : Nat) : Slot := ⟨Reg.VEC_CH_HDR.addr p i, 16, 16⟩
/-- VEC_CH_RED (R249). -/
def Reg.VEC_CH_RED.addr (p i : Nat) : Nat := Reg.window p (0x1404 + 64 * i)
def Reg.VEC_CH_RED.ROP (p i : Nat) : Slot := ⟨Reg.VEC_CH_RED.addr p i, 2, 0⟩
def Reg.VEC_CH_RED.WR (p i : Nat) : Slot := ⟨Reg.VEC_CH_RED.addr p i, 12, 3⟩
def Reg.VEC_CH_RED.SDST_EN (p i : Nat) : Slot := ⟨Reg.VEC_CH_RED.addr p i, 13, 13⟩
def Reg.VEC_CH_RED.SDST_SLICE (p i : Nat) : Slot := ⟨Reg.VEC_CH_RED.addr p i, 14, 14⟩
def Reg.VEC_CH_RED.SDST (p i : Nat) : Slot := ⟨Reg.VEC_CH_RED.addr p i, 19, 15⟩
def Reg.VEC_CH_RED.CB_EN (p i : Nat) : Slot := ⟨Reg.VEC_CH_RED.addr p i, 20, 20⟩
def Reg.VEC_CH_RED.CB_CMP (p i : Nat) : Slot := ⟨Reg.VEC_CH_RED.addr p i, 23, 21⟩
def Reg.VEC_CH_RED.CB_SREG (p i : Nat) : Slot := ⟨Reg.VEC_CH_RED.addr p i, 28, 24⟩
/-- VEC_CH_RED2 (R249). -/
def Reg.VEC_CH_RED2.addr (p i : Nat) : Nat := Reg.window p (0x1408 + 64 * i)
def Reg.VEC_CH_RED2.CB_K (p i : Nat) : Slot := ⟨Reg.VEC_CH_RED2.addr p i, 1, 0⟩
def Reg.VEC_CH_RED2.CB_BIT (p i : Nat) : Slot := ⟨Reg.VEC_CH_RED2.addr p i, 5, 2⟩
def Reg.VEC_CH_RED2.Q_EN (p i : Nat) : Slot := ⟨Reg.VEC_CH_RED2.addr p i, 6, 6⟩
def Reg.VEC_CH_RED2.QN (p i : Nat) : Slot := ⟨Reg.VEC_CH_RED2.addr p i, 10, 7⟩
def Reg.VEC_CH_RED2.QOP (p i : Nat) : Slot := ⟨Reg.VEC_CH_RED2.addr p i, 12, 11⟩
/-- VEC_CH_STG (R249). -/
def Reg.VEC_CH_STG.addr (p i j : Nat) : Nat := Reg.window p (0x140c + 64 * i + 4 * j)
def Reg.VEC_CH_STG.OP (p i j : Nat) : Slot := ⟨Reg.VEC_CH_STG.addr p i j, 4, 0⟩
def Reg.VEC_CH_STG.BKIND (p i j : Nat) : Slot := ⟨Reg.VEC_CH_STG.addr p i j, 6, 5⟩
def Reg.VEC_CH_STG.BIDX (p i j : Nat) : Slot := ⟨Reg.VEC_CH_STG.addr p i j, 11, 7⟩
def Reg.VEC_CH_STG.BFMT (p i j : Nat) : Slot := ⟨Reg.VEC_CH_STG.addr p i j, 15, 12⟩
def Reg.VEC_CH_STG.CKIND (p i j : Nat) : Slot := ⟨Reg.VEC_CH_STG.addr p i j, 17, 16⟩
def Reg.VEC_CH_STG.CIDX (p i j : Nat) : Slot := ⟨Reg.VEC_CH_STG.addr p i j, 22, 18⟩
def Reg.VEC_CH_STG.CFMT (p i j : Nat) : Slot := ⟨Reg.VEC_CH_STG.addr p i j, 26, 23⟩
/-- FEAT_STAGE (R286). -/
def Reg.FEAT_STAGE.addr : Nat := 0x13c
def Reg.FEAT_STAGE.ARR_STAGE : Slot := ⟨Reg.FEAT_STAGE.addr, 7, 0⟩
def Reg.FEAT_STAGE.VEC_PREFETCH : Slot := ⟨Reg.FEAT_STAGE.addr, 15, 8⟩
def Reg.FEAT_STAGE.XFER_AHEAD : Slot := ⟨Reg.FEAT_STAGE.addr, 23, 16⟩
def Reg.FEAT_STAGE.PEND_DEPTH : Slot := ⟨Reg.FEAT_STAGE.addr, 31, 24⟩
/-- SEQ_PEND_STATUS (R287). -/
def Reg.SEQ_PEND_STATUS.addr (p : Nat) : Nat := Reg.window p (0x1c00)
def Reg.SEQ_PEND_STATUS.DEPTH (p : Nat) : Slot := ⟨Reg.SEQ_PEND_STATUS.addr p, 6, 0⟩
def Reg.SEQ_PEND_STATUS.HELD (p : Nat) : Slot := ⟨Reg.SEQ_PEND_STATUS.addr p, 8, 8⟩
/-- SEQ_PEND_APPLIED (R287). -/
def Reg.SEQ_PEND_APPLIED.addr (p : Nat) : Nat := Reg.window p (0x1c04)
def Reg.SEQ_PEND_APPLIED.COUNT (p : Nat) : Slot := ⟨Reg.SEQ_PEND_APPLIED.addr p, 31, 0⟩
/-- SEQ_PEND_HOLD (R287). -/
def Reg.SEQ_PEND_HOLD.addr (p : Nat) : Nat := Reg.window p (0x1c08)
def Reg.SEQ_PEND_HOLD.COUNTS (p : Nat) : Slot := ⟨Reg.SEQ_PEND_HOLD.addr p, 31, 0⟩
/-- FEAT_MESH (R318). -/
def Reg.FEAT_MESH.addr : Nat := 0x140
def Reg.FEAT_MESH.BASE_LAT : Slot := ⟨Reg.FEAT_MESH.addr, 3, 0⟩
def Reg.FEAT_MESH.HOP_LAT : Slot := ⟨Reg.FEAT_MESH.addr, 7, 4⟩
def Reg.FEAT_MESH.SEAM_LAT : Slot := ⟨Reg.FEAT_MESH.addr, 15, 8⟩
def Reg.FEAT_MESH.LINK_BYTES : Slot := ⟨Reg.FEAT_MESH.addr, 23, 16⟩
/-- FEAT_CLK (R318). -/
def Reg.FEAT_CLK.addr : Nat := 0x144
def Reg.FEAT_CLK.STEPS : Slot := ⟨Reg.FEAT_CLK.addr, 4, 0⟩
def Reg.FEAT_CLK.STEP_BASE : Slot := ⟨Reg.FEAT_CLK.addr, 12, 5⟩
def Reg.FEAT_CLK.STEP_INC : Slot := ⟨Reg.FEAT_CLK.addr, 19, 13⟩
def Reg.FEAT_CLK.REGIONS : Slot := ⟨Reg.FEAT_CLK.addr, 23, 20⟩
def Reg.FEAT_CLK.GUARD : Slot := ⟨Reg.FEAT_CLK.addr, 27, 24⟩
def Reg.FEAT_CLK.HEADROOM : Slot := ⟨Reg.FEAT_CLK.addr, 31, 28⟩
/-- CLK_STEP_CUR (R319). -/
def Reg.CLK_STEP_CUR.addr : Nat := 0x18100
def Reg.CLK_STEP_CUR.STEP_W : Slot := ⟨Reg.CLK_STEP_CUR.addr, 3, 0⟩
def Reg.CLK_STEP_CUR.STEP_E : Slot := ⟨Reg.CLK_STEP_CUR.addr, 7, 4⟩
def Reg.CLK_STEP_CUR.MISMATCHED : Slot := ⟨Reg.CLK_STEP_CUR.addr, 8, 8⟩
/-- CLK_STEP_PLAN (R319). -/
def Reg.CLK_STEP_PLAN.addr : Nat := 0x18104
def Reg.CLK_STEP_PLAN.NEXT_W : Slot := ⟨Reg.CLK_STEP_PLAN.addr, 3, 0⟩
def Reg.CLK_STEP_PLAN.NEXT_E : Slot := ⟨Reg.CLK_STEP_PLAN.addr, 7, 4⟩
def Reg.CLK_STEP_PLAN.PENDING : Slot := ⟨Reg.CLK_STEP_PLAN.addr, 8, 8⟩
/-- CLK_STEP_COURSE_LO (R319). -/
def Reg.CLK_STEP_COURSE_LO.addr : Nat := 0x18108
def Reg.CLK_STEP_COURSE_LO.COURSE : Slot := ⟨Reg.CLK_STEP_COURSE_LO.addr, 31, 0⟩
/-- CLK_STEP_COURSE_HI (R319). -/
def Reg.CLK_STEP_COURSE_HI.addr : Nat := 0x1810c
def Reg.CLK_STEP_COURSE_HI.COURSE : Slot := ⟨Reg.CLK_STEP_COURSE_HI.addr, 15, 0⟩
/-- CLK_STEP_STATUS (R319). -/
def Reg.CLK_STEP_STATUS.addr : Nat := 0x18110
def Reg.CLK_STEP_STATUS.APPLIED : Slot := ⟨Reg.CLK_STEP_STATUS.addr, 0, 0⟩
def Reg.CLK_STEP_STATUS.REFUSED_SPAN : Slot := ⟨Reg.CLK_STEP_STATUS.addr, 1, 1⟩
def Reg.CLK_STEP_STATUS.REFUSED_UNAVAIL : Slot := ⟨Reg.CLK_STEP_STATUS.addr, 2, 2⟩
def Reg.CLK_STEP_STATUS.REFUSED_NOTICE : Slot := ⟨Reg.CLK_STEP_STATUS.addr, 3, 3⟩
def Reg.CLK_STEP_STATUS.MID_COURSE : Slot := ⟨Reg.CLK_STEP_STATUS.addr, 4, 4⟩
/-- CLK_STEP_AVAIL (R319). -/
def Reg.CLK_STEP_AVAIL.addr : Nat := 0x18114
def Reg.CLK_STEP_AVAIL.AVAIL : Slot := ⟨Reg.CLK_STEP_AVAIL.addr, 15, 0⟩
/-- CLK_STRETCH_CFG (R319). -/
def Reg.CLK_STRETCH_CFG.addr : Nat := 0x18118
def Reg.CLK_STRETCH_CFG.DROOP : Slot := ⟨Reg.CLK_STRETCH_CFG.addr, 7, 0⟩
def Reg.CLK_STRETCH_CFG.DEPTH : Slot := ⟨Reg.CLK_STRETCH_CFG.addr, 9, 8⟩
def Reg.CLK_STRETCH_CFG.MIN_CYCLES : Slot := ⟨Reg.CLK_STRETCH_CFG.addr, 23, 16⟩
/-- CLK_TIME_CTRL (R319). -/
def Reg.CLK_TIME_CTRL.addr : Nat := 0x18120
def Reg.CLK_TIME_CTRL.FREE : Slot := ⟨Reg.CLK_TIME_CTRL.addr, 0, 0⟩
/-- CLK_TIME_STATUS (R319). -/
def Reg.CLK_TIME_STATUS.addr : Nat := 0x18124
def Reg.CLK_TIME_STATUS.MODE : Slot := ⟨Reg.CLK_TIME_STATUS.addr, 1, 0⟩
def Reg.CLK_TIME_STATUS.REF_OK : Slot := ⟨Reg.CLK_TIME_STATUS.addr, 2, 2⟩
def Reg.CLK_TIME_STATUS.REF_LOST : Slot := ⟨Reg.CLK_TIME_STATUS.addr, 3, 3⟩
def Reg.CLK_TIME_STATUS.HOLDOVER_EXPIRED : Slot := ⟨Reg.CLK_TIME_STATUS.addr, 4, 4⟩
def Reg.CLK_TIME_STATUS.SLEWING : Slot := ⟨Reg.CLK_TIME_STATUS.addr, 5, 5⟩
def Reg.CLK_TIME_STATUS.SET_REJECT : Slot := ⟨Reg.CLK_TIME_STATUS.addr, 6, 6⟩
def Reg.CLK_TIME_STATUS.PHASE_ERR : Slot := ⟨Reg.CLK_TIME_STATUS.addr, 31, 16⟩
/-- CLK_HOLDOVER_LIMIT (R319). -/
def Reg.CLK_HOLDOVER_LIMIT.addr : Nat := 0x18128
def Reg.CLK_HOLDOVER_LIMIT.LIMIT : Slot := ⟨Reg.CLK_HOLDOVER_LIMIT.addr, 31, 0⟩
/-- CLK_HOLDOVER_TIME (R319). -/
def Reg.CLK_HOLDOVER_TIME.addr : Nat := 0x1812c
def Reg.CLK_HOLDOVER_TIME.TIME : Slot := ⟨Reg.CLK_HOLDOVER_TIME.addr, 31, 0⟩
/-- CLK_GLACIER_LO (R319). -/
def Reg.CLK_GLACIER_LO.addr : Nat := 0x18130
def Reg.CLK_GLACIER_LO.COUNT : Slot := ⟨Reg.CLK_GLACIER_LO.addr, 31, 0⟩
/-- CLK_GLACIER_HI (R319). -/
def Reg.CLK_GLACIER_HI.addr : Nat := 0x18134
def Reg.CLK_GLACIER_HI.COUNT : Slot := ⟨Reg.CLK_GLACIER_HI.addr, 31, 0⟩
/-- CLK_REF_LOSS_COUNT (R319). -/
def Reg.CLK_REF_LOSS_COUNT.addr : Nat := 0x18138
def Reg.CLK_REF_LOSS_COUNT.COUNT : Slot := ⟨Reg.CLK_REF_LOSS_COUNT.addr, 31, 0⟩
/-- CLK_PLUMB_STATUS (R319). -/
def Reg.CLK_PLUMB_STATUS.addr : Nat := 0x18140
def Reg.CLK_PLUMB_STATUS.DONE : Slot := ⟨Reg.CLK_PLUMB_STATUS.addr, 0, 0⟩
def Reg.CLK_PLUMB_STATUS.FAILED : Slot := ⟨Reg.CLK_PLUMB_STATUS.addr, 1, 1⟩
def Reg.CLK_PLUMB_STATUS.CAL_MARGIN : Slot := ⟨Reg.CLK_PLUMB_STATUS.addr, 31, 16⟩
/-- CLK_PLUMB_MARGIN (R319). -/
def Reg.CLK_PLUMB_MARGIN.addr : Nat := 0x18144
def Reg.CLK_PLUMB_MARGIN.MIN_MARGIN : Slot := ⟨Reg.CLK_PLUMB_MARGIN.addr, 15, 0⟩
/-- CLK_BRIDGE_STATUS (R319). -/
def Reg.CLK_BRIDGE_STATUS.addr : Nat := 0x18148
def Reg.CLK_BRIDGE_STATUS.RATE_ADAPTED : Slot := ⟨Reg.CLK_BRIDGE_STATUS.addr, 0, 0⟩
/-- TILE_MESH_CE_COUNT (R320). -/
def Reg.TILE_MESH_CE_COUNT.addr : Nat := 0x20100
def Reg.TILE_MESH_CE_COUNT.COUNT : Slot := ⟨Reg.TILE_MESH_CE_COUNT.addr, 31, 0⟩
/-- TILE_MESH_UE_INFO (R320). -/
def Reg.TILE_MESH_UE_INFO.addr : Nat := 0x20104
def Reg.TILE_MESH_UE_INFO.ASHLAR : Slot := ⟨Reg.TILE_MESH_UE_INFO.addr, 9, 0⟩
def Reg.TILE_MESH_UE_INFO.VALID : Slot := ⟨Reg.TILE_MESH_UE_INFO.addr, 31, 31⟩
/-- FEAT_LINK (R349). -/
def Reg.FEAT_LINK.addr : Nat := 0x148
def Reg.FEAT_LINK.PORTS : Slot := ⟨Reg.FEAT_LINK.addr, 5, 0⟩
def Reg.FEAT_LINK.LANES : Slot := ⟨Reg.FEAT_LINK.addr, 9, 6⟩
def Reg.FEAT_LINK.VCS : Slot := ⟨Reg.FEAT_LINK.addr, 13, 10⟩
def Reg.FEAT_LINK.MAX_GRANULES : Slot := ⟨Reg.FEAT_LINK.addr, 20, 14⟩
def Reg.FEAT_LINK.MC_LOG2 : Slot := ⟨Reg.FEAT_LINK.addr, 24, 21⟩
def Reg.FEAT_LINK.PROTO_MAJOR : Slot := ⟨Reg.FEAT_LINK.addr, 28, 25⟩
/-- UBN_PORT_CTRL (R350). -/
def Reg.UBN_PORT_CTRL.addr (i : Nat) : Nat := 0x100000 + 256 * i
def Reg.UBN_PORT_CTRL.EN (i : Nat) : Slot := ⟨Reg.UBN_PORT_CTRL.addr i, 0, 0⟩
def Reg.UBN_PORT_CTRL.WIDTH_MAX (i : Nat) : Slot := ⟨Reg.UBN_PORT_CTRL.addr i, 2, 1⟩
def Reg.UBN_PORT_CTRL.RETRAIN (i : Nat) : Slot := ⟨Reg.UBN_PORT_CTRL.addr i, 3, 3⟩
/-- UBN_PORT_STATUS (R350). -/
def Reg.UBN_PORT_STATUS.addr (i : Nat) : Nat := 0x100004 + 256 * i
def Reg.UBN_PORT_STATUS.STATE (i : Nat) : Slot := ⟨Reg.UBN_PORT_STATUS.addr i, 2, 0⟩
def Reg.UBN_PORT_STATUS.WIDTH (i : Nat) : Slot := ⟨Reg.UBN_PORT_STATUS.addr i, 4, 3⟩
def Reg.UBN_PORT_STATUS.LANE_OK (i : Nat) : Slot := ⟨Reg.UBN_PORT_STATUS.addr i, 12, 5⟩
def Reg.UBN_PORT_STATUS.DOWN_EVENT (i : Nat) : Slot := ⟨Reg.UBN_PORT_STATUS.addr i, 13, 13⟩
def Reg.UBN_PORT_STATUS.NARROWED (i : Nat) : Slot := ⟨Reg.UBN_PORT_STATUS.addr i, 14, 14⟩
def Reg.UBN_PORT_STATUS.REPLAYING (i : Nat) : Slot := ⟨Reg.UBN_PORT_STATUS.addr i, 15, 15⟩
/-- UBN_PORT_RTT (R350). -/
def Reg.UBN_PORT_RTT.addr (i : Nat) : Nat := 0x100008 + 256 * i
def Reg.UBN_PORT_RTT.RTT (i : Nat) : Slot := ⟨Reg.UBN_PORT_RTT.addr i, 15, 0⟩
/-- UBN_PORT_RETRY_MAX (R350). -/
def Reg.UBN_PORT_RETRY_MAX.addr (i : Nat) : Nat := 0x10000c + 256 * i
def Reg.UBN_PORT_RETRY_MAX.MAX (i : Nat) : Slot := ⟨Reg.UBN_PORT_RETRY_MAX.addr i, 3, 0⟩
/-- UBN_PORT_BER_THRESH (R350). -/
def Reg.UBN_PORT_BER_THRESH.addr (i : Nat) : Nat := 0x100010 + 256 * i
def Reg.UBN_PORT_BER_THRESH.THRESH (i : Nat) : Slot := ⟨Reg.UBN_PORT_BER_THRESH.addr i, 31, 0⟩
/-- UBN_PORT_REPLAYS (R350). -/
def Reg.UBN_PORT_REPLAYS.addr (i : Nat) : Nat := 0x100014 + 256 * i
def Reg.UBN_PORT_REPLAYS.COUNT (i : Nat) : Slot := ⟨Reg.UBN_PORT_REPLAYS.addr i, 31, 0⟩
/-- UBN_PORT_FEC_CE (R350). -/
def Reg.UBN_PORT_FEC_CE.addr (i : Nat) : Nat := 0x100018 + 256 * i
def Reg.UBN_PORT_FEC_CE.COUNT (i : Nat) : Slot := ⟨Reg.UBN_PORT_FEC_CE.addr i, 31, 0⟩
/-- UBN_PORT_FEC_UE (R350). -/
def Reg.UBN_PORT_FEC_UE.addr (i : Nat) : Nat := 0x10001c + 256 * i
def Reg.UBN_PORT_FEC_UE.COUNT (i : Nat) : Slot := ⟨Reg.UBN_PORT_FEC_UE.addr i, 31, 0⟩
/-- UBN_PORT_CRC_ERR (R350). -/
def Reg.UBN_PORT_CRC_ERR.addr (i : Nat) : Nat := 0x100020 + 256 * i
def Reg.UBN_PORT_CRC_ERR.COUNT (i : Nat) : Slot := ⟨Reg.UBN_PORT_CRC_ERR.addr i, 31, 0⟩
/-- UBN_PORT_TX_PKTS (R350). -/
def Reg.UBN_PORT_TX_PKTS.addr (i : Nat) : Nat := 0x100024 + 256 * i
def Reg.UBN_PORT_TX_PKTS.COUNT (i : Nat) : Slot := ⟨Reg.UBN_PORT_TX_PKTS.addr i, 31, 0⟩
/-- UBN_PORT_RX_PKTS (R350). -/
def Reg.UBN_PORT_RX_PKTS.addr (i : Nat) : Nat := 0x100028 + 256 * i
def Reg.UBN_PORT_RX_PKTS.COUNT (i : Nat) : Slot := ⟨Reg.UBN_PORT_RX_PKTS.addr i, 31, 0⟩
/-- UBN_CTRL (R351). -/
def Reg.UBN_CTRL.addr : Nat := 0x102000
def Reg.UBN_CTRL.HOP_LIMIT : Slot := ⟨Reg.UBN_CTRL.addr, 4, 0⟩
def Reg.UBN_CTRL.RESV_APPLY : Slot := ⟨Reg.UBN_CTRL.addr, 8, 8⟩
/-- UBN_STATUS (R351). -/
def Reg.UBN_STATUS.addr : Nat := 0x102004
def Reg.UBN_STATUS.UNREACHABLE : Slot := ⟨Reg.UBN_STATUS.addr, 0, 0⟩
def Reg.UBN_STATUS.UNRECOVERED : Slot := ⟨Reg.UBN_STATUS.addr, 1, 1⟩
def Reg.UBN_STATUS.MC_STUCK : Slot := ⟨Reg.UBN_STATUS.addr, 2, 2⟩
def Reg.UBN_STATUS.HOP_LIMIT : Slot := ⟨Reg.UBN_STATUS.addr, 3, 3⟩
def Reg.UBN_STATUS.RESV_REJECT : Slot := ⟨Reg.UBN_STATUS.addr, 4, 4⟩
/-- UBN_FAULT_INFO (R351). -/
def Reg.UBN_FAULT_INFO.addr : Nat := 0x102008
def Reg.UBN_FAULT_INFO.PORT : Slot := ⟨Reg.UBN_FAULT_INFO.addr, 4, 0⟩
def Reg.UBN_FAULT_INFO.ID : Slot := ⟨Reg.UBN_FAULT_INFO.addr, 16, 5⟩
def Reg.UBN_FAULT_INFO.IS_GROUP : Slot := ⟨Reg.UBN_FAULT_INFO.addr, 17, 17⟩
def Reg.UBN_FAULT_INFO.VALID : Slot := ⟨Reg.UBN_FAULT_INFO.addr, 31, 31⟩
/-- UBN_POOL_STATUS (R351). -/
def Reg.UBN_POOL_STATUS.addr : Nat := 0x10200c
def Reg.UBN_POOL_STATUS.RESERVED : Slot := ⟨Reg.UBN_POOL_STATUS.addr, 13, 0⟩
def Reg.UBN_POOL_STATUS.IN_USE : Slot := ⟨Reg.UBN_POOL_STATUS.addr, 29, 16⟩
/-- UBN_ROUTE_LO (R351). -/
def Reg.UBN_ROUTE_LO.addr (i : Nat) : Nat := 0x120000 + 8 * i
def Reg.UBN_ROUTE_LO.PRIMARY (i : Nat) : Slot := ⟨Reg.UBN_ROUTE_LO.addr i, 4, 0⟩
def Reg.UBN_ROUTE_LO.VALID (i : Nat) : Slot := ⟨Reg.UBN_ROUTE_LO.addr i, 5, 5⟩
def Reg.UBN_ROUTE_LO.SELF (i : Nat) : Slot := ⟨Reg.UBN_ROUTE_LO.addr i, 6, 6⟩
/-- UBN_ROUTE_HI (R351). -/
def Reg.UBN_ROUTE_HI.addr (i : Nat) : Nat := 0x120004 + 8 * i
def Reg.UBN_ROUTE_HI.ALT_MASK (i : Nat) : Slot := ⟨Reg.UBN_ROUTE_HI.addr i, 31, 0⟩
/-- UBN_MC_LO (R351). -/
def Reg.UBN_MC_LO.addr (i : Nat) : Nat := 0x130000 + 8 * i
def Reg.UBN_MC_LO.PORT_MASK (i : Nat) : Slot := ⟨Reg.UBN_MC_LO.addr i, 31, 0⟩
/-- UBN_MC_HI (R351). -/
def Reg.UBN_MC_HI.addr (i : Nat) : Nat := 0x130004 + 8 * i
def Reg.UBN_MC_HI.LOCAL_ASH (i : Nat) : Slot := ⟨Reg.UBN_MC_HI.addr i, 9, 0⟩
def Reg.UBN_MC_HI.SAME_ID (i : Nat) : Slot := ⟨Reg.UBN_MC_HI.addr i, 10, 10⟩
def Reg.UBN_MC_HI.LOCAL_EN (i : Nat) : Slot := ⟨Reg.UBN_MC_HI.addr i, 11, 11⟩
def Reg.UBN_MC_HI.VALID (i : Nat) : Slot := ⟨Reg.UBN_MC_HI.addr i, 31, 31⟩
/-- UBN_RESV (R351). -/
def Reg.UBN_RESV.addr (i : Nat) : Nat := 0x140000 + 4 * i
def Reg.UBN_RESV.REQ (i : Nat) : Slot := ⟨Reg.UBN_RESV.addr i, 2, 0⟩
def Reg.UBN_RESV.RPL (i : Nat) : Slot := ⟨Reg.UBN_RESV.addr i, 6, 4⟩
/-- UBN_CRED (R351). -/
def Reg.UBN_CRED.addr (i : Nat) : Nat := 0x150000 + 4 * i
def Reg.UBN_CRED.REQ (i : Nat) : Slot := ⟨Reg.UBN_CRED.addr i, 2, 0⟩
def Reg.UBN_CRED.RPL (i : Nat) : Slot := ⟨Reg.UBN_CRED.addr i, 6, 4⟩
/-- UBN_SELF (R366). -/
def Reg.UBN_SELF.addr : Nat := 0x103000
def Reg.UBN_SELF.MODULE_ID : Slot := ⟨Reg.UBN_SELF.addr, 11, 0⟩
def Reg.UBN_SELF.PROTO_MINOR : Slot := ⟨Reg.UBN_SELF.addr, 19, 12⟩
/-- UBN_PLAN_ID (R366). -/
def Reg.UBN_PLAN_ID.addr : Nat := 0x103004
def Reg.UBN_PLAN_ID.SYSTEM_TAG : Slot := ⟨Reg.UBN_PLAN_ID.addr, 15, 0⟩
def Reg.UBN_PLAN_ID.PLAN_GEN : Slot := ⟨Reg.UBN_PLAN_ID.addr, 31, 16⟩
/-- UBN_DISC_CTRL (R366). -/
def Reg.UBN_DISC_CTRL.addr : Nat := 0x103008
def Reg.UBN_DISC_CTRL.PLAN_COMMIT : Slot := ⟨Reg.UBN_DISC_CTRL.addr, 0, 0⟩
def Reg.UBN_DISC_CTRL.MIN_MINOR : Slot := ⟨Reg.UBN_DISC_CTRL.addr, 15, 8⟩
def Reg.UBN_DISC_CTRL.MAX_MINOR : Slot := ⟨Reg.UBN_DISC_CTRL.addr, 23, 16⟩
/-- UBN_DISC_STATUS (R366). -/
def Reg.UBN_DISC_STATUS.addr : Nat := 0x10300c
def Reg.UBN_DISC_STATUS.SETTLED : Slot := ⟨Reg.UBN_DISC_STATUS.addr, 0, 0⟩
def Reg.UBN_DISC_STATUS.QUAR_EVENT : Slot := ⟨Reg.UBN_DISC_STATUS.addr, 1, 1⟩
def Reg.UBN_DISC_STATUS.MISSING_EVENT : Slot := ⟨Reg.UBN_DISC_STATUS.addr, 2, 2⟩
def Reg.UBN_DISC_STATUS.COMMIT_REJECT : Slot := ⟨Reg.UBN_DISC_STATUS.addr, 3, 3⟩
/-- UBN_PART_LINKS_OK (R366). -/
def Reg.UBN_PART_LINKS_OK.addr : Nat := 0x103010
def Reg.UBN_PART_LINKS_OK.READY : Slot := ⟨Reg.UBN_PART_LINKS_OK.addr, 11, 0⟩
/-- UBN_IDENT_TIMEOUT (R366). -/
def Reg.UBN_IDENT_TIMEOUT.addr : Nat := 0x103014
def Reg.UBN_IDENT_TIMEOUT.COUNTS : Slot := ⟨Reg.UBN_IDENT_TIMEOUT.addr, 31, 0⟩
/-- UBN_PLAN_LO (R366). -/
def Reg.UBN_PLAN_LO.addr (i : Nat) : Nat := 0x110000 + 64 * i
def Reg.UBN_PLAN_LO.NBR_MOD (i : Nat) : Slot := ⟨Reg.UBN_PLAN_LO.addr i, 11, 0⟩
def Reg.UBN_PLAN_LO.NBR_PORT (i : Nat) : Slot := ⟨Reg.UBN_PLAN_LO.addr i, 16, 12⟩
def Reg.UBN_PLAN_LO.TIER (i : Nat) : Slot := ⟨Reg.UBN_PLAN_LO.addr i, 19, 17⟩
def Reg.UBN_PLAN_LO.GROUP (i : Nat) : Slot := ⟨Reg.UBN_PLAN_LO.addr i, 23, 20⟩
def Reg.UBN_PLAN_LO.USE (i : Nat) : Slot := ⟨Reg.UBN_PLAN_LO.addr i, 25, 24⟩
def Reg.UBN_PLAN_LO.ALT_FOR (i : Nat) : Slot := ⟨Reg.UBN_PLAN_LO.addr i, 30, 26⟩
/-- UBN_PLAN_HI (R366). -/
def Reg.UBN_PLAN_HI.addr (i : Nat) : Nat := 0x110004 + 64 * i
def Reg.UBN_PLAN_HI.MAX_RTT (i : Nat) : Slot := ⟨Reg.UBN_PLAN_HI.addr i, 15, 0⟩
/-- UBN_NBR_LO (R366). -/
def Reg.UBN_NBR_LO.addr (i : Nat) : Nat := 0x110008 + 64 * i
def Reg.UBN_NBR_LO.MODULE_ID (i : Nat) : Slot := ⟨Reg.UBN_NBR_LO.addr i, 11, 0⟩
def Reg.UBN_NBR_LO.PORT (i : Nat) : Slot := ⟨Reg.UBN_NBR_LO.addr i, 16, 12⟩
def Reg.UBN_NBR_LO.TIER (i : Nat) : Slot := ⟨Reg.UBN_NBR_LO.addr i, 19, 17⟩
def Reg.UBN_NBR_LO.PROTO_MAJOR (i : Nat) : Slot := ⟨Reg.UBN_NBR_LO.addr i, 23, 20⟩
def Reg.UBN_NBR_LO.PROTO_MINOR (i : Nat) : Slot := ⟨Reg.UBN_NBR_LO.addr i, 31, 24⟩
/-- UBN_NBR_HI (R366). -/
def Reg.UBN_NBR_HI.addr (i : Nat) : Nat := 0x11000c + 64 * i
def Reg.UBN_NBR_HI.SYSTEM_TAG (i : Nat) : Slot := ⟨Reg.UBN_NBR_HI.addr i, 15, 0⟩
def Reg.UBN_NBR_HI.PLAN_GEN (i : Nat) : Slot := ⟨Reg.UBN_NBR_HI.addr i, 31, 16⟩
/-- UBN_NBR_VERDICT (R366). -/
def Reg.UBN_NBR_VERDICT.addr (i : Nat) : Nat := 0x110010 + 64 * i
def Reg.UBN_NBR_VERDICT.LOCAL (i : Nat) : Slot := ⟨Reg.UBN_NBR_VERDICT.addr i, 1, 0⟩
def Reg.UBN_NBR_VERDICT.PEER (i : Nat) : Slot := ⟨Reg.UBN_NBR_VERDICT.addr i, 3, 2⟩
def Reg.UBN_NBR_VERDICT.ROLE (i : Nat) : Slot := ⟨Reg.UBN_NBR_VERDICT.addr i, 8, 4⟩
def Reg.UBN_NBR_VERDICT.ROLE_VALID (i : Nat) : Slot := ⟨Reg.UBN_NBR_VERDICT.addr i, 9, 9⟩
def Reg.UBN_NBR_VERDICT.REASON (i : Nat) : Slot := ⟨Reg.UBN_NBR_VERDICT.addr i, 23, 16⟩
def Reg.UBN_NBR_VERDICT.VALID (i : Nat) : Slot := ⟨Reg.UBN_NBR_VERDICT.addr i, 31, 31⟩
/-- UBN_NBR_SERIAL_LO (R366). -/
def Reg.UBN_NBR_SERIAL_LO.addr (i : Nat) : Nat := 0x110014 + 64 * i
def Reg.UBN_NBR_SERIAL_LO.SERIAL (i : Nat) : Slot := ⟨Reg.UBN_NBR_SERIAL_LO.addr i, 31, 0⟩
/-- UBN_NBR_SERIAL_HI (R366). -/
def Reg.UBN_NBR_SERIAL_HI.addr (i : Nat) : Nat := 0x110018 + 64 * i
def Reg.UBN_NBR_SERIAL_HI.SERIAL (i : Nat) : Slot := ⟨Reg.UBN_NBR_SERIAL_HI.addr i, 31, 0⟩
/-- SRV_CTX_STATE (R371). -/
def Reg.SRV_CTX_STATE.addr (p i : Nat) : Nat := Reg.window p (0x8000 + 64 * i)
def Reg.SRV_CTX_STATE.STATE (p i : Nat) : Slot := ⟨Reg.SRV_CTX_STATE.addr p i, 2, 0⟩
def Reg.SRV_CTX_STATE.LATCH (p i : Nat) : Slot := ⟨Reg.SRV_CTX_STATE.addr p i, 3, 3⟩
def Reg.SRV_CTX_STATE.KV_WAIT (p i : Nat) : Slot := ⟨Reg.SRV_CTX_STATE.addr p i, 4, 4⟩
def Reg.SRV_CTX_STATE.GAP (p i : Nat) : Slot := ⟨Reg.SRV_CTX_STATE.addr p i, 5, 5⟩
def Reg.SRV_CTX_STATE.PEND_FULL (p i : Nat) : Slot := ⟨Reg.SRV_CTX_STATE.addr p i, 6, 6⟩
def Reg.SRV_CTX_STATE.DRAFT_N (p i : Nat) : Slot := ⟨Reg.SRV_CTX_STATE.addr p i, 12, 8⟩
def Reg.SRV_CTX_STATE.GEN (p i : Nat) : Slot := ⟨Reg.SRV_CTX_STATE.addr p i, 31, 16⟩
/-- SRV_CTX_LEN (R371). -/
def Reg.SRV_CTX_LEN.addr (p i : Nat) : Nat := Reg.window p (0x8004 + 64 * i)
def Reg.SRV_CTX_LEN.LEN (p i : Nat) : Slot := ⟨Reg.SRV_CTX_LEN.addr p i, 31, 0⟩
/-- SRV_CTX_CFG (R371). -/
def Reg.SRV_CTX_CFG.addr (p i : Nat) : Nat := Reg.window p (0x8008 + 64 * i)
def Reg.SRV_CTX_CFG.VOCAB_M1 (p i : Nat) : Slot := ⟨Reg.SRV_CTX_CFG.addr p i, 17, 0⟩
def Reg.SRV_CTX_CFG.GREEDY (p i : Nat) : Slot := ⟨Reg.SRV_CTX_CFG.addr p i, 18, 18⟩
def Reg.SRV_CTX_CFG.EMIT_EN (p i : Nat) : Slot := ⟨Reg.SRV_CTX_CFG.addr p i, 19, 19⟩
def Reg.SRV_CTX_CFG.ROLE (p i : Nat) : Slot := ⟨Reg.SRV_CTX_CFG.addr p i, 20, 20⟩
def Reg.SRV_CTX_CFG.SINK_KIND (p i : Nat) : Slot := ⟨Reg.SRV_CTX_CFG.addr p i, 22, 21⟩
def Reg.SRV_CTX_CFG.GO_EN (p i : Nat) : Slot := ⟨Reg.SRV_CTX_CFG.addr p i, 23, 23⟩
def Reg.SRV_CTX_CFG.CANCEL_EN (p i : Nat) : Slot := ⟨Reg.SRV_CTX_CFG.addr p i, 24, 24⟩
/-- SRV_CTX_SINK (R371). -/
def Reg.SRV_CTX_SINK.addr (p i : Nat) : Nat := Reg.window p (0x800c + 64 * i)
def Reg.SRV_CTX_SINK.SINK_ID (p i : Nat) : Slot := ⟨Reg.SRV_CTX_SINK.addr p i, 11, 0⟩
def Reg.SRV_CTX_SINK.LINK_CTX (p i : Nat) : Slot := ⟨Reg.SRV_CTX_SINK.addr p i, 19, 12⟩
def Reg.SRV_CTX_SINK.LINK_PART (p i : Nat) : Slot := ⟨Reg.SRV_CTX_SINK.addr p i, 23, 20⟩
def Reg.SRV_CTX_SINK.LINK_EN (p i : Nat) : Slot := ⟨Reg.SRV_CTX_SINK.addr p i, 24, 24⟩
/-- SRV_CTX_SEED_LO (R371). -/
def Reg.SRV_CTX_SEED_LO.addr (p i : Nat) : Nat := Reg.window p (0x8010 + 64 * i)
def Reg.SRV_CTX_SEED_LO.SEED (p i : Nat) : Slot := ⟨Reg.SRV_CTX_SEED_LO.addr p i, 31, 0⟩
/-- SRV_CTX_SEED_HI (R371). -/
def Reg.SRV_CTX_SEED_HI.addr (p i : Nat) : Nat := Reg.window p (0x8014 + 64 * i)
def Reg.SRV_CTX_SEED_HI.SEED (p i : Nat) : Slot := ⟨Reg.SRV_CTX_SEED_HI.addr p i, 31, 0⟩
/-- SRV_CTX_INV_TEMP (R371). -/
def Reg.SRV_CTX_INV_TEMP.addr (p i : Nat) : Nat := Reg.window p (0x8018 + 64 * i)
def Reg.SRV_CTX_INV_TEMP.INV_TEMP (p i : Nat) : Slot := ⟨Reg.SRV_CTX_INV_TEMP.addr p i, 31, 0⟩
/-- SRV_CTX_REP (R371). -/
def Reg.SRV_CTX_REP.addr (p i : Nat) : Nat := Reg.window p (0x801c + 64 * i)
def Reg.SRV_CTX_REP.REP (p i : Nat) : Slot := ⟨Reg.SRV_CTX_REP.addr p i, 31, 0⟩
/-- SRV_CTX_FREQ (R371). -/
def Reg.SRV_CTX_FREQ.addr (p i : Nat) : Nat := Reg.window p (0x8020 + 64 * i)
def Reg.SRV_CTX_FREQ.FREQ (p i : Nat) : Slot := ⟨Reg.SRV_CTX_FREQ.addr p i, 31, 0⟩
/-- SRV_CTX_PRES (R371). -/
def Reg.SRV_CTX_PRES.addr (p i : Nat) : Nat := Reg.window p (0x8024 + 64 * i)
def Reg.SRV_CTX_PRES.PRES (p i : Nat) : Slot := ⟨Reg.SRV_CTX_PRES.addr p i, 31, 0⟩
/-- SRV_CTX_TOP (R371). -/
def Reg.SRV_CTX_TOP.addr (p i : Nat) : Nat := Reg.window p (0x8028 + 64 * i)
def Reg.SRV_CTX_TOP.TOP_K (p i : Nat) : Slot := ⟨Reg.SRV_CTX_TOP.addr p i, 10, 0⟩
def Reg.SRV_CTX_TOP.TOP_P (p i : Nat) : Slot := ⟨Reg.SRV_CTX_TOP.addr p i, 31, 16⟩
/-- SRV_CTX_STOP (R371). -/
def Reg.SRV_CTX_STOP.addr (p i : Nat) : Nat := Reg.window p (0x802c + 64 * i)
def Reg.SRV_CTX_STOP.STOP_TOKEN (p i : Nat) : Slot := ⟨Reg.SRV_CTX_STOP.addr p i, 17, 0⟩
def Reg.SRV_CTX_STOP.STOP_EN (p i : Nat) : Slot := ⟨Reg.SRV_CTX_STOP.addr p i, 31, 31⟩
/-- SRV_CTX_MAX_NEW (R371). -/
def Reg.SRV_CTX_MAX_NEW.addr (p i : Nat) : Nat := Reg.window p (0x8030 + 64 * i)
def Reg.SRV_CTX_MAX_NEW.MAX_NEW (p i : Nat) : Slot := ⟨Reg.SRV_CTX_MAX_NEW.addr p i, 31, 0⟩
/-- SRV_CTX_GO_TOKEN (R371). -/
def Reg.SRV_CTX_GO_TOKEN.addr (p i : Nat) : Nat := Reg.window p (0x8034 + 64 * i)
def Reg.SRV_CTX_GO_TOKEN.TOKEN (p i : Nat) : Slot := ⟨Reg.SRV_CTX_GO_TOKEN.addr p i, 17, 0⟩
/-- SRV_CTX_CANCEL_TOKEN (R371). -/
def Reg.SRV_CTX_CANCEL_TOKEN.addr (p i : Nat) : Nat := Reg.window p (0x8038 + 64 * i)
def Reg.SRV_CTX_CANCEL_TOKEN.TOKEN (p i : Nat) : Slot := ⟨Reg.SRV_CTX_CANCEL_TOKEN.addr p i, 17, 0⟩
/-- SRV_CTX_USER (R371). -/
def Reg.SRV_CTX_USER.addr (p i : Nat) : Nat := Reg.window p (0x803c + 64 * i)
def Reg.SRV_CTX_USER.USER (p i : Nat) : Slot := ⟨Reg.SRV_CTX_USER.addr p i, 31, 0⟩
/-- SRV_DB_CMD0 (R375). -/
def Reg.SRV_DB_CMD0.addr (p : Nat) : Nat := Reg.doorbell p (0x0)
def Reg.SRV_DB_CMD0.OPCODE (p : Nat) : Slot := ⟨Reg.SRV_DB_CMD0.addr p, 7, 0⟩
def Reg.SRV_DB_CMD0.CONTEXT (p : Nat) : Slot := ⟨Reg.SRV_DB_CMD0.addr p, 15, 8⟩
def Reg.SRV_DB_CMD0.TAG (p : Nat) : Slot := ⟨Reg.SRV_DB_CMD0.addr p, 31, 16⟩
/-- SRV_DB_CMD1 (R375). -/
def Reg.SRV_DB_CMD1.addr (p : Nat) : Nat := Reg.doorbell p (0x4)
def Reg.SRV_DB_CMD1.ARG0 (p : Nat) : Slot := ⟨Reg.SRV_DB_CMD1.addr p, 31, 0⟩
/-- SRV_DB_CMD2 (R375). -/
def Reg.SRV_DB_CMD2.addr (p : Nat) : Nat := Reg.doorbell p (0x8)
def Reg.SRV_DB_CMD2.ARG1 (p : Nat) : Slot := ⟨Reg.SRV_DB_CMD2.addr p, 31, 0⟩
/-- SRV_DB_CMD3 (R375). -/
def Reg.SRV_DB_CMD3.addr (p : Nat) : Nat := Reg.doorbell p (0xc)
def Reg.SRV_DB_CMD3.AT_COURSE (p : Nat) : Slot := ⟨Reg.SRV_DB_CMD3.addr p, 15, 0⟩
def Reg.SRV_DB_CMD3.AT_EN (p : Nat) : Slot := ⟨Reg.SRV_DB_CMD3.addr p, 16, 16⟩
/-- SRV_DB_CANCEL (R375). -/
def Reg.SRV_DB_CANCEL.addr (p : Nat) : Nat := Reg.doorbell p (0x10)
def Reg.SRV_DB_CANCEL.CONTEXT (p : Nat) : Slot := ⟨Reg.SRV_DB_CANCEL.addr p, 7, 0⟩
def Reg.SRV_DB_CANCEL.TAG (p : Nat) : Slot := ⟨Reg.SRV_DB_CANCEL.addr p, 31, 16⟩
/-- SRV_DB_CMD_FREE (R375). -/
def Reg.SRV_DB_CMD_FREE.addr (p : Nat) : Nat := Reg.doorbell p (0x14)
def Reg.SRV_DB_CMD_FREE.FREE (p : Nat) : Slot := ⟨Reg.SRV_DB_CMD_FREE.addr p, 6, 0⟩
/-- SRV_DB_RING_CONS (R375). -/
def Reg.SRV_DB_RING_CONS.addr (p i : Nat) : Nat := Reg.doorbell p (0x20 + 4 * i)
def Reg.SRV_DB_RING_CONS.CONS (p i : Nat) : Slot := ⟨Reg.SRV_DB_RING_CONS.addr p i, 15, 0⟩
/-- FEAT_SRV (R398). -/
def Reg.FEAT_SRV.addr : Nat := 0x14c
def Reg.FEAT_SRV.CONTEXTS : Slot := ⟨Reg.FEAT_SRV.addr, 8, 0⟩
def Reg.FEAT_SRV.DRAFT_MAX : Slot := ⟨Reg.FEAT_SRV.addr, 13, 9⟩
def Reg.FEAT_SRV.P_MAX : Slot := ⟨Reg.FEAT_SRV.addr, 17, 14⟩
def Reg.FEAT_SRV.SMP_LAT : Slot := ⟨Reg.FEAT_SRV.addr, 27, 18⟩
def Reg.FEAT_SRV.RINGS : Slot := ⟨Reg.FEAT_SRV.addr, 31, 28⟩
/-- FEAT_SRV2 (R398). -/
def Reg.FEAT_SRV2.addr : Nat := 0x150
def Reg.FEAT_SRV2.VOCAB_MAX_M1 : Slot := ⟨Reg.FEAT_SRV2.addr, 17, 0⟩
def Reg.FEAT_SRV2.PENALTY_LOG2 : Slot := ⟨Reg.FEAT_SRV2.addr, 21, 18⟩
def Reg.FEAT_SRV2.PARK_LOG2 : Slot := ⟨Reg.FEAT_SRV2.addr, 26, 22⟩
/-- SRV_CTRL (R399). -/
def Reg.SRV_CTRL.addr (p : Nat) : Nat := Reg.window p (0x2000)
def Reg.SRV_CTRL.CMPL_RING (p : Nat) : Slot := ⟨Reg.SRV_CTRL.addr p, 1, 0⟩
/-- SRV_STATUS (R399). -/
def Reg.SRV_STATUS.addr (p : Nat) : Nat := Reg.window p (0x2004)
def Reg.SRV_STATUS.CMD_LOST (p : Nat) : Slot := ⟨Reg.SRV_STATUS.addr p, 0, 0⟩
def Reg.SRV_STATUS.ENTRY_REJECT (p : Nat) : Slot := ⟨Reg.SRV_STATUS.addr p, 1, 1⟩
def Reg.SRV_STATUS.EMIT_DROP (p : Nat) : Slot := ⟨Reg.SRV_STATUS.addr p, 2, 2⟩
def Reg.SRV_STATUS.KV_EXHAUSTED (p : Nat) : Slot := ⟨Reg.SRV_STATUS.addr p, 3, 3⟩
/-- SRV_KV_BASE (R399). -/
def Reg.SRV_KV_BASE.addr (p : Nat) : Nat := Reg.window p (0x2008)
def Reg.SRV_KV_BASE.BASE (p : Nat) : Slot := ⟨Reg.SRV_KV_BASE.addr p, 24, 0⟩
/-- SRV_KV_CFG (R399). -/
def Reg.SRV_KV_CFG.addr (p : Nat) : Nat := Reg.window p (0x200c)
def Reg.SRV_KV_CFG.PAGES (p : Nat) : Slot := ⟨Reg.SRV_KV_CFG.addr p, 9, 0⟩
def Reg.SRV_KV_CFG.POS_LOG2 (p : Nat) : Slot := ⟨Reg.SRV_KV_CFG.addr p, 13, 10⟩
def Reg.SRV_KV_CFG.LAYOUT (p : Nat) : Slot := ⟨Reg.SRV_KV_CFG.addr p, 23, 16⟩
/-- SRV_DESC_BASE (R399). -/
def Reg.SRV_DESC_BASE.addr (p : Nat) : Nat := Reg.window p (0x2010)
def Reg.SRV_DESC_BASE.BASE (p : Nat) : Slot := ⟨Reg.SRV_DESC_BASE.addr p, 24, 0⟩
/-- SRV_PT_BASE (R399). -/
def Reg.SRV_PT_BASE.addr (p : Nat) : Nat := Reg.window p (0x2014)
def Reg.SRV_PT_BASE.BASE (p : Nat) : Slot := ⟨Reg.SRV_PT_BASE.addr p, 24, 0⟩
/-- SRV_DESC_CAIRN (R399). -/
def Reg.SRV_DESC_CAIRN.addr (p : Nat) : Nat := Reg.window p (0x2018)
def Reg.SRV_DESC_CAIRN.N (p : Nat) : Slot := ⟨Reg.SRV_DESC_CAIRN.addr p, 5, 0⟩
/-- SRV_PAGES_FREE (R399). -/
def Reg.SRV_PAGES_FREE.addr (p : Nat) : Nat := Reg.window p (0x201c)
def Reg.SRV_PAGES_FREE.FREE (p : Nat) : Slot := ⟨Reg.SRV_PAGES_FREE.addr p, 9, 0⟩
/-- SRV_DRAFT_STALE (R399). -/
def Reg.SRV_DRAFT_STALE.addr (p : Nat) : Nat := Reg.window p (0x2020)
def Reg.SRV_DRAFT_STALE.COUNT (p : Nat) : Slot := ⟨Reg.SRV_DRAFT_STALE.addr p, 31, 0⟩
/-- SRV_EMIT_DROPS (R399). -/
def Reg.SRV_EMIT_DROPS.addr (p : Nat) : Nat := Reg.window p (0x2024)
def Reg.SRV_EMIT_DROPS.COUNT (p : Nat) : Slot := ⟨Reg.SRV_EMIT_DROPS.addr p, 31, 0⟩
/-- SRV_RING_BASE_LO (R399). -/
def Reg.SRV_RING_BASE_LO.addr (p i : Nat) : Nat := Reg.window p (0x2040 + 32 * i)
def Reg.SRV_RING_BASE_LO.BASE (p i : Nat) : Slot := ⟨Reg.SRV_RING_BASE_LO.addr p i, 31, 0⟩
/-- SRV_RING_BASE_HI (R399). -/
def Reg.SRV_RING_BASE_HI.addr (p i : Nat) : Nat := Reg.window p (0x2044 + 32 * i)
def Reg.SRV_RING_BASE_HI.BASE (p i : Nat) : Slot := ⟨Reg.SRV_RING_BASE_HI.addr p i, 31, 0⟩
/-- SRV_RING_SIZE (R399). -/
def Reg.SRV_RING_SIZE.addr (p i : Nat) : Nat := Reg.window p (0x2048 + 32 * i)
def Reg.SRV_RING_SIZE.SIZE (p i : Nat) : Slot := ⟨Reg.SRV_RING_SIZE.addr p i, 3, 0⟩
/-- SRV_RING_PROD (R399). -/
def Reg.SRV_RING_PROD.addr (p i : Nat) : Nat := Reg.window p (0x204c + 32 * i)
def Reg.SRV_RING_PROD.PROD (p i : Nat) : Slot := ⟨Reg.SRV_RING_PROD.addr p i, 15, 0⟩
/-- SRV_RING_CONS (R399). -/
def Reg.SRV_RING_CONS.addr (p i : Nat) : Nat := Reg.window p (0x2050 + 32 * i)
def Reg.SRV_RING_CONS.CONS (p i : Nat) : Slot := ⟨Reg.SRV_RING_CONS.addr p i, 15, 0⟩
/-- SRV_RING_LATE (R399). -/
def Reg.SRV_RING_LATE.addr (p i : Nat) : Nat := Reg.window p (0x2054 + 32 * i)
def Reg.SRV_RING_LATE.COUNT (p i : Nat) : Slot := ⟨Reg.SRV_RING_LATE.addr p i, 31, 0⟩
/-- SRV_PARK_CTRL (R400). -/
def Reg.SRV_PARK_CTRL.addr : Nat := 0x30000
def Reg.SRV_PARK_CTRL.HOLD_EXPIRED : Slot := ⟨Reg.SRV_PARK_CTRL.addr, 0, 0⟩
/-- SRV_PARK_USED (R400). -/
def Reg.SRV_PARK_USED.addr : Nat := 0x30004
def Reg.SRV_PARK_USED.HANDLES : Slot := ⟨Reg.SRV_PARK_USED.addr, 16, 0⟩
/-- SRV_PARK_FREE (R400). -/
def Reg.SRV_PARK_FREE.addr : Nat := 0x30008
def Reg.SRV_PARK_FREE.GRANULES : Slot := ⟨Reg.SRV_PARK_FREE.addr, 31, 0⟩
/-- SRV_PARK_EXPIRED (R400). -/
def Reg.SRV_PARK_EXPIRED.addr : Nat := 0x3000c
def Reg.SRV_PARK_EXPIRED.COUNT : Slot := ⟨Reg.SRV_PARK_EXPIRED.addr, 31, 0⟩
/-- FEAT_MOR (R423). -/
def Reg.FEAT_MOR.addr : Nat := 0x154
def Reg.FEAT_MOR.STACKS : Slot := ⟨Reg.FEAT_MOR.addr, 5, 0⟩
def Reg.FEAT_MOR.CARRIERS : Slot := ⟨Reg.FEAT_MOR.addr, 8, 6⟩
def Reg.FEAT_MOR.STACK_GB : Slot := ⟨Reg.FEAT_MOR.addr, 15, 9⟩
def Reg.FEAT_MOR.READ_LAT : Slot := ⟨Reg.FEAT_MOR.addr, 23, 16⟩
def Reg.FEAT_MOR.SHADOW : Slot := ⟨Reg.FEAT_MOR.addr, 31, 24⟩
/-- FEAT_MOR2 (R423). -/
def Reg.FEAT_MOR2.addr : Nat := 0x158
def Reg.FEAT_MOR2.WRITE_LAT : Slot := ⟨Reg.FEAT_MOR2.addr, 7, 0⟩
def Reg.FEAT_MOR2.SHADOW_INT : Slot := ⟨Reg.FEAT_MOR2.addr, 17, 8⟩
def Reg.FEAT_MOR2.CHAINS : Slot := ⟨Reg.FEAT_MOR2.addr, 25, 18⟩
/-- MOR_CTRL (R424). -/
def Reg.MOR_CTRL.addr : Nat := 0x40000
def Reg.MOR_CTRL.SCRUB_EN : Slot := ⟨Reg.MOR_CTRL.addr, 0, 0⟩
/-- MOR_STATUS (R424). -/
def Reg.MOR_STATUS.addr : Nat := 0x40004
def Reg.MOR_STATUS.LINK_UP : Slot := ⟨Reg.MOR_STATUS.addr, 3, 0⟩
def Reg.MOR_STATUS.UE : Slot := ⟨Reg.MOR_STATUS.addr, 4, 4⟩
def Reg.MOR_STATUS.STACK_FAILED : Slot := ⟨Reg.MOR_STATUS.addr, 5, 5⟩
def Reg.MOR_STATUS.HOT : Slot := ⟨Reg.MOR_STATUS.addr, 6, 6⟩
def Reg.MOR_STATUS.LOAD_LOST : Slot := ⟨Reg.MOR_STATUS.addr, 7, 7⟩
/-- MOR_BASE (R424). -/
def Reg.MOR_BASE.addr (i : Nat) : Nat := 0x40010 + 8 * i
def Reg.MOR_BASE.BASE (i : Nat) : Slot := ⟨Reg.MOR_BASE.addr i, 24, 0⟩
/-- MOR_SIZE (R424). -/
def Reg.MOR_SIZE.addr (i : Nat) : Nat := 0x40014 + 8 * i
def Reg.MOR_SIZE.SIZE (i : Nat) : Slot := ⟨Reg.MOR_SIZE.addr i, 24, 0⟩
/-- MOR_CE_COUNT (R424). -/
def Reg.MOR_CE_COUNT.addr : Nat := 0x40030
def Reg.MOR_CE_COUNT.COUNT : Slot := ⟨Reg.MOR_CE_COUNT.addr, 31, 0⟩
/-- MOR_UE_COUNT (R424). -/
def Reg.MOR_UE_COUNT.addr : Nat := 0x40034
def Reg.MOR_UE_COUNT.COUNT : Slot := ⟨Reg.MOR_UE_COUNT.addr, 31, 0⟩
/-- MOR_UE_ROW (R424). -/
def Reg.MOR_UE_ROW.addr : Nat := 0x40038
def Reg.MOR_UE_ROW.ROW : Slot := ⟨Reg.MOR_UE_ROW.addr, 31, 0⟩
/-- MOR_UE_INFO (R424). -/
def Reg.MOR_UE_INFO.addr : Nat := 0x4003c
def Reg.MOR_UE_INFO.STACK : Slot := ⟨Reg.MOR_UE_INFO.addr, 4, 0⟩
def Reg.MOR_UE_INFO.CLASS : Slot := ⟨Reg.MOR_UE_INFO.addr, 7, 5⟩
def Reg.MOR_UE_INFO.VALID : Slot := ⟨Reg.MOR_UE_INFO.addr, 31, 31⟩
/-- MOR_HOST_PENDING (R424). -/
def Reg.MOR_HOST_PENDING.addr : Nat := 0x40040
def Reg.MOR_HOST_PENDING.ENTRIES : Slot := ⟨Reg.MOR_HOST_PENDING.addr, 6, 0⟩
/-- MOR_STACK (R424). -/
def Reg.MOR_STACK.addr (i : Nat) : Nat := 0x40100 + 4 * i
def Reg.MOR_STACK.STATE (i : Nat) : Slot := ⟨Reg.MOR_STACK.addr i, 1, 0⟩
def Reg.MOR_STACK.TEMP (i : Nat) : Slot := ⟨Reg.MOR_STACK.addr i, 15, 8⟩
/-- MOR_LOAD_D0 (R424). -/
def Reg.MOR_LOAD_D0.addr : Nat := 0x40200
def Reg.MOR_LOAD_D0.PORT : Slot := ⟨Reg.MOR_LOAD_D0.addr, 0, 0⟩
def Reg.MOR_LOAD_D0.DKIND : Slot := ⟨Reg.MOR_LOAD_D0.addr, 2, 1⟩
def Reg.MOR_LOAD_D0.QPN : Slot := ⟨Reg.MOR_LOAD_D0.addr, 31, 8⟩
/-- MOR_LOAD_D1 (R424). -/
def Reg.MOR_LOAD_D1.addr : Nat := 0x40204
def Reg.MOR_LOAD_D1.RKEY : Slot := ⟨Reg.MOR_LOAD_D1.addr, 31, 0⟩
/-- MOR_LOAD_D2 (R424). -/
def Reg.MOR_LOAD_D2.addr : Nat := 0x40208
def Reg.MOR_LOAD_D2.RADDR : Slot := ⟨Reg.MOR_LOAD_D2.addr, 31, 0⟩
/-- MOR_LOAD_D3 (R424). -/
def Reg.MOR_LOAD_D3.addr : Nat := 0x4020c
def Reg.MOR_LOAD_D3.RADDR : Slot := ⟨Reg.MOR_LOAD_D3.addr, 31, 0⟩
/-- MOR_LOAD_D4 (R424). -/
def Reg.MOR_LOAD_D4.addr : Nat := 0x40210
def Reg.MOR_LOAD_D4.LEN : Slot := ⟨Reg.MOR_LOAD_D4.addr, 31, 0⟩
/-- MOR_LOAD_D5 (R424). -/
def Reg.MOR_LOAD_D5.addr : Nat := 0x40214
def Reg.MOR_LOAD_D5.DST : Slot := ⟨Reg.MOR_LOAD_D5.addr, 31, 0⟩
/-- MOR_LOAD_D6 (R424). -/
def Reg.MOR_LOAD_D6.addr : Nat := 0x40218
def Reg.MOR_LOAD_D6.DST : Slot := ⟨Reg.MOR_LOAD_D6.addr, 31, 0⟩
/-- MOR_LOAD_D7 (R424). -/
def Reg.MOR_LOAD_D7.addr : Nat := 0x4021c
def Reg.MOR_LOAD_D7.TAG : Slot := ⟨Reg.MOR_LOAD_D7.addr, 15, 0⟩
/-- MOR_LOAD_FREE (R424). -/
def Reg.MOR_LOAD_FREE.addr : Nat := 0x40220
def Reg.MOR_LOAD_FREE.FREE : Slot := ⟨Reg.MOR_LOAD_FREE.addr, 6, 0⟩
/-- MOR_LOAD_CMPL (R424). -/
def Reg.MOR_LOAD_CMPL.addr : Nat := 0x40224
def Reg.MOR_LOAD_CMPL.TAG : Slot := ⟨Reg.MOR_LOAD_CMPL.addr, 15, 0⟩
def Reg.MOR_LOAD_CMPL.STATUS : Slot := ⟨Reg.MOR_LOAD_CMPL.addr, 17, 16⟩
def Reg.MOR_LOAD_CMPL.VALID : Slot := ⟨Reg.MOR_LOAD_CMPL.addr, 31, 31⟩
/-- MOR_CHAIN_CFG (R424). -/
def Reg.MOR_CHAIN_CFG.addr (i : Nat) : Nat := 0x40400 + 32 * i
def Reg.MOR_CHAIN_CFG.VALID (i : Nat) : Slot := ⟨Reg.MOR_CHAIN_CFG.addr i, 0, 0⟩
def Reg.MOR_CHAIN_CFG.LOCAL_KIND (i : Nat) : Slot := ⟨Reg.MOR_CHAIN_CFG.addr i, 2, 1⟩
def Reg.MOR_CHAIN_CFG.FWD_EN (i : Nat) : Slot := ⟨Reg.MOR_CHAIN_CFG.addr i, 3, 3⟩
def Reg.MOR_CHAIN_CFG.NEXT_MOD (i : Nat) : Slot := ⟨Reg.MOR_CHAIN_CFG.addr i, 15, 4⟩
def Reg.MOR_CHAIN_CFG.NEXT_CHAIN (i : Nat) : Slot := ⟨Reg.MOR_CHAIN_CFG.addr i, 19, 16⟩
/-- MOR_CHAIN_BASE (R424). -/
def Reg.MOR_CHAIN_BASE.addr (i : Nat) : Nat := 0x40404 + 32 * i
def Reg.MOR_CHAIN_BASE.BASE (i : Nat) : Slot := ⟨Reg.MOR_CHAIN_BASE.addr i, 31, 0⟩
/-- MOR_CHAIN_AUX (R424). -/
def Reg.MOR_CHAIN_AUX.addr (i : Nat) : Nat := 0x40408 + 32 * i
def Reg.MOR_CHAIN_AUX.ASHLAR (i : Nat) : Slot := ⟨Reg.MOR_CHAIN_AUX.addr i, 9, 0⟩
def Reg.MOR_CHAIN_AUX.CAIRN (i : Nat) : Slot := ⟨Reg.MOR_CHAIN_AUX.addr i, 15, 10⟩
/-- MOR_CHAIN_LEN (R424). -/
def Reg.MOR_CHAIN_LEN.addr (i : Nat) : Nat := 0x4040c + 32 * i
def Reg.MOR_CHAIN_LEN.LEN (i : Nat) : Slot := ⟨Reg.MOR_CHAIN_LEN.addr i, 24, 0⟩
/-- MOR_CHAIN_RECV (R424). -/
def Reg.MOR_CHAIN_RECV.addr (i : Nat) : Nat := 0x40410 + 32 * i
def Reg.MOR_CHAIN_RECV.RECV (i : Nat) : Slot := ⟨Reg.MOR_CHAIN_RECV.addr i, 24, 0⟩
/-- MOR_CHAIN_STATUS (R424). -/
def Reg.MOR_CHAIN_STATUS.addr (i : Nat) : Nat := 0x40414 + 32 * i
def Reg.MOR_CHAIN_STATUS.DONE (i : Nat) : Slot := ⟨Reg.MOR_CHAIN_STATUS.addr i, 0, 0⟩
def Reg.MOR_CHAIN_STATUS.LOST (i : Nat) : Slot := ⟨Reg.MOR_CHAIN_STATUS.addr i, 1, 1⟩
/-- MOR_RW_BASE (R425). -/
def Reg.MOR_RW_BASE.addr (p : Nat) : Nat := Reg.window p (0x1e00)
def Reg.MOR_RW_BASE.BASE (p : Nat) : Slot := ⟨Reg.MOR_RW_BASE.addr p, 24, 0⟩
/-- MOR_RW_SIZE (R425). -/
def Reg.MOR_RW_SIZE.addr (p : Nat) : Nat := Reg.window p (0x1e04)
def Reg.MOR_RW_SIZE.SIZE (p : Nat) : Slot := ⟨Reg.MOR_RW_SIZE.addr p, 24, 0⟩
/-- MOR_RD_BASE (R425). -/
def Reg.MOR_RD_BASE.addr (p : Nat) : Nat := Reg.window p (0x1e08)
def Reg.MOR_RD_BASE.BASE (p : Nat) : Slot := ⟨Reg.MOR_RD_BASE.addr p, 24, 0⟩
/-- MOR_RD_SIZE (R425). -/
def Reg.MOR_RD_SIZE.addr (p : Nat) : Nat := Reg.window p (0x1e0c)
def Reg.MOR_RD_SIZE.SIZE (p : Nat) : Slot := ⟨Reg.MOR_RD_SIZE.addr p, 24, 0⟩
/-- MOR_LAYOUT (R425). -/
def Reg.MOR_LAYOUT.addr (p : Nat) : Nat := Reg.window p (0x1e10)
def Reg.MOR_LAYOUT.LAYOUT (p : Nat) : Slot := ⟨Reg.MOR_LAYOUT.addr p, 7, 0⟩
/-- MOR_SWAP_ROW (R425). -/
def Reg.MOR_SWAP_ROW.addr (p : Nat) : Nat := Reg.window p (0x1e14)
def Reg.MOR_SWAP_ROW.ROW (p : Nat) : Slot := ⟨Reg.MOR_SWAP_ROW.addr p, 31, 0⟩
/-- MOR_SWAP_CTRL (R425). -/
def Reg.MOR_SWAP_CTRL.addr (p : Nat) : Nat := Reg.window p (0x1e18)
def Reg.MOR_SWAP_CTRL.GO (p : Nat) : Slot := ⟨Reg.MOR_SWAP_CTRL.addr p, 0, 0⟩
/-- MOR_SWAP_STATUS (R425). -/
def Reg.MOR_SWAP_STATUS.addr (p : Nat) : Nat := Reg.window p (0x1e1c)
def Reg.MOR_SWAP_STATUS.BUSY (p : Nat) : Slot := ⟨Reg.MOR_SWAP_STATUS.addr p, 0, 0⟩
def Reg.MOR_SWAP_STATUS.DONE (p : Nat) : Slot := ⟨Reg.MOR_SWAP_STATUS.addr p, 1, 1⟩
def Reg.MOR_SWAP_STATUS.ERROR (p : Nat) : Slot := ⟨Reg.MOR_SWAP_STATUS.addr p, 2, 2⟩
def Reg.MOR_SWAP_STATUS.INVALID (p : Nat) : Slot := ⟨Reg.MOR_SWAP_STATUS.addr p, 3, 3⟩
def Reg.MOR_SWAP_STATUS.REFUSED (p : Nat) : Slot := ⟨Reg.MOR_SWAP_STATUS.addr p, 4, 4⟩
/-- MOR_SWAP_TIME (R425). -/
def Reg.MOR_SWAP_TIME.addr (p : Nat) : Nat := Reg.window p (0x1e20)
def Reg.MOR_SWAP_TIME.COUNTS (p : Nat) : Slot := ⟨Reg.MOR_SWAP_TIME.addr p, 31, 0⟩
/-- MOR_STK_LATE (R425). -/
def Reg.MOR_STK_LATE.addr (p : Nat) : Nat := Reg.window p (0x1e24)
def Reg.MOR_STK_LATE.COUNT (p : Nat) : Slot := ⟨Reg.MOR_STK_LATE.addr p, 31, 0⟩
/-- IDENT (R452). -/
def Reg.IDENT.addr : Nat := 0x100
def Reg.IDENT.FAMILY : Slot := ⟨Reg.IDENT.addr, 7, 0⟩
def Reg.IDENT.GRADE : Slot := ⟨Reg.IDENT.addr, 15, 8⟩
def Reg.IDENT.STEPPING : Slot := ⟨Reg.IDENT.addr, 23, 16⟩
def Reg.IDENT.DEBUG : Slot := ⟨Reg.IDENT.addr, 24, 24⟩
/-- IDENT_PARTS (R452). -/
def Reg.IDENT_PARTS.addr : Nat := 0x104
def Reg.IDENT_PARTS.FUSED : Slot := ⟨Reg.IDENT_PARTS.addr, 11, 0⟩
def Reg.IDENT_PARTS.AVAIL : Slot := ⟨Reg.IDENT_PARTS.addr, 27, 16⟩
/-- IDENT_SERIAL_LO (R452). -/
def Reg.IDENT_SERIAL_LO.addr : Nat := 0x108
def Reg.IDENT_SERIAL_LO.SERIAL : Slot := ⟨Reg.IDENT_SERIAL_LO.addr, 31, 0⟩
/-- IDENT_SERIAL_HI (R452). -/
def Reg.IDENT_SERIAL_HI.addr : Nat := 0x10c
def Reg.IDENT_SERIAL_HI.SERIAL : Slot := ⟨Reg.IDENT_SERIAL_HI.addr, 31, 0⟩
/-- MGT_BOOT_STATUS (R466). -/
def Reg.MGT_BOOT_STATUS.addr : Nat := 0x80000
def Reg.MGT_BOOT_STATUS.STAGE : Slot := ⟨Reg.MGT_BOOT_STATUS.addr, 3, 0⟩
def Reg.MGT_BOOT_STATUS.BOLUK_SLOT : Slot := ⟨Reg.MGT_BOOT_STATUS.addr, 4, 4⟩
def Reg.MGT_BOOT_STATUS.IMAGE_SLOT : Slot := ⟨Reg.MGT_BOOT_STATUS.addr, 5, 5⟩
def Reg.MGT_BOOT_STATUS.FALLBACK : Slot := ⟨Reg.MGT_BOOT_STATUS.addr, 6, 6⟩
def Reg.MGT_BOOT_STATUS.SEALED : Slot := ⟨Reg.MGT_BOOT_STATUS.addr, 7, 7⟩
def Reg.MGT_BOOT_STATUS.REASON : Slot := ⟨Reg.MGT_BOOT_STATUS.addr, 15, 8⟩
/-- MGT_RESET_CTRL (R466). -/
def Reg.MGT_RESET_CTRL.addr : Nat := 0x80004
def Reg.MGT_RESET_CTRL.WARM : Slot := ⟨Reg.MGT_RESET_CTRL.addr, 0, 0⟩
def Reg.MGT_RESET_CTRL.COLD : Slot := ⟨Reg.MGT_RESET_CTRL.addr, 1, 1⟩
def Reg.MGT_RESET_CTRL.MGMT : Slot := ⟨Reg.MGT_RESET_CTRL.addr, 2, 2⟩
def Reg.MGT_RESET_CTRL.KEY : Slot := ⟨Reg.MGT_RESET_CTRL.addr, 15, 8⟩
/-- MGT_RESET_CFG (R466). -/
def Reg.MGT_RESET_CFG.addr : Nat := 0x80008
def Reg.MGT_RESET_CFG.PERST_ACTION : Slot := ⟨Reg.MGT_RESET_CFG.addr, 1, 0⟩
/-- MGT_RESET_CAUSE (R466). -/
def Reg.MGT_RESET_CAUSE.addr : Nat := 0x8000c
def Reg.MGT_RESET_CAUSE.CAUSE : Slot := ⟨Reg.MGT_RESET_CAUSE.addr, 3, 0⟩
def Reg.MGT_RESET_CAUSE.MGMT_RESETS : Slot := ⟨Reg.MGT_RESET_CAUSE.addr, 23, 16⟩
/-- MGT_SEAL (R466). -/
def Reg.MGT_SEAL.addr : Nat := 0x80010
def Reg.MGT_SEAL.MODULE : Slot := ⟨Reg.MGT_SEAL.addr, 0, 0⟩
def Reg.MGT_SEAL.PART : Slot := ⟨Reg.MGT_SEAL.addr, 27, 16⟩
/-- MGT_IMAGE_ID (R466). -/
def Reg.MGT_IMAGE_ID.addr : Nat := 0x80014
def Reg.MGT_IMAGE_ID.ID : Slot := ⟨Reg.MGT_IMAGE_ID.addr, 31, 0⟩
/-- MGT_SVN (R466). -/
def Reg.MGT_SVN.addr : Nat := 0x80018
def Reg.MGT_SVN.BOLUK_FLOOR : Slot := ⟨Reg.MGT_SVN.addr, 5, 0⟩
def Reg.MGT_SVN.IMAGE_FLOOR : Slot := ⟨Reg.MGT_SVN.addr, 13, 8⟩
def Reg.MGT_SVN.IMAGE_SVN : Slot := ⟨Reg.MGT_SVN.addr, 21, 16⟩
/-- MGT_IMAGE_DIGEST (R466). -/
def Reg.MGT_IMAGE_DIGEST.addr (i : Nat) : Nat := 0x80020 + 4 * i
def Reg.MGT_IMAGE_DIGEST.DIGEST (i : Nat) : Slot := ⟨Reg.MGT_IMAGE_DIGEST.addr i, 31, 0⟩
/-- MGT_DW_SEL (R466). -/
def Reg.MGT_DW_SEL.addr (i : Nat) : Nat := 0x80100 + 4 * i
def Reg.MGT_DW_SEL.KIND (i : Nat) : Slot := ⟨Reg.MGT_DW_SEL.addr i, 0, 0⟩
def Reg.MGT_DW_SEL.TARGET (i : Nat) : Slot := ⟨Reg.MGT_DW_SEL.addr i, 20, 2⟩
def Reg.MGT_DW_SEL.VALID (i : Nat) : Slot := ⟨Reg.MGT_DW_SEL.addr i, 31, 31⟩
/-- MGT_HOST_DENIED (R466). -/
def Reg.MGT_HOST_DENIED.addr : Nat := 0x80120
def Reg.MGT_HOST_DENIED.COUNT : Slot := ⟨Reg.MGT_HOST_DENIED.addr, 31, 0⟩
/-- MGT_PART_STATUS (R467). -/
def Reg.MGT_PART_STATUS.addr (p : Nat) : Nat := Reg.window p (0x1f80)
def Reg.MGT_PART_STATUS.USED (p : Nat) : Slot := ⟨Reg.MGT_PART_STATUS.addr p, 0, 0⟩
def Reg.MGT_PART_STATUS.SEALED (p : Nat) : Slot := ⟨Reg.MGT_PART_STATUS.addr p, 1, 1⟩
def Reg.MGT_PART_STATUS.RESETTING (p : Nat) : Slot := ⟨Reg.MGT_PART_STATUS.addr p, 2, 2⟩
def Reg.MGT_PART_STATUS.AVAIL (p : Nat) : Slot := ⟨Reg.MGT_PART_STATUS.addr p, 3, 3⟩
def Reg.MGT_PART_STATUS.STREAM_TO (p : Nat) : Slot := ⟨Reg.MGT_PART_STATUS.addr p, 27, 16⟩
/-- MGT_PART_HOST_DENIED (R467). -/
def Reg.MGT_PART_HOST_DENIED.addr (p : Nat) : Nat := Reg.window p (0x1f84)
def Reg.MGT_PART_HOST_DENIED.COUNT (p : Nat) : Slot := ⟨Reg.MGT_PART_HOST_DENIED.addr p, 31, 0⟩
/-- MGT_PART_INGRESS_DENIED (R467). -/
def Reg.MGT_PART_INGRESS_DENIED.addr (p : Nat) : Nat := Reg.window p (0x1f88)
def Reg.MGT_PART_INGRESS_DENIED.COUNT (p : Nat) : Slot := ⟨Reg.MGT_PART_INGRESS_DENIED.addr p, 31, 0⟩
/-- MGT_PART_ACCEPT (R467). -/
def Reg.MGT_PART_ACCEPT.addr (p i : Nat) : Nat := Reg.window p (0x1f90 + 4 * i)
def Reg.MGT_PART_ACCEPT.MODULE (p i : Nat) : Slot := ⟨Reg.MGT_PART_ACCEPT.addr p i, 11, 0⟩
def Reg.MGT_PART_ACCEPT.PARTS (p i : Nat) : Slot := ⟨Reg.MGT_PART_ACCEPT.addr p i, 23, 12⟩
def Reg.MGT_PART_ACCEPT.ANY_MODULE (p i : Nat) : Slot := ⟨Reg.MGT_PART_ACCEPT.addr p i, 24, 24⟩
def Reg.MGT_PART_ACCEPT.VALID (p i : Nat) : Slot := ⟨Reg.MGT_PART_ACCEPT.addr p i, 31, 31⟩
/-- MGT_PDW_SEL (R467). -/
def Reg.MGT_PDW_SEL.addr (p i : Nat) : Nat := Reg.window p (0x1fc0 + 4 * i)
def Reg.MGT_PDW_SEL.KIND (p i : Nat) : Slot := ⟨Reg.MGT_PDW_SEL.addr p i, 0, 0⟩
def Reg.MGT_PDW_SEL.TARGET (p i : Nat) : Slot := ⟨Reg.MGT_PDW_SEL.addr p i, 20, 2⟩
def Reg.MGT_PDW_SEL.VALID (p i : Nat) : Slot := ⟨Reg.MGT_PDW_SEL.addr p i, 31, 31⟩
/-- GOV_CTRL (R485). -/
def Reg.GOV_CTRL.addr : Nat := 0x50000
def Reg.GOV_CTRL.BALLAST_EN : Slot := ⟨Reg.GOV_CTRL.addr, 0, 0⟩
/-- GOV_CAP (R485). -/
def Reg.GOV_CAP.addr : Nat := 0x50004
def Reg.GOV_CAP.CAP_W : Slot := ⟨Reg.GOV_CAP.addr, 12, 0⟩
/-- GOV_SLEW (R485). -/
def Reg.GOV_SLEW.addr : Nat := 0x50008
def Reg.GOV_SLEW.SLEW : Slot := ⟨Reg.GOV_SLEW.addr, 8, 0⟩
/-- GOV_FUSE (R485). -/
def Reg.GOV_FUSE.addr : Nat := 0x5000c
def Reg.GOV_FUSE.HARD_CAP_W : Slot := ⟨Reg.GOV_FUSE.addr, 12, 0⟩
def Reg.GOV_FUSE.SLEW_MAX : Slot := ⟨Reg.GOV_FUSE.addr, 21, 13⟩
def Reg.GOV_FUSE.E_MAX_J : Slot := ⟨Reg.GOV_FUSE.addr, 25, 22⟩
/-- GOV_STATUS (R485). -/
def Reg.GOV_STATUS.addr : Nat := 0x50010
def Reg.GOV_STATUS.THROTTLING : Slot := ⟨Reg.GOV_STATUS.addr, 0, 0⟩
def Reg.GOV_STATUS.BALLAST_ON : Slot := ⟨Reg.GOV_STATUS.addr, 1, 1⟩
def Reg.GOV_STATUS.HARD_CAP : Slot := ⟨Reg.GOV_STATUS.addr, 2, 2⟩
def Reg.GOV_STATUS.LOW_ENERGY : Slot := ⟨Reg.GOV_STATUS.addr, 3, 3⟩
def Reg.GOV_STATUS.VIN_RANGE : Slot := ⟨Reg.GOV_STATUS.addr, 4, 4⟩
def Reg.GOV_STATUS.TEMP_WARN : Slot := ⟨Reg.GOV_STATUS.addr, 5, 5⟩
def Reg.GOV_STATUS.SLEW_BREACH : Slot := ⟨Reg.GOV_STATUS.addr, 6, 6⟩
/-- GOV_E (R485). -/
def Reg.GOV_E.addr : Nat := 0x50014
def Reg.GOV_E.E_MJ : Slot := ⟨Reg.GOV_E.addr, 15, 0⟩
/-- GOV_P_CMD (R485). -/
def Reg.GOV_P_CMD.addr : Nat := 0x50018
def Reg.GOV_P_CMD.W : Slot := ⟨Reg.GOV_P_CMD.addr, 12, 0⟩
/-- GOV_TARGET (R485). -/
def Reg.GOV_TARGET.addr : Nat := 0x5001c
def Reg.GOV_TARGET.W : Slot := ⟨Reg.GOV_TARGET.addr, 12, 0⟩
/-- GOV_BALLAST (R485). -/
def Reg.GOV_BALLAST.addr : Nat := 0x50020
def Reg.GOV_BALLAST.LEVEL : Slot := ⟨Reg.GOV_BALLAST.addr, 3, 0⟩
/-- GOV_STATIC (R485). -/
def Reg.GOV_STATIC.addr : Nat := 0x50024
def Reg.GOV_STATIC.STATIC_W : Slot := ⟨Reg.GOV_STATIC.addr, 12, 0⟩
/-- GOV_THROTTLE_LEN (R485). -/
def Reg.GOV_THROTTLE_LEN.addr : Nat := 0x50028
def Reg.GOV_THROTTLE_LEN.COUNTS : Slot := ⟨Reg.GOV_THROTTLE_LEN.addr, 15, 0⟩
/-- GOV_THROTTLE_COUNT (R485). -/
def Reg.GOV_THROTTLE_COUNT.addr : Nat := 0x5002c
def Reg.GOV_THROTTLE_COUNT.COUNT : Slot := ⟨Reg.GOV_THROTTLE_COUNT.addr, 31, 0⟩
/-- GOV_THROTTLE_TIME (R485). -/
def Reg.GOV_THROTTLE_TIME.addr : Nat := 0x50030
def Reg.GOV_THROTTLE_TIME.COUNTS : Slot := ⟨Reg.GOV_THROTTLE_TIME.addr, 31, 0⟩
/-- GOV_STEP_SCALE (R485). -/
def Reg.GOV_STEP_SCALE.addr (i : Nat) : Nat := 0x50040 + 4 * i
def Reg.GOV_STEP_SCALE.SCALE (i : Nat) : Slot := ⟨Reg.GOV_STEP_SCALE.addr i, 8, 0⟩
/-- GOV_DOMAIN_W (R485). -/
def Reg.GOV_DOMAIN_W.addr (i : Nat) : Nat := 0x50080 + 4 * i
def Reg.GOV_DOMAIN_W.W (i : Nat) : Slot := ⟨Reg.GOV_DOMAIN_W.addr i, 12, 0⟩
/-- TEL_VIN (R486). -/
def Reg.TEL_VIN.addr : Nat := 0x60000
def Reg.TEL_VIN.MV : Slot := ⟨Reg.TEL_VIN.addr, 15, 0⟩
/-- TEL_IIN (R486). -/
def Reg.TEL_IIN.addr : Nat := 0x60004
def Reg.TEL_IIN.I : Slot := ⟨Reg.TEL_IIN.addr, 15, 0⟩
/-- TEL_PIN (R486). -/
def Reg.TEL_PIN.addr : Nat := 0x60008
def Reg.TEL_PIN.W : Slot := ⟨Reg.TEL_PIN.addr, 12, 0⟩
def Reg.TEL_PIN.MEAN_1MS : Slot := ⟨Reg.TEL_PIN.addr, 28, 16⟩
/-- TEL_STAMP_LO (R486). -/
def Reg.TEL_STAMP_LO.addr : Nat := 0x6000c
def Reg.TEL_STAMP_LO.COUNT : Slot := ⟨Reg.TEL_STAMP_LO.addr, 31, 0⟩
/-- TEL_STAMP_HI (R486). -/
def Reg.TEL_STAMP_HI.addr : Nat := 0x60010
def Reg.TEL_STAMP_HI.COUNT : Slot := ⟨Reg.TEL_STAMP_HI.addr, 31, 0⟩
/-- TEL_PIN_PEAK (R486). -/
def Reg.TEL_PIN_PEAK.addr : Nat := 0x60014
def Reg.TEL_PIN_PEAK.W : Slot := ⟨Reg.TEL_PIN_PEAK.addr, 12, 0⟩
/-- TEL_ENERGY_LO (R486). -/
def Reg.TEL_ENERGY_LO.addr : Nat := 0x60018
def Reg.TEL_ENERGY_LO.MJ : Slot := ⟨Reg.TEL_ENERGY_LO.addr, 31, 0⟩
/-- TEL_ENERGY_HI (R486). -/
def Reg.TEL_ENERGY_HI.addr : Nat := 0x6001c
def Reg.TEL_ENERGY_HI.MJ : Slot := ⟨Reg.TEL_ENERGY_HI.addr, 31, 0⟩
/-- TEL_LINK_WARN (R486). -/
def Reg.TEL_LINK_WARN.addr : Nat := 0x60020
def Reg.TEL_LINK_WARN.PORTS : Slot := ⟨Reg.TEL_LINK_WARN.addr, 31, 0⟩
/-- TEL_TEMP (R486). -/
def Reg.TEL_TEMP.addr (i : Nat) : Nat := 0x60100 + 4 * i
def Reg.TEL_TEMP.TEMP (i : Nat) : Slot := ⟨Reg.TEL_TEMP.addr i, 11, 0⟩
/-- TEL_TEMP_TRIP (R486). -/
def Reg.TEL_TEMP_TRIP.addr : Nat := 0x60300
def Reg.TEL_TEMP_TRIP.WARN : Slot := ⟨Reg.TEL_TEMP_TRIP.addr, 7, 0⟩
def Reg.TEL_TEMP_TRIP.TRIP : Slot := ⟨Reg.TEL_TEMP_TRIP.addr, 15, 8⟩
/-- TEL_STRETCH (R486). -/
def Reg.TEL_STRETCH.addr (i : Nat) : Nat := 0x61000 + 8 * i
def Reg.TEL_STRETCH.CYCLES (i : Nat) : Slot := ⟨Reg.TEL_STRETCH.addr i, 31, 0⟩
/-- TEL_DROOP (R486). -/
def Reg.TEL_DROOP.addr (i : Nat) : Nat := 0x61004 + 8 * i
def Reg.TEL_DROOP.EVENTS (i : Nat) : Slot := ⟨Reg.TEL_DROOP.addr i, 31, 0⟩
/-- FLT_STATUS (R519). -/
def Reg.FLT_STATUS.addr : Nat := 0x70000
def Reg.FLT_STATUS.WRAPPED : Slot := ⟨Reg.FLT_STATUS.addr, 0, 0⟩
def Reg.FLT_STATUS.DROPPED : Slot := ⟨Reg.FLT_STATUS.addr, 1, 1⟩
/-- FLT_NEXT_SEQ (R519). -/
def Reg.FLT_NEXT_SEQ.addr : Nat := 0x70004
def Reg.FLT_NEXT_SEQ.SEQ : Slot := ⟨Reg.FLT_NEXT_SEQ.addr, 31, 0⟩
/-- FLT_DROPPED (R519). -/
def Reg.FLT_DROPPED.addr : Nat := 0x70008
def Reg.FLT_DROPPED.COUNT : Slot := ⟨Reg.FLT_DROPPED.addr, 31, 0⟩
/-- FLT_HALTS (R519). -/
def Reg.FLT_HALTS.addr : Nat := 0x7000c
def Reg.FLT_HALTS.COUNT : Slot := ⟨Reg.FLT_HALTS.addr, 31, 0⟩
/-- FLT_REC (R519). -/
def Reg.FLT_REC.addr (i j : Nat) : Nat := 0x78000 + 64 * i + 4 * j
def Reg.FLT_REC.WORD (i j : Nat) : Slot := ⟨Reg.FLT_REC.addr i j, 31, 0⟩
/-- DBG_CTRL (R519). -/
def Reg.DBG_CTRL.addr : Nat := 0x70100
def Reg.DBG_CTRL.HAZ_EN : Slot := ⟨Reg.DBG_CTRL.addr, 0, 0⟩
def Reg.DBG_CTRL.HALT_ON_HAZARD : Slot := ⟨Reg.DBG_CTRL.addr, 1, 1⟩
def Reg.DBG_CTRL.HALT_CAPTURE : Slot := ⟨Reg.DBG_CTRL.addr, 2, 2⟩
def Reg.DBG_CTRL.COURSE_EN : Slot := ⟨Reg.DBG_CTRL.addr, 3, 3⟩
/-- DBG_HAZ_COUNT (R519). -/
def Reg.DBG_HAZ_COUNT.addr (i : Nat) : Nat := 0x70110 + 4 * i
def Reg.DBG_HAZ_COUNT.COUNT (i : Nat) : Slot := ⟨Reg.DBG_HAZ_COUNT.addr i, 31, 0⟩
/-- REC_CTRL (R520). -/
def Reg.REC_CTRL.addr : Nat := 0x70200
def Reg.REC_CTRL.MODE : Slot := ⟨Reg.REC_CTRL.addr, 1, 0⟩
def Reg.REC_CTRL.WRAP : Slot := ⟨Reg.REC_CTRL.addr, 2, 2⟩
def Reg.REC_CTRL.OUT_EN : Slot := ⟨Reg.REC_CTRL.addr, 3, 3⟩
def Reg.REC_CTRL.PARK_COPY : Slot := ⟨Reg.REC_CTRL.addr, 4, 4⟩
def Reg.REC_CTRL.PARTS : Slot := ⟨Reg.REC_CTRL.addr, 27, 16⟩
/-- REC_INTERNAL (R520). -/
def Reg.REC_INTERNAL.addr : Nat := 0x70204
def Reg.REC_INTERNAL.MIN : Slot := ⟨Reg.REC_INTERNAL.addr, 11, 0⟩
def Reg.REC_INTERNAL.MAX : Slot := ⟨Reg.REC_INTERNAL.addr, 23, 12⟩
/-- REC_STATUS (R520). -/
def Reg.REC_STATUS.addr : Nat := 0x70208
def Reg.REC_STATUS.ACTIVE : Slot := ⟨Reg.REC_STATUS.addr, 0, 0⟩
def Reg.REC_STATUS.FULL : Slot := ⟨Reg.REC_STATUS.addr, 1, 1⟩
def Reg.REC_STATUS.BEHIND : Slot := ⟨Reg.REC_STATUS.addr, 2, 2⟩
def Reg.REC_STATUS.DIVERGED : Slot := ⟨Reg.REC_STATUS.addr, 3, 3⟩
/-- REC_START_COURSE_LO (R520). -/
def Reg.REC_START_COURSE_LO.addr : Nat := 0x7020c
def Reg.REC_START_COURSE_LO.COURSE : Slot := ⟨Reg.REC_START_COURSE_LO.addr, 31, 0⟩
/-- REC_START_COURSE_HI (R520). -/
def Reg.REC_START_COURSE_HI.addr : Nat := 0x70210
def Reg.REC_START_COURSE_HI.COURSE : Slot := ⟨Reg.REC_START_COURSE_HI.addr, 15, 0⟩
/-- REC_PTR_LO (R520). -/
def Reg.REC_PTR_LO.addr : Nat := 0x70214
def Reg.REC_PTR_LO.PTR : Slot := ⟨Reg.REC_PTR_LO.addr, 31, 0⟩
/-- REC_PTR_HI (R520). -/
def Reg.REC_PTR_HI.addr : Nat := 0x70218
def Reg.REC_PTR_HI.PTR : Slot := ⟨Reg.REC_PTR_HI.addr, 2, 0⟩
/-- REC_LOST (R520). -/
def Reg.REC_LOST.addr : Nat := 0x7021c
def Reg.REC_LOST.COUNT : Slot := ⟨Reg.REC_LOST.addr, 31, 0⟩
/-- REPLAY_SRC_LO (R520). -/
def Reg.REPLAY_SRC_LO.addr : Nat := 0x70220
def Reg.REPLAY_SRC_LO.ROW : Slot := ⟨Reg.REPLAY_SRC_LO.addr, 31, 0⟩
/-- REPLAY_SRC_HI (R520). -/
def Reg.REPLAY_SRC_HI.addr : Nat := 0x70224
def Reg.REPLAY_SRC_HI.ROW : Slot := ⟨Reg.REPLAY_SRC_HI.addr, 31, 0⟩
/-- REPLAY_OFFSET_LO (R520). -/
def Reg.REPLAY_OFFSET_LO.addr : Nat := 0x70228
def Reg.REPLAY_OFFSET_LO.OFFSET : Slot := ⟨Reg.REPLAY_OFFSET_LO.addr, 31, 0⟩
/-- REPLAY_OFFSET_HI (R520). -/
def Reg.REPLAY_OFFSET_HI.addr : Nat := 0x7022c
def Reg.REPLAY_OFFSET_HI.OFFSET : Slot := ⟨Reg.REPLAY_OFFSET_HI.addr, 15, 0⟩
/-- REPLAY_CTX (R520). -/
def Reg.REPLAY_CTX.addr : Nat := 0x70230
def Reg.REPLAY_CTX.CTX : Slot := ⟨Reg.REPLAY_CTX.addr, 7, 0⟩
def Reg.REPLAY_CTX.ONE : Slot := ⟨Reg.REPLAY_CTX.addr, 8, 8⟩
/-- REPLAY_DIVERGE_COUNT (R520). -/
def Reg.REPLAY_DIVERGE_COUNT.addr : Nat := 0x70234
def Reg.REPLAY_DIVERGE_COUNT.COUNT : Slot := ⟨Reg.REPLAY_DIVERGE_COUNT.addr, 31, 0⟩
/-- ETH_CTRL (R544). -/
def Reg.ETH_CTRL.addr (i : Nat) : Nat := 0x200000 + 4096 * i
def Reg.ETH_CTRL.EN (i : Nat) : Slot := ⟨Reg.ETH_CTRL.addr i, 0, 0⟩
def Reg.ETH_CTRL.SPEED (i : Nat) : Slot := ⟨Reg.ETH_CTRL.addr i, 2, 1⟩
def Reg.ETH_CTRL.MACSEC_EN (i : Nat) : Slot := ⟨Reg.ETH_CTRL.addr i, 3, 3⟩
def Reg.ETH_CTRL.PFC_PRIO (i : Nat) : Slot := ⟨Reg.ETH_CTRL.addr i, 6, 4⟩
def Reg.ETH_CTRL.MTU (i : Nat) : Slot := ⟨Reg.ETH_CTRL.addr i, 20, 7⟩
def Reg.ETH_CTRL.TIMEOUT (i : Nat) : Slot := ⟨Reg.ETH_CTRL.addr i, 31, 21⟩
/-- ETH_STATUS (R544). -/
def Reg.ETH_STATUS.addr (i : Nat) : Nat := 0x200004 + 4096 * i
def Reg.ETH_STATUS.LINK_UP (i : Nat) : Slot := ⟨Reg.ETH_STATUS.addr i, 0, 0⟩
def Reg.ETH_STATUS.SPEED (i : Nat) : Slot := ⟨Reg.ETH_STATUS.addr i, 2, 1⟩
def Reg.ETH_STATUS.OVF (i : Nat) : Slot := ⟨Reg.ETH_STATUS.addr i, 3, 3⟩
/-- ETH_MAC_LO (R544). -/
def Reg.ETH_MAC_LO.addr (i : Nat) : Nat := 0x200008 + 4096 * i
def Reg.ETH_MAC_LO.MAC (i : Nat) : Slot := ⟨Reg.ETH_MAC_LO.addr i, 31, 0⟩
/-- ETH_MAC_HI (R544). -/
def Reg.ETH_MAC_HI.addr (i : Nat) : Nat := 0x20000c + 4096 * i
def Reg.ETH_MAC_HI.MAC (i : Nat) : Slot := ⟨Reg.ETH_MAC_HI.addr i, 15, 0⟩
/-- ETH_IPV4 (R544). -/
def Reg.ETH_IPV4.addr (i : Nat) : Nat := 0x200010 + 4096 * i
def Reg.ETH_IPV4.ADDR (i : Nat) : Slot := ⟨Reg.ETH_IPV4.addr i, 31, 0⟩
/-- ETH_IPV6 (R544). -/
def Reg.ETH_IPV6.addr (i j : Nat) : Nat := 0x200014 + 4096 * i + 4 * j
def Reg.ETH_IPV6.ADDR (i j : Nat) : Slot := ⟨Reg.ETH_IPV6.addr i j, 31, 0⟩
/-- ETH_RDMA_NAK (R544). -/
def Reg.ETH_RDMA_NAK.addr (i : Nat) : Nat := 0x200040 + 4096 * i
def Reg.ETH_RDMA_NAK.COUNT (i : Nat) : Slot := ⟨Reg.ETH_RDMA_NAK.addr i, 31, 0⟩
/-- ETH_MACSEC_DROP (R544). -/
def Reg.ETH_MACSEC_DROP.addr (i : Nat) : Nat := 0x200044 + 4096 * i
def Reg.ETH_MACSEC_DROP.COUNT (i : Nat) : Slot := ⟨Reg.ETH_MACSEC_DROP.addr i, 31, 0⟩
/-- ETH_STREAM_DROP (R544). -/
def Reg.ETH_STREAM_DROP.addr (i : Nat) : Nat := 0x200048 + 4096 * i
def Reg.ETH_STREAM_DROP.COUNT (i : Nat) : Slot := ⟨Reg.ETH_STREAM_DROP.addr i, 31, 0⟩
/-- ETH_FCS_ERR (R544). -/
def Reg.ETH_FCS_ERR.addr (i : Nat) : Nat := 0x20004c + 4096 * i
def Reg.ETH_FCS_ERR.COUNT (i : Nat) : Slot := ⟨Reg.ETH_FCS_ERR.addr i, 31, 0⟩
/-- ETH_PTP_TS_LO (R544). -/
def Reg.ETH_PTP_TS_LO.addr (i : Nat) : Nat := 0x200050 + 4096 * i
def Reg.ETH_PTP_TS_LO.STAMP (i : Nat) : Slot := ⟨Reg.ETH_PTP_TS_LO.addr i, 31, 0⟩
/-- ETH_PTP_TS_HI (R544). -/
def Reg.ETH_PTP_TS_HI.addr (i : Nat) : Nat := 0x200054 + 4096 * i
def Reg.ETH_PTP_TS_HI.STAMP (i : Nat) : Slot := ⟨Reg.ETH_PTP_TS_HI.addr i, 31, 0⟩
/-- ETH_PTP_INFO (R544). -/
def Reg.ETH_PTP_INFO.addr (i : Nat) : Nat := 0x200058 + 4096 * i
def Reg.ETH_PTP_INFO.SEQ_ID (i : Nat) : Slot := ⟨Reg.ETH_PTP_INFO.addr i, 15, 0⟩
def Reg.ETH_PTP_INFO.TX (i : Nat) : Slot := ⟨Reg.ETH_PTP_INFO.addr i, 16, 16⟩
def Reg.ETH_PTP_INFO.VALID (i : Nat) : Slot := ⟨Reg.ETH_PTP_INFO.addr i, 31, 31⟩
/-- ETH_DEST_DMAC_LO (R544). -/
def Reg.ETH_DEST_DMAC_LO.addr (i : Nat) : Nat := 0x204000 + 32 * i
def Reg.ETH_DEST_DMAC_LO.DMAC (i : Nat) : Slot := ⟨Reg.ETH_DEST_DMAC_LO.addr i, 31, 0⟩
/-- ETH_DEST_DMAC_HI (R544). -/
def Reg.ETH_DEST_DMAC_HI.addr (i : Nat) : Nat := 0x204004 + 32 * i
def Reg.ETH_DEST_DMAC_HI.DMAC (i : Nat) : Slot := ⟨Reg.ETH_DEST_DMAC_HI.addr i, 15, 0⟩
def Reg.ETH_DEST_DMAC_HI.IPV6 (i : Nat) : Slot := ⟨Reg.ETH_DEST_DMAC_HI.addr i, 31, 31⟩
/-- ETH_DEST_IP0 (R544). -/
def Reg.ETH_DEST_IP0.addr (i : Nat) : Nat := 0x204008 + 32 * i
def Reg.ETH_DEST_IP0.IP (i : Nat) : Slot := ⟨Reg.ETH_DEST_IP0.addr i, 31, 0⟩
/-- ETH_DEST_IP1 (R544). -/
def Reg.ETH_DEST_IP1.addr (i : Nat) : Nat := 0x20400c + 32 * i
def Reg.ETH_DEST_IP1.IP (i : Nat) : Slot := ⟨Reg.ETH_DEST_IP1.addr i, 31, 0⟩
/-- ETH_DEST_IP2 (R544). -/
def Reg.ETH_DEST_IP2.addr (i : Nat) : Nat := 0x204010 + 32 * i
def Reg.ETH_DEST_IP2.IP (i : Nat) : Slot := ⟨Reg.ETH_DEST_IP2.addr i, 31, 0⟩
/-- ETH_DEST_IP3 (R544). -/
def Reg.ETH_DEST_IP3.addr (i : Nat) : Nat := 0x204014 + 32 * i
def Reg.ETH_DEST_IP3.IP (i : Nat) : Slot := ⟨Reg.ETH_DEST_IP3.addr i, 31, 0⟩
/-- ETH_MR_CFG (R544). -/
def Reg.ETH_MR_CFG.addr (i : Nat) : Nat := 0x20c000 + 32 * i
def Reg.ETH_MR_CFG.VALID (i : Nat) : Slot := ⟨Reg.ETH_MR_CFG.addr i, 0, 0⟩
def Reg.ETH_MR_CFG.PART (i : Nat) : Slot := ⟨Reg.ETH_MR_CFG.addr i, 4, 1⟩
def Reg.ETH_MR_CFG.ASHLAR (i : Nat) : Slot := ⟨Reg.ETH_MR_CFG.addr i, 14, 5⟩
def Reg.ETH_MR_CFG.CAIRN (i : Nat) : Slot := ⟨Reg.ETH_MR_CFG.addr i, 20, 15⟩
def Reg.ETH_MR_CFG.INC (i : Nat) : Slot := ⟨Reg.ETH_MR_CFG.addr i, 21, 21⟩
/-- ETH_MR_BASE (R544). -/
def Reg.ETH_MR_BASE.addr (i : Nat) : Nat := 0x20c004 + 32 * i
def Reg.ETH_MR_BASE.BASE (i : Nat) : Slot := ⟨Reg.ETH_MR_BASE.addr i, 24, 0⟩
/-- ETH_MR_LEN (R544). -/
def Reg.ETH_MR_LEN.addr (i : Nat) : Nat := 0x20c008 + 32 * i
def Reg.ETH_MR_LEN.LEN (i : Nat) : Slot := ⟨Reg.ETH_MR_LEN.addr i, 22, 0⟩
/-- ETH_MR_RKEY (R544). -/
def Reg.ETH_MR_RKEY.addr (i : Nat) : Nat := 0x20c00c + 32 * i
def Reg.ETH_MR_RKEY.RKEY (i : Nat) : Slot := ⟨Reg.ETH_MR_RKEY.addr i, 31, 0⟩
/-- ETH_FLOW_LO (R544). -/
def Reg.ETH_FLOW_LO.addr (i : Nat) : Nat := 0x210000 + 8 * i
def Reg.ETH_FLOW_LO.UDP_DST (i : Nat) : Slot := ⟨Reg.ETH_FLOW_LO.addr i, 15, 0⟩
def Reg.ETH_FLOW_LO.DEST (i : Nat) : Slot := ⟨Reg.ETH_FLOW_LO.addr i, 23, 16⟩
def Reg.ETH_FLOW_LO.DSCP (i : Nat) : Slot := ⟨Reg.ETH_FLOW_LO.addr i, 29, 24⟩
def Reg.ETH_FLOW_LO.PORT (i : Nat) : Slot := ⟨Reg.ETH_FLOW_LO.addr i, 30, 30⟩
def Reg.ETH_FLOW_LO.VALID (i : Nat) : Slot := ⟨Reg.ETH_FLOW_LO.addr i, 31, 31⟩
/-- ETH_FLOW_HI (R544). -/
def Reg.ETH_FLOW_HI.addr (i : Nat) : Nat := 0x210004 + 8 * i
def Reg.ETH_FLOW_HI.UDP_SRC (i : Nat) : Slot := ⟨Reg.ETH_FLOW_HI.addr i, 15, 0⟩
/-- MGT_PCI_LINK (R544). -/
def Reg.MGT_PCI_LINK.addr : Nat := 0x220000
def Reg.MGT_PCI_LINK.RATE : Slot := ⟨Reg.MGT_PCI_LINK.addr, 2, 0⟩
def Reg.MGT_PCI_LINK.WIDTH : Slot := ⟨Reg.MGT_PCI_LINK.addr, 7, 3⟩
def Reg.MGT_PCI_LINK.FLIT : Slot := ⟨Reg.MGT_PCI_LINK.addr, 8, 8⟩
/-- MGT_PCI_PERST_COUNT (R544). -/
def Reg.MGT_PCI_PERST_COUNT.addr : Nat := 0x220004
def Reg.MGT_PCI_PERST_COUNT.COUNT : Slot := ⟨Reg.MGT_PCI_PERST_COUNT.addr, 31, 0⟩
/-- MGT_SMB_STATUS (R544). -/
def Reg.MGT_SMB_STATUS.addr : Nat := 0x220008
def Reg.MGT_SMB_STATUS.ADDR : Slot := ⟨Reg.MGT_SMB_STATUS.addr, 2, 0⟩
def Reg.MGT_SMB_STATUS.EID : Slot := ⟨Reg.MGT_SMB_STATUS.addr, 15, 8⟩
/-- MMBX_REQ (R462). -/
def Reg.MMBX_REQ.addr (i : Nat) : Nat := 0x81000 + 4 * i
def Reg.MMBX_REQ.WORD (i : Nat) : Slot := ⟨Reg.MMBX_REQ.addr i, 31, 0⟩
/-- MMBX_RSP (R462). -/
def Reg.MMBX_RSP.addr (i : Nat) : Nat := 0x82000 + 4 * i
def Reg.MMBX_RSP.WORD (i : Nat) : Slot := ⟨Reg.MMBX_RSP.addr i, 31, 0⟩
/-- MMBX_CTRL (R462). -/
def Reg.MMBX_CTRL.addr : Nat := 0x83000
def Reg.MMBX_CTRL.GO : Slot := ⟨Reg.MMBX_CTRL.addr, 0, 0⟩
/-- MMBX_STATUS (R462). -/
def Reg.MMBX_STATUS.addr : Nat := 0x83004
def Reg.MMBX_STATUS.BUSY : Slot := ⟨Reg.MMBX_STATUS.addr, 0, 0⟩
def Reg.MMBX_STATUS.DONE : Slot := ⟨Reg.MMBX_STATUS.addr, 1, 1⟩
def Reg.MMBX_STATUS.OVERRUN : Slot := ⟨Reg.MMBX_STATUS.addr, 2, 2⟩
def Reg.MMBX_STATUS.RESET_ABORT : Slot := ⟨Reg.MMBX_STATUS.addr, 3, 3⟩
/-- PMBX_REQ (R462). -/
def Reg.PMBX_REQ.addr (p i : Nat) : Nat := Reg.window p (0x10000 + 4 * i)
def Reg.PMBX_REQ.WORD (p i : Nat) : Slot := ⟨Reg.PMBX_REQ.addr p i, 31, 0⟩
/-- PMBX_RSP (R462). -/
def Reg.PMBX_RSP.addr (p i : Nat) : Nat := Reg.window p (0x11000 + 4 * i)
def Reg.PMBX_RSP.WORD (p i : Nat) : Slot := ⟨Reg.PMBX_RSP.addr p i, 31, 0⟩
/-- PMBX_CTRL (R462). -/
def Reg.PMBX_CTRL.addr (p : Nat) : Nat := Reg.window p (0x12000)
def Reg.PMBX_CTRL.GO (p : Nat) : Slot := ⟨Reg.PMBX_CTRL.addr p, 0, 0⟩
/-- PMBX_STATUS (R462). -/
def Reg.PMBX_STATUS.addr (p : Nat) : Nat := Reg.window p (0x12004)
def Reg.PMBX_STATUS.BUSY (p : Nat) : Slot := ⟨Reg.PMBX_STATUS.addr p, 0, 0⟩
def Reg.PMBX_STATUS.DONE (p : Nat) : Slot := ⟨Reg.PMBX_STATUS.addr p, 1, 1⟩
def Reg.PMBX_STATUS.OVERRUN (p : Nat) : Slot := ⟨Reg.PMBX_STATUS.addr p, 2, 2⟩
def Reg.PMBX_STATUS.RESET_ABORT (p : Nat) : Slot := ⟨Reg.PMBX_STATUS.addr p, 3, 3⟩

/-- Rows of the register tables, part 1. -/
def regTable1 : List RegRow := [
  ⟨.module, 0x18000, [], [⟨0, 0, .rw, 0⟩, ⟨1, 1, .rw, 0⟩, ⟨2, 2, .rw, 0⟩]⟩,
  ⟨.module, 0x18004, [], [⟨17, 0, .rw, 0x4e20⟩]⟩,
  ⟨.module, 0x18008, [], [⟨31, 0, .rw, 0⟩]⟩,
  ⟨.module, 0x1800c, [], [⟨31, 0, .rw, 0⟩]⟩,
  ⟨.module, 0x18010, [], [⟨31, 0, .rw, 0⟩]⟩,
  ⟨.module, 0x18014, [], [⟨15, 0, .rw, 0⟩]⟩,
  ⟨.module, 0x18018, [], [⟨31, 0, .ro, 0⟩]⟩,
  ⟨.module, 0x1801c, [], [⟨15, 0, .ro, 0⟩]⟩,
  ⟨.module, 0x18020, [], [⟨31, 0, .ro, 0⟩]⟩,
  ⟨.module, 0x18024, [], [⟨31, 0, .ro, 0⟩]⟩,
  ⟨.module, 0x18028, [], [⟨15, 0, .rw, 0⟩]⟩,
  ⟨.module, 0x1802c, [], [⟨0, 0, .ro, 0⟩, ⟨1, 1, .w1c, 0⟩, ⟨2, 2, .w1c, 0⟩, ⟨3, 3, .w1c, 0⟩, ⟨31, 16, .ro, 0⟩]⟩,
  ⟨.module, 0x18030, [], [⟨31, 0, .rc, 0⟩]⟩,
  ⟨.partition, 0x400, [], [⟨3, 0, .ro, 0⟩, ⟨19, 8, .ro, 0⟩]⟩,
  ⟨.partition, 0x404, [], [⟨0, 0, .wo, 0⟩, ⟨1, 1, .wo, 0⟩]⟩,
  ⟨.partition, 0x408, [], [⟨31, 0, .rw, 0⟩]⟩,
  ⟨.partition, 0x40c, [], [⟨15, 0, .rw, 0⟩]⟩,
  ⟨.partition, 0x410, [], [⟨0, 0, .ro, 0⟩, ⟨1, 1, .ro, 0⟩, ⟨2, 2, .w1c, 0⟩, ⟨3, 3, .w1c, 0⟩, ⟨4, 4, .w1c, 0⟩, ⟨5, 5, .w1c, 0⟩, ⟨6, 6, .w1c, 0⟩, ⟨7, 7, .ro, 0⟩, ⟨8, 8, .w1c, 0⟩, ⟨9, 9, .w1c, 0⟩, ⟨31, 16, .ro, 0⟩]⟩,
  ⟨.partition, 0x414, [], [⟨31, 0, .rw, 0x186a0⟩]⟩,
  ⟨.partition, 0x418, [], [⟨31, 0, .ro, 0⟩]⟩,
  ⟨.partition, 0x41c, [], [⟨15, 0, .ro, 0⟩]⟩,
  ⟨.partition, 0x420, [], [⟨31, 0, .ro, 0⟩]⟩,
  ⟨.partition, 0x424, [], [⟨31, 0, .ro, 0⟩]⟩,
  ⟨.partition, 0x428, [], [⟨31, 0, .ro, 0⟩]⟩,
  ⟨.partition, 0x42c, [], [⟨31, 0, .ro, 0⟩]⟩,
  ⟨.partition, 0x430, [], [⟨31, 0, .ro, 0⟩]⟩,
  ⟨.partition, 0x434, [], [⟨31, 0, .ro, 0⟩]⟩,
  ⟨.partition, 0x438, [], [⟨31, 0, .ro, 0⟩]⟩,
  ⟨.partition, 0x43c, [], [⟨31, 0, .ro, 0⟩]⟩,
  ⟨.partition, 0x440, [], [⟨31, 0, .ro, 0⟩]⟩,
  ⟨.partition, 0x444, [], [⟨31, 0, .rc, 0x7fffffff⟩]⟩,
  ⟨.partition, 0x448, [], [⟨31, 0, .rc, 0⟩]⟩,
  ⟨.partition, 0x44c, [], [⟨31, 0, .rc, 0⟩]⟩,
  ⟨.partition, 0x450, [], [⟨31, 0, .ro, 0⟩]⟩,
  ⟨.partition, 0x454, [], [⟨31, 0, .ro, 0⟩]⟩,
  ⟨.partition, 0x458, [], [⟨31, 0, .rc, 0⟩]⟩,
  ⟨.partition, 0x45c, [], [⟨31, 0, .rc, 0⟩]⟩,
  ⟨.module, 0x110, [], [⟨3, 0, .ro, 4⟩, ⟨11, 4, .ro, 0x40⟩, ⟨19, 12, .ro, 0x40⟩, ⟨27, 20, .ro, 0x40⟩]⟩,
  ⟨.module, 0x114, [], [⟨7, 0, .ro, 0x40⟩, ⟨15, 8, .ro, 0x20⟩, ⟨23, 16, .ro, 0x20⟩, ⟨31, 24, .ro, 0xe0⟩]⟩,
  ⟨.module, 0x118, [], [⟨3, 0, .ro, 8⟩, ⟨7, 4, .ro, 4⟩, ⟨21, 8, .ro, 0x2000⟩, ⟨28, 22, .ro, 0x40⟩]⟩]
/-- Rows of the register tables, part 2. -/
def regTable2 : List RegRow := [
  ⟨.module, 0x11c, [], [⟨31, 0, .ro, 0x66554433⟩]⟩,
  ⟨.module, 0x120, [], [⟨7, 0, .ro, 0x20⟩, ⟨11, 8, .ro, 1⟩, ⟨15, 12, .ro, 4⟩]⟩,
  ⟨.module, 0x20000, [(4, 24)], [⟨4, 0, .ro, 0x18⟩, ⟨8, 8, .ro, 0⟩, ⟨13, 9, .ro, 0⟩]⟩,
  ⟨.tile, 0x0, [], [⟨9, 0, .ro, 0⟩, ⟨13, 10, .ro, 0⟩, ⟨19, 14, .ro, 0⟩, ⟨25, 20, .ro, 0⟩]⟩,
  ⟨.tile, 0x4, [], [⟨0, 0, .w1c, 0⟩, ⟨1, 1, .w1c, 0⟩, ⟨2, 2, .w1c, 0⟩, ⟨3, 3, .w1c, 0⟩, ⟨4, 4, .w1c, 0⟩, ⟨5, 5, .w1c, 0⟩, ⟨6, 6, .w1c, 0⟩]⟩,
  ⟨.tile, 0x10, [], [⟨7, 0, .rw, 0xff⟩, ⟨15, 8, .ro, 0xff⟩]⟩,
  ⟨.tile, 0x14, [], [⟨0, 0, .rw, 1⟩, ⟨31, 16, .rw, 0x400⟩]⟩,
  ⟨.tile, 0x18, [], [⟨15, 0, .rw, 0x10⟩]⟩,
  ⟨.tile, 0x20, [], [⟨31, 0, .rc, 0⟩]⟩,
  ⟨.tile, 0x24, [], [⟨24, 0, .ro, 0⟩, ⟨31, 31, .w1c, 0⟩]⟩,
  ⟨.tile, 0x28, [], [⟨2, 0, .ro, 0⟩, ⟨8, 3, .ro, 0⟩, ⟨31, 9, .ro, 0⟩]⟩,
  ⟨.tile, 0x40, [(4, 8)], [⟨5, 0, .rw, 0⟩, ⟨7, 7, .rw, 0⟩]⟩,
  ⟨.tile, 0x100, [(4, 32)], [⟨12, 0, .ro, 0⟩, ⟨29, 16, .ro, 0⟩, ⟨31, 31, .w1c, 0⟩]⟩,
  ⟨.tile, 0x200, [(4, 64)], [⟨23, 0, .rw, 0⟩]⟩,
  ⟨.tile, 0x300, [(4, 32)], [⟨7, 0, .rw, 0⟩]⟩,
  ⟨.tile, 0x400, [(4, 256)], [⟨12, 0, .rw, 0⟩, ⟨15, 15, .rw, 0⟩]⟩,
  ⟨.module, 0x124, [], [⟨7, 0, .ro, 0x10⟩, ⟨11, 8, .ro, 7⟩, ⟨15, 12, .ro, 4⟩, ⟨23, 16, .ro, 0x60⟩, ⟨31, 24, .ro, 0x68⟩]⟩,
  ⟨.partition, 0x800, [], [⟨0, 0, .rws, 1⟩]⟩,
  ⟨.partition, 0x804, [], [⟨0, 0, .w1c, 0⟩, ⟨1, 1, .w1c, 0⟩, ⟨2, 2, .w1c, 0⟩]⟩,
  ⟨.partition, 0x808, [], [⟨5, 0, .ro, 0⟩, ⟨7, 6, .ro, 0⟩, ⟨11, 8, .ro, 0⟩, ⟨12, 12, .ro, 0⟩, ⟨18, 13, .ro, 0⟩]⟩,
  ⟨.partition, 0x80c, [], [⟨31, 0, .ro, 0⟩]⟩,
  ⟨.partition, 0x810, [], [⟨31, 0, .rc, 0⟩]⟩,
  ⟨.partition, 0x814, [], [⟨31, 0, .rc, 0⟩]⟩,
  ⟨.partition, 0x818, [], [⟨31, 0, .rc, 0⟩]⟩,
  ⟨.partition, 0x900, [(4, 48)], [⟨31, 0, .rc, 0⟩]⟩,
  ⟨.module, 0x128, [], [⟨15, 0, .ro, 0x3f7f⟩, ⟨19, 16, .ro, 5⟩]⟩,
  ⟨.partition, 0xc00, [], [⟨0, 0, .rws, 0⟩, ⟨1, 1, .rws, 1⟩]⟩,
  ⟨.partition, 0xc04, [], [⟨19, 0, .rws, 0⟩]⟩,
  ⟨.partition, 0xc08, [], [⟨0, 0, .ro, 0⟩, ⟨1, 1, .ro, 0⟩, ⟨2, 2, .ro, 0⟩, ⟨3, 3, .ro, 0⟩]⟩,
  ⟨.partition, 0xc40, [(4, 48)], [⟨0, 0, .w1c, 0⟩, ⟨1, 1, .w1c, 0⟩, ⟨2, 2, .w1c, 0⟩, ⟨3, 3, .w1c, 0⟩]⟩,
  ⟨.partition, 0xd00, [(8, 48)], [⟨31, 0, .ro, 0⟩]⟩,
  ⟨.partition, 0xd04, [(8, 48)], [⟨31, 0, .ro, 0⟩]⟩,
  ⟨.partition, 0xe80, [(8, 48)], [⟨31, 0, .ro, 0⟩]⟩,
  ⟨.partition, 0xe84, [(8, 48)], [⟨31, 0, .ro, 0⟩]⟩,
  ⟨.module, 0x12c, [], [⟨3, 0, .ro, 8⟩, ⟨7, 4, .ro, 8⟩, ⟨15, 8, .ro, 0xe0⟩, ⟨19, 16, .ro, 4⟩, ⟨23, 20, .ro, 8⟩, ⟨27, 24, .ro, 1⟩]⟩,
  ⟨.partition, 0x1000, [], [⟨0, 0, .w1c, 0⟩, ⟨1, 1, .w1c, 0⟩]⟩,
  ⟨.partition, 0x1100, [(4, 48)], [⟨31, 0, .rc, 0⟩]⟩,
  ⟨.partition, 0x1200, [(4, 48)], [⟨31, 0, .rc, 0⟩]⟩,
  ⟨.partition, 0x1300, [(4, 48)], [⟨31, 0, .ro, 0⟩]⟩,
  ⟨.module, 0x130, [], [⟨3, 0, .ro, 0xc⟩, ⟨13, 4, .ro, 0x200⟩, ⟨16, 14, .ro, 4⟩, ⟨23, 17, .ro, 0x18⟩, ⟨31, 24, .ro, 0x60⟩]⟩]
/-- Rows of the register tables, part 3. -/
def regTable3 : List RegRow := [
  ⟨.module, 0x134, [], [⟨7, 0, .ro, 0x20⟩, ⟨15, 8, .ro, 0x10⟩, ⟨23, 16, .ro, 0x10⟩, ⟨27, 24, .ro, 8⟩, ⟨31, 28, .ro, 4⟩]⟩,
  ⟨.module, 0x138, [], [⟨7, 0, .ro, 0x40⟩, ⟨11, 8, .ro, 4⟩, ⟨15, 12, .ro, 2⟩]⟩,
  ⟨.partition, 0x0, [], [⟨0, 0, .wo, 0⟩]⟩,
  ⟨.partition, 0x4, [], [⟨0, 0, .ro, 0⟩, ⟨1, 1, .ro, 0⟩, ⟨2, 2, .ro, 0⟩, ⟨3, 3, .ro, 0⟩, ⟨4, 4, .w1c, 0⟩, ⟨10, 8, .ro, 0⟩, ⟨11, 11, .ro, 0⟩]⟩,
  ⟨.partition, 0x8, [], [⟨16, 0, .rw, 3⟩]⟩,
  ⟨.partition, 0xc, [], [⟨16, 0, .ro, 3⟩]⟩,
  ⟨.partition, 0x10, [], [⟨16, 0, .ro, 0⟩]⟩,
  ⟨.partition, 0x14, [], [⟨31, 0, .rc, 0⟩]⟩,
  ⟨.partition, 0x18, [], [⟨31, 0, .rc, 0⟩]⟩,
  ⟨.partition, 0x20, [], [⟨7, 0, .ro, 0⟩, ⟨9, 8, .ro, 0⟩, ⟨15, 10, .ro, 0⟩, ⟨19, 16, .ro, 0⟩, ⟨31, 31, .w1c, 0⟩]⟩,
  ⟨.partition, 0x24, [], [⟨16, 0, .ro, 0⟩, ⟨31, 31, .ro, 0⟩]⟩,
  ⟨.partition, 0x28, [], [⟨31, 0, .ro, 0⟩]⟩,
  ⟨.partition, 0x2c, [], [⟨31, 0, .ro, 0⟩]⟩,
  ⟨.partition, 0x30, [], [⟨15, 0, .ro, 0⟩]⟩,
  ⟨.partition, 0x34, [], [⟨15, 0, .ro, 0⟩]⟩,
  ⟨.partition, 0x38, [], [⟨31, 0, .rc, 0⟩]⟩,
  ⟨.partition, 0x40, [(4, 4)], [⟨31, 0, .ro, 0⟩]⟩,
  ⟨.partition, 0x50, [(4, 4)], [⟨16, 0, .ro, 0⟩, ⟨29, 17, .ro, 0⟩, ⟨31, 31, .ro, 0⟩]⟩,
  ⟨.partition, 0x60, [(4, 16)], [⟨31, 0, .rw, 0⟩]⟩,
  ⟨.partition, 0xa0, [(4, 4)], [⟨15, 0, .ro, 0⟩, ⟨31, 16, .ro, 0⟩]⟩,
  ⟨.partition, 0xc0, [(4, 12)], [⟨1, 0, .ro, 0⟩, ⟨2, 2, .ro, 0⟩, ⟨3, 3, .rws, 0⟩, ⟨6, 4, .ro, 0⟩, ⟨29, 16, .ro, 0⟩]⟩,
  ⟨.partition, 0x100, [], [⟨12, 0, .rw, 0⟩, ⟨31, 31, .rw, 0⟩]⟩,
  ⟨.partition, 0x104, [], [⟨31, 0, .rw, 0⟩]⟩,
  ⟨.partition, 0x108, [], [⟨31, 0, .rw, 0⟩]⟩,
  ⟨.partition, 0x200, [(8, 64)], [⟨16, 0, .rws, 0⟩, ⟨29, 17, .rws, 0⟩, ⟨31, 31, .rws, 0⟩]⟩,
  ⟨.partition, 0x204, [(8, 64)], [⟨7, 0, .rws, 0⟩]⟩,
  ⟨.partition, 0x1400, [(64, 32)], [⟨3, 0, .rw, 0⟩, ⟨5, 4, .rw, 0⟩, ⟨9, 6, .rw, 0⟩, ⟨11, 10, .rw, 0⟩, ⟨15, 12, .rw, 0⟩, ⟨16, 16, .rw, 0⟩]⟩,
  ⟨.partition, 0x1404, [(64, 32)], [⟨2, 0, .rw, 0⟩, ⟨12, 3, .rw, 0⟩, ⟨13, 13, .rw, 0⟩, ⟨14, 14, .rw, 0⟩, ⟨19, 15, .rw, 0⟩, ⟨20, 20, .rw, 0⟩, ⟨23, 21, .rw, 0⟩, ⟨28, 24, .rw, 0⟩]⟩,
  ⟨.partition, 0x1408, [(64, 32)], [⟨1, 0, .rw, 0⟩, ⟨5, 2, .rw, 0⟩, ⟨6, 6, .rw, 0⟩, ⟨10, 7, .rw, 0⟩, ⟨12, 11, .rw, 0⟩]⟩,
  ⟨.partition, 0x140c, [(64, 32), (4, 8)], [⟨4, 0, .rw, 0⟩, ⟨6, 5, .rw, 0⟩, ⟨11, 7, .rw, 0⟩, ⟨15, 12, .rw, 0⟩, ⟨17, 16, .rw, 0⟩, ⟨22, 18, .rw, 0⟩, ⟨26, 23, .rw, 0⟩]⟩,
  ⟨.module, 0x13c, [], [⟨7, 0, .ro, 0x20⟩, ⟨15, 8, .ro, 0x10⟩, ⟨23, 16, .ro, 8⟩, ⟨31, 24, .ro, 0x40⟩]⟩,
  ⟨.partition, 0x1c00, [], [⟨6, 0, .ro, 0⟩, ⟨8, 8, .w1c, 0⟩]⟩,
  ⟨.partition, 0x1c04, [], [⟨31, 0, .rc, 0⟩]⟩,
  ⟨.partition, 0x1c08, [], [⟨31, 0, .rc, 0⟩]⟩,
  ⟨.module, 0x140, [], [⟨3, 0, .ro, 4⟩, ⟨7, 4, .ro, 3⟩, ⟨15, 8, .ro, 0xe⟩, ⟨23, 16, .ro, 0x80⟩]⟩,
  ⟨.module, 0x144, [], [⟨4, 0, .ro, 0x10⟩, ⟨12, 5, .ro, 0x3c⟩, ⟨19, 13, .ro, 7⟩, ⟨23, 20, .ro, 3⟩, ⟨27, 24, .ro, 2⟩, ⟨31, 28, .ro, 8⟩]⟩,
  ⟨.module, 0x18100, [], [⟨3, 0, .ro, 0⟩, ⟨7, 4, .ro, 0⟩, ⟨8, 8, .ro, 0⟩]⟩,
  ⟨.module, 0x18104, [], [⟨3, 0, .rw, 0⟩, ⟨7, 4, .rw, 0⟩, ⟨8, 8, .rw, 0⟩]⟩,
  ⟨.module, 0x18108, [], [⟨31, 0, .rw, 0⟩]⟩,
  ⟨.module, 0x1810c, [], [⟨15, 0, .rw, 0⟩]⟩]
/-- Rows of the register tables, part 4. -/
def regTable4 : List RegRow := [
  ⟨.module, 0x18110, [], [⟨0, 0, .w1c, 0⟩, ⟨1, 1, .w1c, 0⟩, ⟨2, 2, .w1c, 0⟩, ⟨3, 3, .w1c, 0⟩, ⟨4, 4, .w1c, 0⟩]⟩,
  ⟨.module, 0x18114, [], [⟨15, 0, .ro, 0⟩]⟩,
  ⟨.module, 0x18118, [], [⟨7, 0, .rws, 0x28⟩, ⟨9, 8, .rws, 1⟩, ⟨23, 16, .rws, 0x10⟩]⟩,
  ⟨.module, 0x18120, [], [⟨0, 0, .rw, 0⟩]⟩,
  ⟨.module, 0x18124, [], [⟨1, 0, .ro, 2⟩, ⟨2, 2, .ro, 0⟩, ⟨3, 3, .w1c, 0⟩, ⟨4, 4, .w1c, 0⟩, ⟨5, 5, .ro, 0⟩, ⟨6, 6, .w1c, 0⟩, ⟨31, 16, .ro, 0⟩]⟩,
  ⟨.module, 0x18128, [], [⟨31, 0, .rw, 0x186a0⟩]⟩,
  ⟨.module, 0x1812c, [], [⟨31, 0, .ro, 0⟩]⟩,
  ⟨.module, 0x18130, [], [⟨31, 0, .rw, 0⟩]⟩,
  ⟨.module, 0x18134, [], [⟨31, 0, .rw, 0⟩]⟩,
  ⟨.module, 0x18138, [], [⟨31, 0, .rc, 0⟩]⟩,
  ⟨.module, 0x18140, [], [⟨0, 0, .ro, 0⟩, ⟨1, 1, .ro, 0⟩, ⟨31, 16, .ro, 0⟩]⟩,
  ⟨.module, 0x18144, [], [⟨15, 0, .rc, 0xffff⟩]⟩,
  ⟨.module, 0x18148, [], [⟨0, 0, .ro, 0⟩]⟩,
  ⟨.module, 0x20100, [], [⟨31, 0, .rc, 0⟩]⟩,
  ⟨.module, 0x20104, [], [⟨9, 0, .ro, 0⟩, ⟨31, 31, .w1c, 0⟩]⟩,
  ⟨.module, 0x148, [], [⟨5, 0, .ro, 0x20⟩, ⟨9, 6, .ro, 8⟩, ⟨13, 10, .ro, 8⟩, ⟨20, 14, .ro, 0x40⟩, ⟨24, 21, .ro, 0xc⟩, ⟨28, 25, .ro, 1⟩]⟩,
  ⟨.module, 0x100000, [(256, 32)], [⟨0, 0, .rw, 1⟩, ⟨2, 1, .rw, 0⟩, ⟨3, 3, .wo, 0⟩]⟩,
  ⟨.module, 0x100004, [(256, 32)], [⟨2, 0, .ro, 0⟩, ⟨4, 3, .ro, 0⟩, ⟨12, 5, .ro, 0⟩, ⟨13, 13, .w1c, 0⟩, ⟨14, 14, .w1c, 0⟩, ⟨15, 15, .ro, 0⟩]⟩,
  ⟨.module, 0x100008, [(256, 32)], [⟨15, 0, .ro, 0⟩]⟩,
  ⟨.module, 0x10000c, [(256, 32)], [⟨3, 0, .rw, 8⟩]⟩,
  ⟨.module, 0x100010, [(256, 32)], [⟨31, 0, .rw, 0x100000⟩]⟩,
  ⟨.module, 0x100014, [(256, 32)], [⟨31, 0, .rc, 0⟩]⟩,
  ⟨.module, 0x100018, [(256, 32)], [⟨31, 0, .rc, 0⟩]⟩,
  ⟨.module, 0x10001c, [(256, 32)], [⟨31, 0, .rc, 0⟩]⟩,
  ⟨.module, 0x100020, [(256, 32)], [⟨31, 0, .rc, 0⟩]⟩,
  ⟨.module, 0x100024, [(256, 32)], [⟨31, 0, .rc, 0⟩]⟩,
  ⟨.module, 0x100028, [(256, 32)], [⟨31, 0, .rc, 0⟩]⟩,
  ⟨.module, 0x102000, [], [⟨4, 0, .rw, 0x10⟩, ⟨8, 8, .wo, 0⟩]⟩,
  ⟨.module, 0x102004, [], [⟨0, 0, .w1c, 0⟩, ⟨1, 1, .w1c, 0⟩, ⟨2, 2, .w1c, 0⟩, ⟨3, 3, .w1c, 0⟩, ⟨4, 4, .w1c, 0⟩]⟩,
  ⟨.module, 0x102008, [], [⟨4, 0, .ro, 0⟩, ⟨16, 5, .ro, 0⟩, ⟨17, 17, .ro, 0⟩, ⟨31, 31, .w1c, 0⟩]⟩,
  ⟨.module, 0x10200c, [], [⟨13, 0, .ro, 0x2000⟩, ⟨29, 16, .ro, 0⟩]⟩,
  ⟨.module, 0x120000, [(8, 4096)], [⟨4, 0, .rw, 0⟩, ⟨5, 5, .rw, 0⟩, ⟨6, 6, .ro, 0⟩]⟩,
  ⟨.module, 0x120004, [(8, 4096)], [⟨31, 0, .rw, 0⟩]⟩,
  ⟨.module, 0x130000, [(8, 4096)], [⟨31, 0, .rw, 0⟩]⟩,
  ⟨.module, 0x130004, [(8, 4096)], [⟨9, 0, .rw, 0⟩, ⟨10, 10, .rw, 0⟩, ⟨11, 11, .rw, 0⟩, ⟨31, 31, .rw, 0⟩]⟩,
  ⟨.module, 0x140000, [(4, 4096)], [⟨2, 0, .rw, 1⟩, ⟨6, 4, .rw, 1⟩]⟩,
  ⟨.module, 0x150000, [(4, 4096)], [⟨2, 0, .ro, 0⟩, ⟨6, 4, .ro, 0⟩]⟩,
  ⟨.module, 0x103000, [], [⟨11, 0, .rw, 0⟩, ⟨19, 12, .ro, 2⟩]⟩,
  ⟨.module, 0x103004, [], [⟨15, 0, .rw, 0⟩, ⟨31, 16, .rw, 0⟩]⟩,
  ⟨.module, 0x103008, [], [⟨0, 0, .wo, 0⟩, ⟨15, 8, .rw, 1⟩, ⟨23, 16, .rw, 2⟩]⟩]
/-- Rows of the register tables, part 5. -/
def regTable5 : List RegRow := [
  ⟨.module, 0x10300c, [], [⟨0, 0, .ro, 0⟩, ⟨1, 1, .w1c, 0⟩, ⟨2, 2, .w1c, 0⟩, ⟨3, 3, .w1c, 0⟩]⟩,
  ⟨.module, 0x103010, [], [⟨11, 0, .rw, 0⟩]⟩,
  ⟨.module, 0x103014, [], [⟨31, 0, .rw, 0x7a120⟩]⟩,
  ⟨.module, 0x110000, [(64, 32)], [⟨11, 0, .rw, 0⟩, ⟨16, 12, .rw, 0⟩, ⟨19, 17, .rw, 0⟩, ⟨23, 20, .rw, 0⟩, ⟨25, 24, .rw, 0⟩, ⟨30, 26, .rw, 0⟩]⟩,
  ⟨.module, 0x110004, [(64, 32)], [⟨15, 0, .rw, 0x4e2⟩]⟩,
  ⟨.module, 0x110008, [(64, 32)], [⟨11, 0, .ro, 0⟩, ⟨16, 12, .ro, 0⟩, ⟨19, 17, .ro, 0⟩, ⟨23, 20, .ro, 0⟩, ⟨31, 24, .ro, 0⟩]⟩,
  ⟨.module, 0x11000c, [(64, 32)], [⟨15, 0, .ro, 0⟩, ⟨31, 16, .ro, 0⟩]⟩,
  ⟨.module, 0x110010, [(64, 32)], [⟨1, 0, .ro, 0⟩, ⟨3, 2, .ro, 0⟩, ⟨8, 4, .ro, 0⟩, ⟨9, 9, .ro, 0⟩, ⟨23, 16, .ro, 0⟩, ⟨31, 31, .ro, 0⟩]⟩,
  ⟨.module, 0x110014, [(64, 32)], [⟨31, 0, .ro, 0⟩]⟩,
  ⟨.module, 0x110018, [(64, 32)], [⟨31, 0, .ro, 0⟩]⟩,
  ⟨.partition, 0x8000, [(64, 256)], [⟨2, 0, .ro, 0⟩, ⟨3, 3, .ro, 0⟩, ⟨4, 4, .ro, 0⟩, ⟨5, 5, .w1c, 0⟩, ⟨6, 6, .w1c, 0⟩, ⟨12, 8, .ro, 0⟩, ⟨31, 16, .ro, 0⟩]⟩,
  ⟨.partition, 0x8004, [(64, 256)], [⟨31, 0, .ro, 0⟩]⟩,
  ⟨.partition, 0x8008, [(64, 256)], [⟨17, 0, .rw, 0⟩, ⟨18, 18, .rw, 0⟩, ⟨19, 19, .rw, 1⟩, ⟨20, 20, .rw, 0⟩, ⟨22, 21, .rw, 0⟩, ⟨23, 23, .rw, 0⟩, ⟨24, 24, .rw, 0⟩]⟩,
  ⟨.partition, 0x800c, [(64, 256)], [⟨11, 0, .rw, 0⟩, ⟨19, 12, .rw, 0⟩, ⟨23, 20, .rw, 0⟩, ⟨24, 24, .rw, 0⟩]⟩,
  ⟨.partition, 0x8010, [(64, 256)], [⟨31, 0, .rw, 0⟩]⟩,
  ⟨.partition, 0x8014, [(64, 256)], [⟨31, 0, .rw, 0⟩]⟩,
  ⟨.partition, 0x8018, [(64, 256)], [⟨31, 0, .rw, 0x3f800000⟩]⟩,
  ⟨.partition, 0x801c, [(64, 256)], [⟨31, 0, .rw, 0x3f800000⟩]⟩,
  ⟨.partition, 0x8020, [(64, 256)], [⟨31, 0, .rw, 0⟩]⟩,
  ⟨.partition, 0x8024, [(64, 256)], [⟨31, 0, .rw, 0⟩]⟩,
  ⟨.partition, 0x8028, [(64, 256)], [⟨10, 0, .rw, 0⟩, ⟨31, 16, .rw, 0⟩]⟩,
  ⟨.partition, 0x802c, [(64, 256)], [⟨17, 0, .rw, 0⟩, ⟨31, 31, .rw, 0⟩]⟩,
  ⟨.partition, 0x8030, [(64, 256)], [⟨31, 0, .rw, 0⟩]⟩,
  ⟨.partition, 0x8034, [(64, 256)], [⟨17, 0, .rw, 0⟩]⟩,
  ⟨.partition, 0x8038, [(64, 256)], [⟨17, 0, .rw, 0⟩]⟩,
  ⟨.partition, 0x803c, [(64, 256)], [⟨31, 0, .rw, 0⟩]⟩,
  ⟨.doorbell, 0x0, [], [⟨7, 0, .wo, 0⟩, ⟨15, 8, .wo, 0⟩, ⟨31, 16, .wo, 0⟩]⟩,
  ⟨.doorbell, 0x4, [], [⟨31, 0, .wo, 0⟩]⟩,
  ⟨.doorbell, 0x8, [], [⟨31, 0, .wo, 0⟩]⟩,
  ⟨.doorbell, 0xc, [], [⟨15, 0, .wo, 0⟩, ⟨16, 16, .wo, 0⟩, ⟨31, 17, .wo, 0⟩]⟩,
  ⟨.doorbell, 0x10, [], [⟨7, 0, .wo, 0⟩, ⟨15, 8, .wo, 0⟩, ⟨31, 16, .wo, 0⟩]⟩,
  ⟨.doorbell, 0x14, [], [⟨6, 0, .ro, 0x40⟩]⟩,
  ⟨.doorbell, 0x20, [(4, 4)], [⟨15, 0, .wo, 0⟩, ⟨31, 16, .wo, 0⟩]⟩,
  ⟨.module, 0x14c, [], [⟨8, 0, .ro, 0x100⟩, ⟨13, 9, .ro, 0x10⟩, ⟨17, 14, .ro, 4⟩, ⟨27, 18, .ro, 0x200⟩, ⟨31, 28, .ro, 4⟩]⟩,
  ⟨.module, 0x150, [], [⟨17, 0, .ro, 0x3ffff⟩, ⟨21, 18, .ro, 0xc⟩, ⟨26, 22, .ro, 0x10⟩]⟩,
  ⟨.partition, 0x2000, [], [⟨1, 0, .rw, 0⟩]⟩,
  ⟨.partition, 0x2004, [], [⟨0, 0, .w1c, 0⟩, ⟨1, 1, .w1c, 0⟩, ⟨2, 2, .w1c, 0⟩, ⟨3, 3, .w1c, 0⟩]⟩,
  ⟨.partition, 0x2008, [], [⟨24, 0, .rws, 0⟩]⟩,
  ⟨.partition, 0x200c, [], [⟨9, 0, .rws, 0⟩, ⟨13, 10, .rws, 6⟩, ⟨23, 16, .rws, 0⟩]⟩,
  ⟨.partition, 0x2010, [], [⟨24, 0, .rws, 0⟩]⟩]
/-- Rows of the register tables, part 6. -/
def regTable6 : List RegRow := [
  ⟨.partition, 0x2014, [], [⟨24, 0, .rws, 0⟩]⟩,
  ⟨.partition, 0x2018, [], [⟨5, 0, .rws, 0⟩]⟩,
  ⟨.partition, 0x201c, [], [⟨9, 0, .ro, 0⟩]⟩,
  ⟨.partition, 0x2020, [], [⟨31, 0, .rc, 0⟩]⟩,
  ⟨.partition, 0x2024, [], [⟨31, 0, .rc, 0⟩]⟩,
  ⟨.partition, 0x2040, [(32, 4)], [⟨31, 0, .rw, 0⟩]⟩,
  ⟨.partition, 0x2044, [(32, 4)], [⟨31, 0, .rw, 0⟩]⟩,
  ⟨.partition, 0x2048, [(32, 4)], [⟨3, 0, .rw, 6⟩]⟩,
  ⟨.partition, 0x204c, [(32, 4)], [⟨15, 0, .ro, 0⟩]⟩,
  ⟨.partition, 0x2050, [(32, 4)], [⟨15, 0, .ro, 0⟩]⟩,
  ⟨.partition, 0x2054, [(32, 4)], [⟨31, 0, .rc, 0⟩]⟩,
  ⟨.module, 0x30000, [], [⟨0, 0, .rw, 0⟩]⟩,
  ⟨.module, 0x30004, [], [⟨16, 0, .ro, 0⟩]⟩,
  ⟨.module, 0x30008, [], [⟨31, 0, .ro, 0⟩]⟩,
  ⟨.module, 0x3000c, [], [⟨31, 0, .rc, 0⟩]⟩,
  ⟨.module, 0x154, [], [⟨5, 0, .ro, 0x20⟩, ⟨8, 6, .ro, 4⟩, ⟨15, 9, .ro, 0x40⟩, ⟨23, 16, .ro, 0x3c⟩, ⟨31, 24, .ro, 0x20⟩]⟩,
  ⟨.module, 0x158, [], [⟨7, 0, .ro, 0x28⟩, ⟨17, 8, .ro, 0x186⟩, ⟨25, 18, .ro, 0x10⟩]⟩,
  ⟨.module, 0x40000, [], [⟨0, 0, .rw, 1⟩]⟩,
  ⟨.module, 0x40004, [], [⟨3, 0, .ro, 0⟩, ⟨4, 4, .w1c, 0⟩, ⟨5, 5, .w1c, 0⟩, ⟨6, 6, .ro, 0⟩, ⟨7, 7, .w1c, 0⟩]⟩,
  ⟨.module, 0x40010, [(8, 3)], [⟨24, 0, .rws, 0⟩]⟩,
  ⟨.module, 0x40014, [(8, 3)], [⟨24, 0, .rws, 0⟩]⟩,
  ⟨.module, 0x40030, [], [⟨31, 0, .rc, 0⟩]⟩,
  ⟨.module, 0x40034, [], [⟨31, 0, .rc, 0⟩]⟩,
  ⟨.module, 0x40038, [], [⟨31, 0, .ro, 0⟩]⟩,
  ⟨.module, 0x4003c, [], [⟨4, 0, .ro, 0⟩, ⟨7, 5, .ro, 0⟩, ⟨31, 31, .w1c, 0⟩]⟩,
  ⟨.module, 0x40040, [], [⟨6, 0, .ro, 0⟩]⟩,
  ⟨.module, 0x40100, [(4, 32)], [⟨1, 0, .ro, 0⟩, ⟨15, 8, .ro, 0⟩]⟩,
  ⟨.module, 0x40200, [], [⟨0, 0, .wo, 0⟩, ⟨2, 1, .wo, 0⟩, ⟨31, 8, .wo, 0⟩]⟩,
  ⟨.module, 0x40204, [], [⟨31, 0, .wo, 0⟩]⟩,
  ⟨.module, 0x40208, [], [⟨31, 0, .wo, 0⟩]⟩,
  ⟨.module, 0x4020c, [], [⟨31, 0, .wo, 0⟩]⟩,
  ⟨.module, 0x40210, [], [⟨31, 0, .wo, 0⟩]⟩,
  ⟨.module, 0x40214, [], [⟨31, 0, .wo, 0⟩]⟩,
  ⟨.module, 0x40218, [], [⟨31, 0, .wo, 0⟩]⟩,
  ⟨.module, 0x4021c, [], [⟨15, 0, .wo, 0⟩]⟩,
  ⟨.module, 0x40220, [], [⟨6, 0, .ro, 0x40⟩]⟩,
  ⟨.module, 0x40224, [], [⟨15, 0, .rc, 0⟩, ⟨17, 16, .rc, 0⟩, ⟨30, 18, .rc, 0⟩, ⟨31, 31, .rc, 0⟩]⟩,
  ⟨.module, 0x40400, [(32, 16)], [⟨0, 0, .rw, 0⟩, ⟨2, 1, .rw, 0⟩, ⟨3, 3, .rw, 0⟩, ⟨15, 4, .rw, 0⟩, ⟨19, 16, .rw, 0⟩]⟩,
  ⟨.module, 0x40404, [(32, 16)], [⟨31, 0, .rw, 0⟩]⟩,
  ⟨.module, 0x40408, [(32, 16)], [⟨9, 0, .rw, 0⟩, ⟨15, 10, .rw, 0⟩]⟩]
/-- Rows of the register tables, part 7. -/
def regTable7 : List RegRow := [
  ⟨.module, 0x4040c, [(32, 16)], [⟨24, 0, .rw, 0⟩]⟩,
  ⟨.module, 0x40410, [(32, 16)], [⟨24, 0, .ro, 0⟩]⟩,
  ⟨.module, 0x40414, [(32, 16)], [⟨0, 0, .w1c, 0⟩, ⟨1, 1, .w1c, 0⟩]⟩,
  ⟨.partition, 0x1e00, [], [⟨24, 0, .rws, 0⟩]⟩,
  ⟨.partition, 0x1e04, [], [⟨24, 0, .rws, 0⟩]⟩,
  ⟨.partition, 0x1e08, [], [⟨24, 0, .rws, 0⟩]⟩,
  ⟨.partition, 0x1e0c, [], [⟨24, 0, .rws, 0⟩]⟩,
  ⟨.partition, 0x1e10, [], [⟨7, 0, .rws, 0⟩]⟩,
  ⟨.partition, 0x1e14, [], [⟨31, 0, .rw, 0⟩]⟩,
  ⟨.partition, 0x1e18, [], [⟨0, 0, .wo, 0⟩]⟩,
  ⟨.partition, 0x1e1c, [], [⟨0, 0, .ro, 0⟩, ⟨1, 1, .w1c, 0⟩, ⟨2, 2, .w1c, 0⟩, ⟨3, 3, .w1c, 0⟩, ⟨4, 4, .w1c, 0⟩]⟩,
  ⟨.partition, 0x1e20, [], [⟨31, 0, .ro, 0⟩]⟩,
  ⟨.partition, 0x1e24, [], [⟨31, 0, .rc, 0⟩]⟩,
  ⟨.module, 0x100, [], [⟨7, 0, .ro, 0x47⟩, ⟨15, 8, .ro, 0⟩, ⟨23, 16, .ro, 0x10⟩, ⟨24, 24, .ro, 0⟩]⟩,
  ⟨.module, 0x104, [], [⟨11, 0, .ro, 0⟩, ⟨27, 16, .ro, 0⟩]⟩,
  ⟨.module, 0x108, [], [⟨31, 0, .ro, 0⟩]⟩,
  ⟨.module, 0x10c, [], [⟨31, 0, .ro, 0⟩]⟩,
  ⟨.module, 0x80000, [], [⟨3, 0, .ro, 0⟩, ⟨4, 4, .ro, 0⟩, ⟨5, 5, .ro, 0⟩, ⟨6, 6, .w1c, 0⟩, ⟨7, 7, .ro, 0⟩, ⟨15, 8, .ro, 0⟩]⟩,
  ⟨.module, 0x80004, [], [⟨0, 0, .wo, 0⟩, ⟨1, 1, .wo, 0⟩, ⟨2, 2, .wo, 0⟩, ⟨7, 3, .wo, 0⟩, ⟨15, 8, .wo, 0⟩, ⟨31, 16, .wo, 0⟩]⟩,
  ⟨.module, 0x80008, [], [⟨1, 0, .rw, 0⟩]⟩,
  ⟨.module, 0x8000c, [], [⟨3, 0, .ro, 0⟩, ⟨23, 16, .ro, 0⟩]⟩,
  ⟨.module, 0x80010, [], [⟨0, 0, .ro, 0⟩, ⟨27, 16, .ro, 0⟩]⟩,
  ⟨.module, 0x80014, [], [⟨31, 0, .ro, 0⟩]⟩,
  ⟨.module, 0x80018, [], [⟨5, 0, .ro, 0⟩, ⟨13, 8, .ro, 0⟩, ⟨21, 16, .ro, 0⟩]⟩,
  ⟨.module, 0x80020, [(4, 12)], [⟨31, 0, .ro, 0⟩]⟩,
  ⟨.module, 0x80100, [(4, 8)], [⟨0, 0, .rw, 0⟩, ⟨20, 2, .rw, 0⟩, ⟨31, 31, .rw, 0⟩]⟩,
  ⟨.module, 0x80120, [], [⟨31, 0, .rc, 0⟩]⟩,
  ⟨.partition, 0x1f80, [], [⟨0, 0, .ro, 0⟩, ⟨1, 1, .ro, 0⟩, ⟨2, 2, .ro, 0⟩, ⟨3, 3, .ro, 0⟩, ⟨27, 16, .ro, 0⟩]⟩,
  ⟨.partition, 0x1f84, [], [⟨31, 0, .rc, 0⟩]⟩,
  ⟨.partition, 0x1f88, [], [⟨31, 0, .rc, 0⟩]⟩,
  ⟨.partition, 0x1f90, [(4, 8)], [⟨11, 0, .rws, 0⟩, ⟨23, 12, .rws, 0⟩, ⟨24, 24, .rws, 0⟩, ⟨31, 31, .rws, 0⟩]⟩,
  ⟨.partition, 0x1fc0, [(4, 2)], [⟨0, 0, .rw, 0⟩, ⟨20, 2, .rw, 0⟩, ⟨31, 31, .rw, 0⟩]⟩,
  ⟨.module, 0x50000, [], [⟨0, 0, .rw, 1⟩]⟩,
  ⟨.module, 0x50004, [], [⟨12, 0, .rw, 0xfa0⟩]⟩,
  ⟨.module, 0x50008, [], [⟨8, 0, .rw, 0x190⟩]⟩,
  ⟨.module, 0x5000c, [], [⟨12, 0, .ro, 0x1068⟩, ⟨21, 13, .ro, 0x190⟩, ⟨25, 22, .ro, 0xf⟩]⟩,
  ⟨.module, 0x50010, [], [⟨0, 0, .ro, 0⟩, ⟨1, 1, .ro, 0⟩, ⟨2, 2, .w1c, 0⟩, ⟨3, 3, .w1c, 0⟩, ⟨4, 4, .w1c, 0⟩, ⟨5, 5, .w1c, 0⟩, ⟨6, 6, .w1c, 0⟩]⟩,
  ⟨.module, 0x50014, [], [⟨15, 0, .ro, 0⟩]⟩,
  ⟨.module, 0x50018, [], [⟨12, 0, .ro, 0⟩]⟩,
  ⟨.module, 0x5001c, [], [⟨12, 0, .ro, 0⟩]⟩]
/-- Rows of the register tables, part 8. -/
def regTable8 : List RegRow := [
  ⟨.module, 0x50020, [], [⟨3, 0, .ro, 0⟩]⟩,
  ⟨.module, 0x50024, [], [⟨12, 0, .rws, 0x3e8⟩]⟩,
  ⟨.module, 0x50028, [], [⟨15, 0, .rw, 0x32⟩]⟩,
  ⟨.module, 0x5002c, [], [⟨31, 0, .rc, 0⟩]⟩,
  ⟨.module, 0x50030, [], [⟨31, 0, .rc, 0⟩]⟩,
  ⟨.module, 0x50040, [], [⟨8, 0, .rws, 0x5d⟩]⟩,
  ⟨.module, 0x50044, [], [⟨8, 0, .rws, 0x67⟩]⟩,
  ⟨.module, 0x50048, [], [⟨8, 0, .rws, 0x72⟩]⟩,
  ⟨.module, 0x5004c, [], [⟨8, 0, .rws, 0x7d⟩]⟩,
  ⟨.module, 0x50050, [], [⟨8, 0, .rws, 0x88⟩]⟩,
  ⟨.module, 0x50054, [], [⟨8, 0, .rws, 0x93⟩]⟩,
  ⟨.module, 0x50058, [], [⟨8, 0, .rws, 0x9e⟩]⟩,
  ⟨.module, 0x5005c, [], [⟨8, 0, .rws, 0xa9⟩]⟩,
  ⟨.module, 0x50060, [], [⟨8, 0, .rws, 0xb3⟩]⟩,
  ⟨.module, 0x50064, [], [⟨8, 0, .rws, 0xbe⟩]⟩,
  ⟨.module, 0x50068, [], [⟨8, 0, .rws, 0xc9⟩]⟩,
  ⟨.module, 0x5006c, [], [⟨8, 0, .rws, 0xd4⟩]⟩,
  ⟨.module, 0x50070, [], [⟨8, 0, .rws, 0xdf⟩]⟩,
  ⟨.module, 0x50074, [], [⟨8, 0, .rws, 0xea⟩]⟩,
  ⟨.module, 0x50078, [], [⟨8, 0, .rws, 0xf5⟩]⟩,
  ⟨.module, 0x5007c, [], [⟨8, 0, .rws, 0x100⟩]⟩,
  ⟨.module, 0x50080, [(4, 12)], [⟨12, 0, .ro, 0⟩]⟩,
  ⟨.module, 0x60000, [], [⟨15, 0, .ro, 0⟩]⟩,
  ⟨.module, 0x60004, [], [⟨15, 0, .ro, 0⟩]⟩,
  ⟨.module, 0x60008, [], [⟨12, 0, .ro, 0⟩, ⟨28, 16, .ro, 0⟩]⟩,
  ⟨.module, 0x6000c, [], [⟨31, 0, .ro, 0⟩]⟩,
  ⟨.module, 0x60010, [], [⟨31, 0, .ro, 0⟩]⟩,
  ⟨.module, 0x60014, [], [⟨12, 0, .rc, 0⟩]⟩,
  ⟨.module, 0x60018, [], [⟨31, 0, .ro, 0⟩]⟩,
  ⟨.module, 0x6001c, [], [⟨31, 0, .ro, 0⟩]⟩,
  ⟨.module, 0x60020, [], [⟨31, 0, .w1c, 0⟩]⟩,
  ⟨.module, 0x60100, [(4, 96)], [⟨11, 0, .ro, 0⟩]⟩,
  ⟨.module, 0x60300, [], [⟨7, 0, .rw, 0x64⟩, ⟨15, 8, .ro, 0x73⟩]⟩,
  ⟨.module, 0x61000, [(8, 576)], [⟨31, 0, .rc, 0⟩]⟩,
  ⟨.module, 0x61004, [(8, 576)], [⟨31, 0, .rc, 0⟩]⟩,
  ⟨.module, 0x70000, [], [⟨0, 0, .w1c, 0⟩, ⟨1, 1, .w1c, 0⟩]⟩,
  ⟨.module, 0x70004, [], [⟨31, 0, .rws, 0⟩]⟩,
  ⟨.module, 0x70008, [], [⟨31, 0, .rc, 0⟩]⟩,
  ⟨.module, 0x7000c, [], [⟨31, 0, .rc, 0⟩]⟩,
  ⟨.module, 0x78000, [(64, 512), (4, 16)], [⟨31, 0, .ro, 0⟩]⟩]
/-- Rows of the register tables, part 9. -/
def regTable9 : List RegRow := [
  ⟨.module, 0x70100, [], [⟨0, 0, .ro, 0⟩, ⟨1, 1, .rws, 0⟩, ⟨2, 2, .rw, 0⟩, ⟨3, 3, .rw, 0⟩]⟩,
  ⟨.module, 0x70110, [(4, 4)], [⟨31, 0, .rc, 0⟩]⟩,
  ⟨.module, 0x70200, [], [⟨1, 0, .rw, 0⟩, ⟨2, 2, .rw, 0⟩, ⟨3, 3, .rw, 0⟩, ⟨4, 4, .rw, 0⟩, ⟨27, 16, .rw, 0⟩]⟩,
  ⟨.module, 0x70204, [], [⟨11, 0, .rw, 0⟩, ⟨23, 12, .rw, 0⟩]⟩,
  ⟨.module, 0x70208, [], [⟨0, 0, .ro, 0⟩, ⟨1, 1, .w1c, 0⟩, ⟨2, 2, .w1c, 0⟩, ⟨3, 3, .w1c, 0⟩]⟩,
  ⟨.module, 0x7020c, [], [⟨31, 0, .rw, 0⟩]⟩,
  ⟨.module, 0x70210, [], [⟨15, 0, .rw, 0⟩]⟩,
  ⟨.module, 0x70214, [], [⟨31, 0, .ro, 0⟩]⟩,
  ⟨.module, 0x70218, [], [⟨2, 0, .ro, 0⟩]⟩,
  ⟨.module, 0x7021c, [], [⟨31, 0, .rc, 0⟩]⟩,
  ⟨.module, 0x70220, [], [⟨31, 0, .rw, 0⟩]⟩,
  ⟨.module, 0x70224, [], [⟨31, 0, .rw, 0⟩]⟩,
  ⟨.module, 0x70228, [], [⟨31, 0, .rw, 0⟩]⟩,
  ⟨.module, 0x7022c, [], [⟨15, 0, .rw, 0⟩]⟩,
  ⟨.module, 0x70230, [], [⟨7, 0, .rw, 0⟩, ⟨8, 8, .rw, 0⟩]⟩,
  ⟨.module, 0x70234, [], [⟨31, 0, .rc, 0⟩]⟩,
  ⟨.module, 0x200000, [(4096, 2)], [⟨0, 0, .rw, 0⟩, ⟨2, 1, .rw, 0⟩, ⟨3, 3, .rw, 0⟩, ⟨6, 4, .rw, 3⟩, ⟨20, 7, .rw, 0x2400⟩, ⟨31, 21, .rw, 0x64⟩]⟩,
  ⟨.module, 0x200004, [(4096, 2)], [⟨0, 0, .ro, 0⟩, ⟨2, 1, .ro, 0⟩, ⟨3, 3, .w1c, 0⟩]⟩,
  ⟨.module, 0x200008, [(4096, 2)], [⟨31, 0, .rw, 0⟩]⟩,
  ⟨.module, 0x20000c, [(4096, 2)], [⟨15, 0, .rw, 0⟩]⟩,
  ⟨.module, 0x200010, [(4096, 2)], [⟨31, 0, .rw, 0⟩]⟩,
  ⟨.module, 0x200014, [(4096, 2), (4, 4)], [⟨31, 0, .rw, 0⟩]⟩,
  ⟨.module, 0x200040, [(4096, 2)], [⟨31, 0, .rc, 0⟩]⟩,
  ⟨.module, 0x200044, [(4096, 2)], [⟨31, 0, .rc, 0⟩]⟩,
  ⟨.module, 0x200048, [(4096, 2)], [⟨31, 0, .rc, 0⟩]⟩,
  ⟨.module, 0x20004c, [(4096, 2)], [⟨31, 0, .rc, 0⟩]⟩,
  ⟨.module, 0x200050, [(4096, 2)], [⟨31, 0, .ro, 0⟩]⟩,
  ⟨.module, 0x200054, [(4096, 2)], [⟨31, 0, .ro, 0⟩]⟩,
  ⟨.module, 0x200058, [(4096, 2)], [⟨15, 0, .ro, 0⟩, ⟨16, 16, .ro, 0⟩, ⟨31, 31, .ro, 0⟩]⟩,
  ⟨.module, 0x204000, [(32, 256)], [⟨31, 0, .rw, 0⟩]⟩,
  ⟨.module, 0x204004, [(32, 256)], [⟨15, 0, .rw, 0⟩, ⟨31, 31, .rw, 0⟩]⟩,
  ⟨.module, 0x204008, [(32, 256)], [⟨31, 0, .rw, 0⟩]⟩,
  ⟨.module, 0x20400c, [(32, 256)], [⟨31, 0, .rw, 0⟩]⟩,
  ⟨.module, 0x204010, [(32, 256)], [⟨31, 0, .rw, 0⟩]⟩,
  ⟨.module, 0x204014, [(32, 256)], [⟨31, 0, .rw, 0⟩]⟩,
  ⟨.module, 0x20c000, [(32, 256)], [⟨0, 0, .rw, 0⟩, ⟨4, 1, .rw, 0⟩, ⟨14, 5, .rw, 0⟩, ⟨20, 15, .rw, 0⟩, ⟨21, 21, .rw, 0⟩]⟩,
  ⟨.module, 0x20c004, [(32, 256)], [⟨24, 0, .rw, 0⟩]⟩,
  ⟨.module, 0x20c008, [(32, 256)], [⟨22, 0, .rw, 0⟩]⟩,
  ⟨.module, 0x20c00c, [(32, 256)], [⟨31, 0, .rw, 0⟩]⟩,
  ⟨.module, 0x210000, [(8, 4096)], [⟨15, 0, .rw, 0⟩, ⟨23, 16, .rw, 0⟩, ⟨29, 24, .rw, 0⟩, ⟨30, 30, .rw, 0⟩, ⟨31, 31, .rw, 0⟩]⟩]
/-- Rows of the register tables, part 10. -/
def regTable10 : List RegRow := [
  ⟨.module, 0x210004, [(8, 4096)], [⟨15, 0, .rw, 0⟩]⟩,
  ⟨.module, 0x220000, [], [⟨2, 0, .ro, 0⟩, ⟨7, 3, .ro, 0⟩, ⟨8, 8, .ro, 0⟩]⟩,
  ⟨.module, 0x220004, [], [⟨31, 0, .rc, 0⟩]⟩,
  ⟨.module, 0x220008, [], [⟨2, 0, .ro, 0⟩, ⟨15, 8, .ro, 0⟩]⟩,
  ⟨.module, 0x81000, [(4, 1024)], [⟨31, 0, .rw, 0⟩]⟩,
  ⟨.module, 0x82000, [(4, 1024)], [⟨31, 0, .ro, 0⟩]⟩,
  ⟨.module, 0x83000, [], [⟨0, 0, .wo, 0⟩]⟩,
  ⟨.module, 0x83004, [], [⟨0, 0, .ro, 0⟩, ⟨1, 1, .w1c, 0⟩, ⟨2, 2, .w1c, 0⟩, ⟨3, 3, .w1c, 0⟩]⟩,
  ⟨.partition, 0x10000, [(4, 1024)], [⟨31, 0, .rw, 0⟩]⟩,
  ⟨.partition, 0x11000, [(4, 1024)], [⟨31, 0, .ro, 0⟩]⟩,
  ⟨.partition, 0x12000, [], [⟨0, 0, .wo, 0⟩]⟩,
  ⟨.partition, 0x12004, [], [⟨0, 0, .ro, 0⟩, ⟨1, 1, .w1c, 0⟩, ⟨2, 2, .w1c, 0⟩, ⟨3, 3, .w1c, 0⟩]⟩]

/-- All rows of the register tables. -/
def regTable : List RegRow :=
  regTable1 ++ regTable2 ++ regTable3 ++ regTable4 ++ regTable5 ++ regTable6 ++ regTable7 ++ regTable8 ++ regTable9 ++ regTable10

end Sys2Proof.Machine
end

