-- ==== Sys2Proof/Config.lean ====
section
/-! DEFINITION. What the spec leaves open and the model does not choose: bodyless constants that no proof can evaluate,
and the fixed numbers of stepping B0. -/

namespace Sys2Proof

/-- The value of a count after it would pass its largest value: the spec gives counts a width and no rule for their
overflow (log entry 12). The argument is the register address. -/
opaque Config.countOverflow : Nat → Nat

/-- The granules of a TRACE entry, whose packing the spec does not give (R512, log entry 14): entry number, byte index. -/
opaque Config.traceByte : Nat → Nat → Byte

/-- Free value for a result whose value the spec leaves open: the model's counter of free values used so far,
log entry 15. -/
opaque Config.freeValue : Nat → Nat

/-- The FP32 quotient of a logit by a repetition penalty of zero, which has no exact value (R386, log entry 42). -/
opaque Config.quotientByZero : Word → Word

/-- How far a slew has come after a number of glacier counts, in 1/16 count: R316 bounds its speed and gives no value (log
entry 102). -/
opaque Config.slewDone : Nat → Nat

/-- The rate of a queue pair after a congestion notification, which reduces it, by the rate before (R529, log entry 123). -/
opaque Config.cnpRate : Nat → Nat

/-- Whether SMB_ALERT# is asserted, by what the module tells of itself in its GOV_STATUS and FLT_STATUS registers: the spec has the
module drive the pin and does not say when (R535, log entry 124). -/
opaque Config.smbAlert : Nat → Nat → Bool

/-- The freeze horizon H of FEAT_SEQ, in cycles (R34). -/
def Config.H : Nat := 24
/-- GUARD of FEAT_CLK, in cycles (R296). -/
def Config.guard : Nat := 2
/-- HEADROOM of FEAT_CLK, in entries (R297). -/
def Config.headroom : Nat := 8
/-- SUMMARY_LAT of FEAT_VEC, in cycles (R158). -/
def Config.summaryLat : Nat := 224
/-- SMP_LAT of FEAT_SRV, in cycles (R256). -/
def Config.smpLat : Nat := 512
/-- OVL_LAT of FEAT_SEQ, in cycles (R180). -/
def Config.ovlLat : Nat := 96
/-- Depth of each engine queue (FEAT_TILE_SYNC). -/
def Config.queueDepth : Nat := 32
/-- Entries of a partition's pending write queue (R279). -/
def Config.pendDepth : Nat := 64
/-- Bytes of one ashlar's scratchpad: eight slices of 4 MiB. -/
def Config.tileBytes : Nat := 33554432
/-- Bytes of the record engine's staging buffer (R510). -/
def Config.stagingBytes : Nat := 4194304
/-- Rows of the moraine (R402). -/
def Config.moraineRows : Nat := 4000000000

end Sys2Proof
end

