-- ==== Sys2Proof/Machine/State.lean ====
section
/-! DEFINITION. The state of the module: everything the spec gives it, as plain data, and the reasons a step can stop.
Sparse stores are canonical lists (`SMap`, `Host.Cell`); what an unlisted key reads as is defined beside their
operations in Machine/Ops.lean. Every memory-mapped register has one home, `regs`, keyed by its address in the model's
register space (Machine/Regs.lean); the fields the hardware computes from other state are computed when they are read. -/

namespace Sys2Proof.Machine

/-- The faults a step can end in. -/
inductive Fault where
  /-- The schedule cycles and results of a domain are undefined (R548). Raised by no command: the domain alone stands still
  until its reset (`Dom.undef`, log entry 43), and the rest of the module goes on. Safe: nothing is stopped by it. -/
  | timingUndefined
  deriving DecidableEq, Repr

/-- The refusals a step can end in. -/
inductive Refusal where
  /-- The command has no meaning in the model yet. Raised by the dispatch only. Safe. -/
  | notModelled (mnemonic : String)
  deriving DecidableEq, Repr

/-! ## One-time-programmable and board values -/

/-- One key slot of the fuses (R435). -/
structure KeySlot where
  hash : List Byte := []
  prod : Bool := false
  debug : Bool := false
  revoked : Bool := true
  deriving DecidableEq, Repr

/-- What the fuses, the straps and the board EEPROM hold. -/
structure Fuses where
  /-- IDENT.GRADE: 1 GX18-576-B, 2 GX15-480-B (R1). -/
  grade : Nat := 1
  serial : BitVec 64 := 0
  /-- The grade's fused maximum step (R300). -/
  maxStep : Nat := 15
  keys : List KeySlot := []
  /-- Dead ashlars known at manufacture: half-row index, half-local position (R53). -/
  dead : List (Nat × Nat) := []
  /-- ADDR[2:0] straps (R535). -/
  strap : Nat := 0
  /-- The two station addresses of the board EEPROM (R535). -/
  mac0 : BitVec 48 := 0
  mac1 : BitVec 48 := 0
  deriving DecidableEq, Repr

/-! ## Bulk stores -/

/-- The byte stores, the cornice and the compute registers of every ashlar. -/
structure Bulk where
  /-- Scratchpad bytes by physical place, spare rows and spare banks included (Machine/Ops.lean, `physByte`). -/
  scratch : List Host.Cell := []
  /-- SECDED state of scratchpad words by physical word: 1 a single-bit error, 2 an uncorrectable one. -/
  upset : SMap Nat := []
  /-- Moraine bytes (R402). -/
  moraine : List Host.Cell := []
  /-- Cornice words, by partition x 6,144 + address (R170). -/
  cornice : SMap Quad := []
  /-- Control-core registers by ashlar x 64 + selector: s0-s31, a0-a15 at 32, p0-p7 at 48, z0-z3 at 56 (R168). -/
  core : SMap Word := []
  /-- Vector registers by (ashlar x 8 + register) x 64 + lane (R134). -/
  vreg : SMap Word := []
  /-- Accumulators by ((ashlar x 4 + array) x 16 + set) x 64 + column (R92). -/
  acc : SMap (BitVec 96) := []
  /-- Checksum accumulators by (ashlar x 4 + array) x 16 + set (R99). -/
  chk : SMap (BitVec 104) := []
  /-- Saturation marks of accumulators, keyed as `acc` (R121). -/
  satm : SMap Bool := []
  /-- Window exponents by ashlar x 16 + set (R92). -/
  window : SMap Int := []
  /-- Rotation indices by ashlar x 4 + array (R98). -/
  rot : SMap Nat := []
  /-- Staging copies by engine: list per (ashlar x 3 + engine), least recently read first: slice, row, bytes (R262). -/
  stage : SMap (List (Nat × Nat × List Byte)) := []
  deriving DecidableEq, Repr

/-! ## Schedule domains -/

/-- The five freeze causes in order of priority (R37). -/
inductive FrzKind where
  | throttle | link | moraine | cross | wait
  deriving DecidableEq, Repr

/-- What clears a freeze cause. -/
inductive FrzRef where
  | throttle
  | port (p : Nat)
  | stk (id : Nat)
  | entry (pkt : Nat)
  | room (pkt : Nat)
  | rel (pkts : List Nat)
  | cairn (ash n target : Nat)
  | sem (ash n count : Nat)
  | stretch
  | staged
  deriving DecidableEq, Repr

/-- One freeze cause: due at a wall cycle, taking effect before a schedule cycle, cleared or not (R34). -/
structure Frz where
  kind : FrzKind
  ref : FrzRef
  due : Nat
  eff : Nat
  clr : Option Nat := none
  deriving DecidableEq, Repr

/-- A region that has come to lag behind the lead's (R298, R307 to R309). Times count eighths of an unstretched cycle of the step
(`Dom.timeOf`): the region issues schedule cycle `cRef` at `tRef` and each later one a cycle after, which is longer in `parts`: when a
stretch of it began, when it ended, the eighths it adds. The domain may run ahead of it by `slack` cycles: GUARD where its
neighbours use its entries (R296), HEADROOM where it only uses theirs (R297). -/
structure Lag where
  ash : Nat
  slack : Nat
  cRef : Nat
  tRef : Nat
  parts : List (Nat × Option Nat × Nat)
  deriving DecidableEq, Repr

/-- One hardware loop level (R189, R192). -/
structure LoopLevel where
  first : Nat
  last : Nat
  latched : Nat
  remaining : Nat
  deriving DecidableEq, Repr

/-- An active routine call (R199); `base` counts the loop levels pushed before it (R191). -/
structure CallState where
  ret : Nat
  first : Nat
  last : Nat
  base : Nat
  deriving DecidableEq, Repr

/-- An entry of an engine queue: the word, its address, its issue cycle, and the control-core registers as they stood at
its issue. -/
structure QEnt where
  word : Quad
  ia : Nat
  issued : Nat
  core : SMap Word := []
  deriving DecidableEq, Repr

/-- The operations of the vector queue. -/
inductive VKind where
  | chain | red | vsum | cvt | mxp | mxu | rsc
  deriving DecidableEq, Repr

/-- An operand of a stage: kind, index, format (R249). -/
structure VArg where
  kind : Nat
  idx : Nat
  fmt : Nat
  deriving DecidableEq, Repr

/-- A stage of a chain; `k` of SCALE. -/
structure Stage where
  op : Nat
  k : Int
  b : Option VArg
  c : Option VArg
  deriving DecidableEq, Repr

/-- A vector operation. -/
structure VOp where
  kind : VKind
  /-- Input vectors; for VSUM the addends of a group, with `m` groups. -/
  n : Nat
  m : Nat := 1
  fz : Bool
  xk : Option Nat
  /-- Source kind (0 SLICE, 1 ACC, 2 ACC4, 3 VREG), format, selector. -/
  sk : Nat
  sf : Nat
  ssel : Nat
  /-- Sink kind (0 SLICE, 1 VREG, 2 REDUCE), format, selector. -/
  nk : Nat
  nf : Nat
  nsel : Nat
  stages : List Stage := []
  /-- The a-register of the rescale table. -/
  tab : Option Nat := none
  /-- Window of VSUM's conversion. -/
  wv : Int := 0
  /-- The words RED and RED2 of the chain entry. -/
  red : Nat := 0
  red2 : Nat := 0
  deriving DecidableEq, Repr

/-- A queued or loading overlay (R179): domain bank, source ashlar, slice, row, tag, issue cycle. -/
structure Ovl where
  bank : Nat
  ash : Nat
  slice : Nat
  row : Nat
  tag : Nat
  issued : Nat
  deriving DecidableEq, Repr

/-- A tally (R126), its fields not yet saturated. -/
structure Tally where
  sat : Nat := 0
  under : Nat := 0
  flush : Nat := 0
  nan : Nat := 0
  deriving DecidableEq, Repr

/-- What a step of a pass has formed in one array by the end of stage G: the array, its set, the 64 column sums (each with
whether a term was clamped), the checksum column's total over all cell rows; the cell row that the rotation index selects,
the checksum column's sum over that row and the checksum row's (R97 to R99). -/
structure StepOut where
  arr : Nat
  set_ : Nat
  sums : List (Int × Bool)
  total : Int
  row : Nat
  main : Int
  shadow : Int
  deriving DecidableEq, Repr

/-- An engine operation under way in one ashlar. -/
structure Run where
  /-- The operation: the same in every ashlar. -/
  id : Nat
  /-- 0 array, 1 vector, 2 transfer. -/
  eng : Nat
  ash : Nat
  /-- Its start cycle and its queue entry. -/
  st : Nat
  q : QEnt
  /-- The vector operation that its word named at its start. -/
  v : Option VOp := none
  /-- The row vectors it has read, by slice and row: its own copies (R91, R264). -/
  rows : List ((Nat × Nat) × List Byte) := []
  /-- Staging copies that an acquire took from the operations after it (R236): slice, row, bytes. -/
  kept : List (Nat × Nat × List Byte) := []
  /-- Windows of a pass; for each lane vector not yet put out, the compute registers it has read. -/
  regs : List (Nat × Bulk) := []
  tally : Tally := {}
  /-- Lanes on their way into a reduction. -/
  lanes : List Word := []
  /-- Steps of a pass between stages G and C: step, what each array has formed, the step's tally without SAT. -/
  pipe : List (Nat × List StepOut × Tally) := []
  /-- Faults that befall its arrays (R547). -/
  faults : List ArrFault := []
  deriving DecidableEq, Repr

/-- What an engine operation under way does at one of its cycles. -/
inductive RunStep where
  /-- It issues the reads of weight tile `j`. -/
  | tile
  /-- It issues the reads of the activation vectors of step `j`. -/
  | vec
  /-- It issues the reads of lane vector or row vector `j`. -/
  | read
  /-- The products of step `j` are on the grid (stage G); the row check compares (stage A). -/
  | form
  | check
  /-- The column sums of step `j` reach the accumulators. -/
  | sum
  /-- Its rescale table has been read (R124): due as a bank access. -/
  | table
  /-- It issues the sink write of lane vector or group `j`. -/
  | out
  /-- It has its last effect. -/
  | fin
  deriving DecidableEq, Repr

/-- A packet: the fields of R328 and its payload. -/
structure Pkt where
  id : Nat := 0
  net : Nat := 0
  cls : Nat := 0
  typ : Nat := 0
  last : Bool := false
  mc : Bool := false
  dstMod : Nat := 0
  dst : Nat := 0
  srcMod : Nat := 0
  srcAsh : Nat := 0
  hops : Nat := 0
  addr : Nat := 0
  cairn : Nat := 0
  inc : Nat := 0
  entry : Nat := 0
  course : Nat := 0
  payload : List Byte := []
  /-- The port it arrived by; 32 for a packet that the relay engine forwards. -/
  inPort : Nat := 0
  deriving DecidableEq, Repr

/-- A result that an engine delivers at a later schedule cycle. -/
inductive DueAct where
  /-- A control-core register is written at the end of the cycle. -/
  | core (ash sel : Nat) (v : Word)
  /-- A VEC_LAST_RED register is written, and NAN_REDUCE set if only NaN lanes were met (R153, R162). -/
  | lastRed (ash : Nat) (v : Word) (nan : Bool)
  /-- Bits of zk are set at the end of the cycle before (R129, R157). -/
  | zbits (ash k bits : Nat)
  /-- A tally becomes final (R127): engine 0 array, 1 vector; excursion register when enabled; instruction address. -/
  | tally (vec : Bool) (ash : Nat) (t : Tally) (xk : Option Nat) (ia : Nat)
  /-- A staged row is discarded as a write to it is issued (R264). -/
  | dropRow (ash slice row : Nat)
  /-- An engine operation reads a row vector: due in the cycle after the bank cycle, as all bank accesses (R59, R60). -/
  | rd (id ash slice row : Nat)
  /-- An engine writes a slice: engine (1 vector, 3 control core), ashlar, address, bytes, instruction address; the issue
  cycle of a vector operation's write. -/
  | wr (eng ash addr : Nat) (data : List Byte) (ia : Nat) (vec : Option Nat)
  /-- LDW or LDA reads its word: address, destination, instruction address, issue cycle (R222). -/
  | ld (ash addr sel ia issued : Nat)
  /-- The overlay loader reads row `i` of the load in progress (R180). -/
  | ovl (i : Nat)
  /-- An engine operation under way has a cycle of its own: step and its number. -/
  | run (id ash : Nat) (w : RunStep) (j : Nat)
  /-- Accumulator sets of the masked arrays are zeroed (R93). -/
  | accz (ash mask set_ : Nat)
  /-- A window comes into force (R92). -/
  | window (ash set_ : Nat) (w : Int)
  /-- A vector register is written (R147). -/
  | vreg (ash r : Nat) (lanes : List Word)
  /-- A CHK reads a set (R100): array, set, instruction address. -/
  | chkRead (ash arr set_ ia : Nat)
  /-- A CHK has compared: 0 equal, 1 skipped, 2 mismatch. -/
  | chk (ash arr set_ ia res : Nat)
  /-- The check point of a packet's outstanding entry (R203, R230): the packet, its transfer, its handoff cycle, and how
  many cycles earlier the check point lay. -/
  | claim (p : Pkt) (xfer hand early : Nat)
  /-- The check point of a packet's injection room (R339): packet, cycle its first granule enters. -/
  | room (p : Pkt) (enter : Nat)
  /-- The check of a REL with ENG 3 before a packet (R235): packets covered, handoff cycle. -/
  | relChk (pkts : List Nat) (hand early : Nat)
  /-- A pair of granules of a transfer has entered the fabric, and a packet has been handed to it with its last granule: due
  in the cycle after (R227): the operation, its ashlar, the pair's number, the name of the first packet. -/
  | enter (id ash k pkt : Nat)
  /-- A GET's request packet has been handed to the fabric: due in the cycle after (R228): its name. -/
  | hand (pkt : Nat)
  /-- An STK's entry is checked (R203): the STK, its start, cycles the check point lay before. -/
  | stkClaim (id start early : Nat)
  /-- A post to a semaphore of the ashlar that issued it (R234): semaphore, increment, instruction. -/
  | post (ash sem inc ia : Nat)
  /-- Sticky bits set in the cycle before: they end set whatever cleared them in that cycle (R128, R220). -/
  | sticky (ash bits : Nat)
  deriving DecidableEq, Repr

/-- A value on its way up the summary tree (R158, R194). -/
inductive SumVal where
  | z (k : Nat) (zor zand : Nat)
  | q (n : Nat) (v : Word) (wrap : Bool)
  deriving DecidableEq, Repr

/-- One bank access of an engine (R60): ashlar, slice, bank cycle, first bank, number of banks, write, engine. -/
structure BankAcc where
  ash : Nat
  slice : Nat
  cycle : Nat
  bank : Nat
  n : Nat
  wr : Bool
  eng : Nat
  /-- Banks that did not perform it (R62). -/
  skip : List Nat := []
  deriving DecidableEq, Repr

/-- An SMP that has read its logits and waits for its result cycle (R256). -/
structure SmpJob where
  due : Nat
  rank : Nat
  ctx : Nat
  /-- Positions, each a list of (token, FP32 bits) in domain order. -/
  logits : List (List (Nat × Word))
  dst : Nat
  /-- Ashlars whose predicate is true. -/
  ash : List Nat
  deriving DecidableEq, Repr

/-- An EMIT that waits for its present cycle (R258): one record of one ashlar, with the ashlar's place in domain order. -/
structure EmitJob where
  due : Nat
  place : Nat
  rank : Nat
  ctx : Nat
  data : Bool
  payload : List Byte
  tag : Nat
  deriving DecidableEq, Repr

/-- A vector operation's tally that waits for those of earlier operations to become final (R127). -/
structure HeldTally where
  id : Nat
  ash : Nat
  tally : Tally
  xk : Option Nat
  ia : Nat
  deriving DecidableEq, Repr

/-- The energy profile read last for a domain (R475). -/
structure Profile where
  mean : Nat := 0
  lead : Nat := 0
  forecast : Nat := 0
  deriving DecidableEq, Repr

/-- What a write of the bank cycle of a wall cycle found in the bytes it wrote (R61). -/
structure Found where
  wall : Nat
  ash : Nat
  addr : Nat
  data : List Byte
  deriving DecidableEq, Repr

/-- An outstanding entry of an ashlar that a check point in a wall cycle has claimed or waits for, for a packet or an STK that needs
it in schedule cycle `eff` (R230). -/
structure Claim where
  ash : Nat
  id : Nat
  wall : Nat
  eff : Nat
  deriving DecidableEq, Repr

/-- The sequencer and engine timing state of one schedule domain, kept at its lead partition. -/
structure Dom where
  /-- Schedule cycle at which the next instruction issues, and the wall cycle of the lead's region in which it would. Wall
  cycles count on from course to course; their first number is the model's. -/
  cyc : Nat := 0
  wall : Nat := 1024
  /-- Glacier counts of schedule cycle 0 and of the course's tick; the course number; the SCHED_CYCLES of its header. -/
  startG : Nat := 0
  tickG : Nat := 0
  course : Nat := 0
  sched : Nat := 0
  /-- A glacier count and the wall cycle that began in it, from which the step in force holds (R302, R307). -/
  baseG : Nat := 0
  baseW : Nat := 1024
  /-- The time, in eighths of a cycle, at which that wall cycle began. -/
  baseT : Nat := 8192
  /-- The stretches of the lead's region that reach beyond it: first wall cycle stretched, the one after the last, eighths of a
  cycle added to each (R39, R308). -/
  slow : List (Nat × Option Nat × Nat) := []
  /-- The other regions that lag (R296 to R298, R309). -/
  lags : List Lag := []
  /-- The freezes that ended in the latest H cycles: the schedule cycle they came before, their length (R34, R35). -/
  thaws : List (Nat × Nat) := []
  /-- First course number a tick can start (R22), latched by ARM. -/
  start : Nat := 0
  /-- The launch moment of a course that is due to start, and whether it starts late (R25, R43). -/
  launch : Option (Nat × Nat × Nat) := none
  late : Bool := false
  episode : Bool := false
  followEntry : Bool := false
  freezeLogged : Bool := false
  profile : Option Profile := none
  /-- The fetch pointer, the bank fetch has entered, and the cycles the present fetch wait has lasted. -/
  pc : Nat := 0
  bank : Option Nat := none
  fetchWait : Nat := 0
  queueStall : Bool := false
  loops : List LoopLevel := []
  call : Option CallState := none
  frz : List Frz := []
  fWait : Nat := 0
  fCross : Nat := 0
  fMor : Nat := 0
  fLink : Nat := 0
  fThr : Nat := 0
  /-- Cycles of the present freeze that came before the domain was armed (R48). -/
  preArm : Nat := 0
  /-- Engine queues, occupancy ends, the array engine's latest effect, vector register write cycles. -/
  aq : List QEnt := []
  vq : List QEnt := []
  tq : List QEnt := []
  aOcc : Nat := 0
  vOcc : Nat := 0
  tOcc : Nat := 0
  aEff : Option Nat := none
  aEnd : Nat := 0
  vEnd : Nat := 0
  tEnd : Nat := 0
  vWrite : List (Nat × Nat) := []
  /-- Latest bank cycle of slice writes by control core and vector engine; cycles before which an engine may make no
  access (R235), of control core and vector engine; a REL of the control core is complete from `relC`. -/
  wCore : Nat := 0
  wVec : Nat := 0
  relC : Nat := 0
  relV : Nat := 0
  /-- Packets a REL with ENG 3 covers, by ashlar, until its next transfer's first packet (R235). -/
  relT : List (Nat × List Nat) := []
  ovq : List Ovl := []
  ovLoad : Option (Ovl × Nat) := none
  /-- The state each PENDING domain bank had before its first queued OVL: true if it held an overlay (R204). -/
  ovPrev : List (Nat × Bool) := []
  due : List (Nat × DueAct) := []
  /-- Engine operations under way, and the model's own number of the latest one. -/
  runs : List Run := []
  lastRun : Nat := 0
  /-- Tallies of vector operations that wait for their turn (R127). -/
  tal : List HeldTally := []
  busy : List (Nat × Nat) := []
  sums : List (Nat × SumVal) := []
  lastQ : List (Nat × Nat) := []
  bankLog : List BankAcc := []
  /-- What the writes of the latest bank cycles found, latest first (R61). -/
  under : List Found := []
  /-- The claims of the latest check points (R230). -/
  claims : List Claim := []
  smps : List SmpJob := []
  emits : List EmitJob := []
  /-- Late STKs of the course have been logged (R413). -/
  stkLogged : Bool := false
  /-- ENDC has issued and waits to retire (R187): its NEXT_IA, if NEXT is 1. -/
  retire : Option (Option Nat) := none
  /-- Nothing issues before this cycle: the two empty cycles of a redirect (R172). -/
  hold : Nat := 0
  /-- An operation's timing has differed between the ashlars: the domain's cycles and results are undefined until its reset
  (R548), and it stands still. -/
  undef : Bool := false
  /-- A domain reset waits for the end of the course that still runs (R207). -/
  resetDue : Bool := false
  deriving DecidableEq, Repr

/-! ## Fabric -/

/-- Where a landing came from: it says who is told when its packet has landed. -/
inductive LandSrc where
  | mesh (entryPkt : Nat)
  /-- A multicast packet of this module at its local leaf: the packet, its source, its group (R229, R343). -/
  | leaf (pkt srcAsh group : Nat)
  /-- A packet from another module: its source, its port here; its multicast group, if it takes no pool slot. -/
  | ubn (srcMod srcAsh entry port group : Nat) (slot : Bool)
  /-- The GET_REPLY of an ashlar of this module: packet of the reply, serving ashlar, its entry. -/
  | reply (pkt srcAsh entry : Nat)
  | host
  | eth (srcMod : Nat)
  /-- A chunk of the relay engine: the module from which it came (R421). -/
  | relay (srcMod : Nat)
  /-- Descriptors and page tables of a serving engine (R378). -/
  | serving
  deriving DecidableEq, Repr

/-- One granule on its way to a landing buffer, or in one (R63, R289, R290). The last granule of a packet carries its
increment. -/
structure Gran where
  ash : Nat
  addr : Nat
  data : List Byte
  /-- The first bank cycle in which it can land. -/
  ready : Nat := 0
  /-- How many cycles later the granule pairs that share links with it may bring it (R290); none: nothing fixes when it
  comes, as for what enters from outside the domain's schedule. -/
  slack : Option Nat := none
  final : Bool := false
  cairn : Nat := 0
  inc : Nat := 0
  src : LandSrc := .host
  pkt : Nat := 0
  /-- Word 0 of the header of a packet from another module (R489). -/
  word0 : Nat := 0
  /-- Address at which its packet starts. -/
  start : Nat := 0
  /-- Where its mesh path begins: an ashlar of this module, or 1,024 and a port (R288, R326); none: another way. -/
  org : Option Nat := none
  /-- The packets of one stream land in the order of `hand` (R268): those of an ashlar that travel the mesh, those of an
  ordered channel of Ubnov from one ashlar. -/
  stream : Option Nat := none
  hand : Nat := 0
  deriving DecidableEq, Repr

/-- A post on its way to a semaphore: a remote SEMP on the control lane (R234), or that of a completed transfer of the
instruction given (R231). -/
structure SempMsg where
  ash : Nat
  sem : Nat
  inc : Nat
  ready : Nat
  ia : Option Nat := none
  deriving DecidableEq, Repr

/-- An outstanding transfer entry of an ashlar in use (R230): which transfer and packet, or which STK, hold it. -/
structure OutEnt where
  ash : Nat
  idx : Nat
  xfer : Nat
  pkt : Nat
  stk : Bool := false
  /-- Word 0 of its packet's header. -/
  word0 : Nat := 0
  deriving DecidableEq, Repr

/-- A transfer instruction that is not complete (R231): its packets that have not completed. -/
structure Xfer where
  id : Nat
  ash : Nat
  pkts : List Nat
  failed : Bool := false
  sem : Option Nat := none
  /-- Destination of its packets (R235): a group, or module and ashlar. -/
  mc : Bool := false
  dstMod : Nat := 0
  dst : Nat := 0
  /-- Its packets are GET requests, which take no end-to-end credit (R332). -/
  get : Bool := false
  ia : Nat := 0
  deriving DecidableEq, Repr

/-- A COMPLETION on its way to an ashlar of this module, or to another module. -/
structure Compl where
  ash : Nat
  entry : Nat
  status : Nat
  srcMod : Nat := 0
  pkt : Nat := 0
  ready : Nat := 0
  deriving DecidableEq, Repr

/-- A GET request that has reached its target (R228). -/
structure GetReq where
  ash : Nat
  addr : Nat
  grans : Nat
  replyMod : Nat
  replyAsh : Nat
  replyAddr : Nat
  cairn : Nat
  inc : Nat
  cls : Nat
  entry : Nat
  pkt : Nat
  ready : Nat := 0
  /-- The port it arrived by. -/
  port : Nat := 0
  /-- The granules it has read, each in a bank cycle of its own (R60, R228). -/
  got : List (Nat × List Byte) := []
  deriving DecidableEq, Repr

/-- A packet of a transfer that has started and has not entered the fabric (R203, R227, R339): it still needs an
outstanding entry; it has been handed off and waits in its ashlar's injection queue. -/
structure WaitPkt where
  pkt : Pkt
  ash : Nat
  xfer : Nat
  needEnt : Bool := true
  handed : Bool := false
  deriving DecidableEq, Repr

/-- A packet for another module from the check of its first granule until it is in egress (R339): the cycle in which its
first granule enters, the slots of the injection queue its granules hold, how many of its granules have been given one, the
port whose egress has room for it. -/
structure InjPkt where
  pkt : Pkt
  enter : Nat
  slots : Nat := 0
  got : Nat := 0
  port : Option Nat := none
  deriving DecidableEq, Repr

/-- An STK (R232): rows still outstanding, deadline. It is listed from its start on, or from its deadline where that comes
while it still waits in the transfer queue (R233). -/
structure StkOp where
  id : Nat
  issued : Nat := 0
  started : Bool := true
  ash : Nat
  dir : Bool
  addr : Nat
  mor : Nat
  left : List Nat
  /-- The row whose first granules have landed, and its granules that have (R63, R232). -/
  part : List (Nat × Nat) := []
  cairn : Nat
  deadline : Option Nat
  late : Bool := false
  /-- Its outstanding entry, once claimed. -/
  ent : Option Nat := none
  ia : Nat := 0
  deriving DecidableEq, Repr

/-- A multicast copy held at a branch (R344): its packet, the port (32 for the local leaf), since when, logged. -/
structure McHold where
  pkt : Pkt
  port : Nat
  since : Nat
  logged : Bool := false
  deriving DecidableEq, Repr

/-- An upstream COMPLETION being gathered at a branch (R345). -/
structure McGather where
  srcMod : Nat
  srcAsh : Nat
  entry : Nat
  group : Nat
  upPort : Option Nat
  left : Nat
  status : Nat := 0
  deriving DecidableEq, Repr

/-- A GET_REQ served here whose reply's COMPLETION has not returned (R340). -/
structure GetServed where
  ash : Nat
  entry : Nat
  srcMod : Nat
  srcAsh : Nat
  reqEntry : Nat
  /-- The reply holds the entry it carries. -/
  own : Bool := true
  pkt : Nat := 0
  /-- Word 0 of the reply's header. -/
  word0 : Nat := 0
  deriving DecidableEq, Repr

/-- What is between the engines, the ports and the slices. -/
structure Fabric where
  nextId : Nat := 1
  land : List Gran := []
  /-- The bank cycle of the latest landing in each slice (ashlar x 8 + slice), and the first banks of what landed in it
  (R63). -/
  landLog : SMap (Nat × List Nat) := []
  /-- The same of the latest reads outside the schedule: of a GET, of an STK (R60, R228). -/
  readLog : SMap (Nat × List Nat) := []
  semps : List SempMsg := []
  ents : List OutEnt := []
  /-- When the entries that are free were freed, by ashlar x 128 + entry; the packets and STKs that wait for one, in the order
  of their check points (R230). -/
  entFree : SMap Nat := []
  entq : List (Nat × Nat) := []
  /-- When the packets that a REL covers completed (R235). -/
  doneAt : SMap Nat := []
  /-- What waits took from counters (ashlar x 64 + number) in the cycle given (R67), and from semaphores (R71). -/
  subC : SMap (Nat × Nat) := []
  subS : SMap (Nat × Nat) := []
  /-- Granules of this module's ashlars in the injection queues, held from the mesh by a full landing buffer (R64): the
  ashlar that sends, the granule, its latency. -/
  held : List (Nat × Gran × Nat) := []
  /-- The latest wall cycles in which slots of an ashlar's injection queue were taken or given back, latest first, and how many
  were taken (R339). -/
  slotLog : SMap (List (Nat × Int)) := []
  /-- Packets of which a granule was lost, with the STATUS they end with: no more of them lands (R291). -/
  gone : List (Nat × Nat) := []
  /-- Multicast packets whose granules go to the local leaf as they enter the fabric (R227, R229). -/
  leafIn : List Nat := []
  xfers : List Xfer := []
  compl : List Compl := []
  gets : List GetReq := []
  waits : List WaitPkt := []
  inj : List InjPkt := []
  stks : List StkOp := []
  /-- The ingress pool: packets that hold a slot and wait for the mesh (R338), and the source served last per ashlar. -/
  pool : List Pkt := []
  lastSrc : SMap Nat := []
  /-- The wall cycle in which the latest packet released to an ashlar has passed into the mesh (R338). -/
  lastRel : SMap Nat := []
  relayIn : List Pkt := []
  /-- Packets for other modules that wait in the receive buffers of their ports for room in egress, in arrival order (R331,
  R336, R339); chunks that the relay engine forwards (R421). -/
  fwd : List Pkt := []
  holds : List McHold := []
  gathers : List McGather := []
  served : List GetServed := []
  /-- End-to-end credits in use, by destination module x 2 + network (R336). -/
  used : SMap Nat := []
  /-- The reservation words applied and advertised by RESV_APPLY, by source module; an unlisted one grants 1 slot per
  network (R336). -/
  granted : SMap Word := []
  deriving DecidableEq, Repr

/-! ## Ports -/

/-- A frame sent and not yet acknowledged (R346). -/
structure Sent where
  seq : Nat
  pkt : Pkt
  /-- How often it has been replayed (R348). -/
  count : Nat := 0
  deriving DecidableEq, Repr

/-- One Ubnov port. -/
structure Port where
  /-- Egress packets with their virtual channel (network x 4 + class), in order. -/
  egress : List (Nat × Pkt) := []
  retry : List Sent := []
  nextSeq : Nat := 0
  /-- The sequence number of the next frame to accept; the receiver has asked for it again and discards the frames after it
  (R346). -/
  rxSeq : Nat := 0
  nakked : Bool := false
  /-- Link credit in use per virtual channel, in granules; unlisted: none (R331). -/
  creditUsed : SMap Nat := []
  /-- Glacier count at which the running replay began. -/
  replaying : Option Nat := none
  trained : Bool := false
  /-- Glacier count at which its training ended (R361). -/
  trainedAt : Nat := 0
  /-- The active lanes; while NARROWING, those the port narrows to (R324). -/
  lanes : Nat := 0xFF
  downAt : Nat := 0
  /-- Glacier count from which the identity timeout runs; none while no exchange runs. -/
  exchAt : Option Nat := none
  /-- The peer's latest valid identity frame (R357). -/
  frame : Option (Quad × Quad × Quad) := none
  /-- It has received a valid identity frame, or has waited the timeout, since the latest commit (R361). -/
  heard : Bool := false
  timedOut : Bool := false
  missing : Bool := false
  deriving DecidableEq, Repr

/-- One port's plan as committed (R354): LO and HI words. -/
structure Discovery where
  committed : Bool := false
  moduleId : Nat := 0
  tag : Nat := 0
  gen : Nat := 0
  minMinor : Nat := 1
  maxMinor : Nat := 2
  planLo : SMap Word := []
  planHi : SMap Word := []
  commitAt : Nat := 0
  deriving DecidableEq, Repr

/-! ## Serving engines -/

/-- A command in a command queue (R372). -/
structure SrvCmd where
  op : Nat
  ctx : Nat
  tag : Nat
  arg0 : Word
  arg1 : Word
  at_ : Nat
  atEn : Bool
  deriving DecidableEq, Repr

/-- A record with its payload (R387), by field. -/
structure Rec where
  kind : Nat
  ctx : Nat
  part : Nat
  status : Nat := 0
  tag : Nat := 0
  count : Nat := 0
  course : Nat := 0
  position : Nat := 0
  user : Word := 0
  result : Word := 0
  done : Bool := false
  gap : Bool := false
  late : Bool := false
  tokens : List Nat := []
  payload : List Byte := []
  deriving DecidableEq, Repr

/-- A token committed and not yet emitted (R385): its position, the generation it was committed under, and whether the
context stopped with it. -/
structure PendTok where
  pos : Nat
  tok : Nat
  gen : Nat
  stop : Bool := false
  deriving DecidableEq, Repr

/-- What the emit buffer holds, in present order (R389). -/
inductive Held where
  | record (r : Rec)
  | tokens (srcPart srcCtx : Nat) (sinkPart sinkCtx : Nat) (draft : Bool) (toks : List PendTok)
  | sync (srcPart : Nat) (dstPart dstCtx : Nat) (gen q : Nat) (toks : List Nat)
  deriving DecidableEq, Repr

/-- An entry of the penalty table (R386). -/
structure PenEnt where
  token : Nat
  count : Nat
  deriving DecidableEq, Repr

/-- The working state of one context, beside its registers. -/
structure Ctx where
  /-- It has been opened or resumed since reset. -/
  live : Bool := false
  input : List Nat := []
  drafts : List Nat := []
  /-- Committed tokens not yet emitted, oldest first. -/
  pend : List PendTok := []
  /-- Tokens that a cancel would take back, oldest first: position, and the penalty entry it replaced (R391). -/
  undo : List (Nat × Option (Nat × Option PenEnt)) := []
  penalty : SMap (Option PenEnt) := []
  pages : List Nat := []
  /-- The inputs committed at the latest serving boundary (R377). -/
  inToks : List Nat := []
  sinceGo : Nat := 0
  /-- A record of it has been dropped since the last one delivered (R390). -/
  gapOut : Bool := false
  /-- Park or resume in progress: handle slot, the command's tag; the resume's KEEP. -/
  xfer : Option (Nat × Nat) := none
  keep : Bool := false
  /-- The resume has reached its commit point: the parked LEN and GEN. -/
  resumed : Option (Nat × Nat) := none
  /-- Every committed token, by position: the engine's own copy for drafts and SYNCs (R383). -/
  hist : List Nat := []
  /-- The descriptor and the page table as landed last; none: still as the scratchpad was at reset. -/
  desc : Option (List Byte) := none
  table : Option (List Nat) := none
  deriving DecidableEq, Repr

/-- One serving engine. -/
structure Srv where
  cmds : List SrvCmd := []
  cmd0 : Word := 0
  cmd1 : Word := 0
  cmd2 : Word := 0
  ctxs : SMap Ctx := []
  /-- Work released by other domains since the last serving boundary, in release order. -/
  inbox : List Held := []
  emitBuf : List Held := []
  /-- An episode of R379 runs: some context waits for pages. -/
  kvEpisode : Bool := false
  /-- The course of the serving boundary that is due. -/
  boundary : Option Nat := none
  /-- The ticks whose serving boundaries wait for the end of the running course (R370). -/
  ticks : List Nat := []
  deriving DecidableEq, Repr

/-- A park handle (R393 to R397). -/
structure Handle where
  slot : Nat
  gen : Nat
  part : Nat
  ctx : Nat
  tag : Nat
  layout : Nat
  len : Nat
  ctxGen : Nat
  /-- The granules of the park store it holds: those of its pages, page by page and ashlar by ashlar, then one more. -/
  grans : List Nat
  ttl : Nat
  expiry : Nat := 0
  /-- Resumes that read it (R394, R395); it is freed once none does. -/
  pins : Nat := 0
  doomed : Bool := false
  /-- The directory entry is written. -/
  valid : Bool := false
  expired : Bool := false
  /-- It has given its granules back; the directory still knows that it expired. -/
  freed : Bool := false
  /-- The entry (its STATE word, and words +0x08 to +0x3C) and the penalty table as its PARK found them; the committed tokens. -/
  state : Word := 0
  entry : List Word := []
  penalty : SMap (Option PenEnt) := []
  hist : List Nat := []
  deriving DecidableEq, Repr

structure Park where
  handles : List Handle := []
  gens : SMap Nat := []
  deriving DecidableEq, Repr

/-! ## Moraine, loads, relay -/

/-- A write accepted but not yet performed (R411): the host's, the RDMA loader's, or a chain's. -/
structure MorWrite where
  row : Nat
  off : Nat
  data : List Byte
  host : Bool := false
  chain : Option Nat := none
  /-- A piece of a record entry, from the record engine's staging buffer (R510). -/
  staged : Bool := false
  /-- The index of a chain's chunk. -/
  idx : Nat := 0
  /-- Bytes for a scratchpad: ashlar, address, cairn counter; what is added to it, and where they come from. -/
  land : Option (Nat × Nat × Nat) := none
  inc : Nat := 64
  src : LandSrc := .host
  deriving DecidableEq, Repr

/-- A chunk of a load that waits for room in the relay buffer (R419, R421): its chain, its index, and with the last one the load's
tag. -/
structure RelayIn where
  chain : Nat
  idx : Nat
  data : List Byte
  tag : Option Nat := none
  deriving DecidableEq, Repr

/-- A load descriptor (R419). -/
structure LoadDesc where
  port : Nat
  qpn : Nat := 0
  rkey : Nat := 0
  dkind : Nat
  raddr : Nat
  len : Nat
  d5 : Nat
  d6 : Nat
  tag : Nat
  deriving DecidableEq, Repr

/-- A swap that runs (R417): the words of its checked entry. -/
structure Swap where
  part : Nat
  words : List Nat
  startG : Nat
  deriving DecidableEq, Repr

structure Mor where
  /-- Rows that read uncorrectable until they are rewritten (R414): a bit for each granule not yet rewritten. -/
  bad : SMap Nat := []
  writes : List MorWrite := []
  swaps : List Swap := []
  loads : List LoadDesc := []
  loadRegs : SMap Word := []
  cmpl : List (Nat × Nat) := []
  /-- Glacier count until which each stack is in a refresh shadow (R412). -/
  shadow : SMap Nat := []
  /-- Chains whose RELAY_CHAIN_BROKEN has been logged. -/
  broken : List Nat := []
  /-- Chunks forwarded whose COMPLETION has not returned: chain, destination module. -/
  relayOut : List (Nat × Nat) := []
  relayWait : List RelayIn := []
  deriving DecidableEq, Repr

/-! ## Host interface, windows -/

/-- A write that waits for a full pending queue (R282): who, what, since when. -/
structure HeldWrite where
  who : Who
  what : PendWhat
  since : Nat
  deriving DecidableEq, Repr

structure Pend where
  queue : List PendWhat := []
  waiting : List HeldWrite := []
  /-- Entries the next boundary window applies (R280). -/
  window : Nat := 0
  /-- What packets and posts have added since that window began, to counters (ashlar x 64 + number) and to semaphores: it is
  added again after a value that the window writes (R70, R72). -/
  addC : SMap Nat := []
  addS : SMap Nat := []
  deriving DecidableEq, Repr

/-- A posted write of a host that waits on the link (R282): of a register, of a partition's pending kind, of an aperture. -/
inductive PostWhat where
  | reg (addr : Nat) (v : Word)
  | part (x : PendWhat)
  | window (ap off : Nat) (data : List Byte)
  deriving DecidableEq, Repr

/-- What a read answered. -/
inductive ReadData where
  | none
  | word (w : Word)
  | bytes (b : List Byte) (poisoned : List Bool)
  deriving DecidableEq, Repr

/-- What the module has sent out, for whoever looks at it. -/
inductive Out where
  | hostWrite (addr : Nat) (data : List Byte)
  | irq (fn vector : Nat)
  /-- A frame: the sequence number and virtual channel of its link tag, its packet (R323). -/
  | frame (port seq vc : Nat) (f : Pkt)
  | identity (port : Nat) (w0 w1 w2 : Quad) (rest : List Quad)
  | grants (resv : SMap Word)
  /-- Link credit of a virtual channel returns, in granules (R331). -/
  | credit (port vc n : Nat)
  | ack (port seq : Nat)
  | nak (port seq : Nat)
  | udp (port : Nat) (dest : List Word) (data : List Byte)
  | rdmaRead (port qpn rkey raddr len : Nat)
  | rdmaNak (port : Nat) (invalid : Bool)
  | rdmaAck (port : Nat)
  /-- A congestion notification for a queue pair (R529). -/
  | cnp (port qpn : Nat)
  /-- A frame protected under an association, with its packet number (R533). -/
  | macsec (an pn : Nat) (frame : Out)
  | mctp (typ : Nat) (data : List Byte) (via : Via := .vdm)
  /-- What the FRU EEPROM answers on SMBus (R535). -/
  | fru (data : List Byte)
  /-- The level of PWR_OK (R539). -/
  | pwrOk (on : Bool)
  deriving DecidableEq, Repr

/-! ## Management -/

/-- A fault record (R489), by field. -/
structure FRec where
  code : Nat
  effect : Nat
  source : Nat := 3
  part : Nat := 15
  ash : Nat := 0
  pc : Option Nat := none
  rep : Nat := 0
  course : Nat := 0
  glacier : Nat := 0
  cycle : Nat := 0
  seq : Nat := 0
  detail : Nat := 0
  detail2 : Nat := 0
  image : Nat := 0
  deriving DecidableEq, Repr

/-- The fault log's bookkeeping (R491 to R494): the first record of each code, place and course; the glacier count of the
latest records and those records, in their order; earlier records that Boluk is still to copy to flash. -/
structure FltBook where
  firsts : List (Nat × Nat × Nat × Nat) := []
  lastG : Nat := 0
  cur : List FRec := []
  toCopy : List FRec := []
  /-- Half-open episodes: reference, overrun and others keep their own marks; this one is SRAM spare rows (R504). -/
  spareLogged : List Nat := []
  deriving DecidableEq, Repr

/-- What outlives every reset and the loss of power: the flash (R427), and the SVN floors that RAISE_SVN burns (R435, R464). -/
structure Flash where
  svnBoluk : Nat := 0
  svnImage : Nat := 0
  boluk0 : List Byte := []
  boluk1 : List Byte := []
  image0 : List Byte := []
  image1 : List Byte := []
  selBoluk : Nat := 0
  selImage : Nat := 0
  /-- The repair record: ashlars found dead in the field, by half-row and half-local physical position (R53). -/
  repair : List (Nat × Nat) := []
  /-- The grout map by logical ashlar x 264 + entry: 256 row remaps, then 8 bank remaps. -/
  grout : SMap Word := []
  log : List FRec := []
  deriving DecidableEq, Repr

/-- The policy values of R460. -/
structure Policy where
  powerCap : Nat := 4000
  step : Nat := 15
  overrun : Nat := 0
  freezeLimit : Nat := 0
  hold : Nat := 0
  remap : Nat := 1
  regrout : Nat := 1
  holdover : Nat := 0x186A0
  deriving DecidableEq, Repr

structure Mgmt where
  flash : Flash := {}
  policy : Policy := {}
  /-- The module has power: its rails are good, and PWR_OK is asserted (R539). -/
  powered : Bool := true
  /-- Input power is present at the module (R535). -/
  input : Bool := true
  /-- Boluk runs. -/
  boluk : Bool := false
  /-- The mailbox instance that was served last (R463); 12 is the module's. -/
  lastMbx : Nat := 12
  /-- Verified slots (R463): Boluk A, Boluk B, Eptustan A, Eptustan B. -/
  verified : List Bool := [false, false, false, false]
  /-- DIE_INIT and CALIBRATE have ended; the Eptustan slot that has verified (R458). -/
  dieDone : Bool := false
  calDone : Bool := false
  verDone : Option Nat := none
  /-- MODULE_DIGEST of the applied image (R438). -/
  moduleDigest : List Byte := []
  /-- Disabled partitions of this reset (R51, R300). -/
  disabled : List Nat := []
  /-- Dead ashlars that the repair map in force absorbs (R53). -/
  dead : List (Nat × Nat) := []
  /-- CE_EVENTs that Boluk has not answered (R502): ashlar, slice. -/
  eventsWaiting : List (Nat × Nat) := []
  /-- The array mismatches whose records Boluk has read (R501): ashlar, array, course. -/
  badMismatch : List (Nat × Nat × Nat) := []
  /-- Bank copies in progress (R505): ashlar, slice, the entry to activate. -/
  groutCopy : List (Nat × Nat × Word) := []
  /-- Rows being retired (R502): ashlar, slice, row, spare row, log entry. -/
  regrouts : List (Nat × Nat × Nat × Nat × Nat) := []
  /-- The KIND of a PLDM update that runs (R537). -/
  updKind : Option Nat := none
  /-- The partition reset that runs (R455): its mask, the mailbox instance that asked for it, the Eptustan slot it loads. -/
  loading : Option (Nat × Nat × Nat) := none
  /-- The module mailbox's request came by MCTP (R536). -/
  mctpAsk : Bool := false
  /-- The way it came, and the terminus ID that PLDM has been given. -/
  mctpVia : Via := .vdm
  tid : Nat := 0
  deriving DecidableEq, Repr

/-- The governor and the telemetry unit (R471 to R483): energies in pJ, powers in uW. -/
structure Gov where
  /-- Energy of the buffer. -/
  e : Nat := 0
  pCmd : Nat := 0
  /-- Latest sample of the input power. -/
  pIn : Nat := 0
  ballast : Nat := 0
  /-- The input converter draws nothing in this microsecond (R478). -/
  stopped : Bool := false
  /-- The running throttle freeze: when it was requested, its glacier counts. -/
  throttle : Option (Nat × Nat) := none
  hardEpisode : Bool := false
  tempEpisode : Bool := false
  vinEpisode : Bool := false
  /-- Consecutive 10 us means above CAP_W, below CAP_ACTIVE, and outside the voltage range. -/
  overRun : Nat := 0
  underRun : Nat := 0
  vinRun : Nat := 0
  /-- The samples of the 10 us that run (mV, mA), and the 10 us means of the millisecond that runs. -/
  samples : List (Nat × Nat) := []
  means : List Nat := []
  /-- Latest 10 us mean of V_in, in mV. -/
  vinMean : Nat := 0
  /-- Input energy since cold reset. -/
  energy : Nat := 0
  deriving DecidableEq, Repr

/-- Clock and time state beside its registers. -/
structure Clock where
  glacier : Nat := 0
  alignPending : Bool := false
  originSet : Bool := false
  nextK : Nat := 0
  /-- The ticks that have come and have had no edge; the ticks still to come that have had theirs (R17). -/
  openTicks : List Nat := []
  edges : List Nat := []
  /-- The glacier count in which the running holdover began, as the counter would have read if it had been loaded then. -/
  lostAt : Option Int := none
  /-- The glacier count in which the running slew began (R316). -/
  slewAt : Nat := 0
  /-- A value that the counter takes at its next count (R317). -/
  load : Option Nat := none
  holdLogged : Bool := false
  stepDue : Option Nat := none
  glacierLo : Word := 0
  /-- Ashlars that stretch now: whether no neighbour uses their entries, and since when, in the time of their domain. -/
  stretching : List (Nat × Bool × Nat) := []
  deriving DecidableEq, Repr

/-- An entry of the record stream (R511), by field. -/
structure REnt where
  kind : Nat
  part : Nat
  ctx : Nat
  course : Nat
  schedAt : Nat
  pre : Bool
  boundary : Bool
  body : List Nat
  payload : List Byte
  /-- Replay: the granules of a LANDING have landed (R515). -/
  landed : Bool := false
  deriving DecidableEq, Repr

/-- The record and replay engine: the MODE in force and the one that waits for a serving boundary (R520), whether recording
has started (R510), the next ENTRY_SEQ and place of an entry, the partitions whose recording has stopped (R514). -/
structure Recorder where
  mode : Nat := 0
  want : Option Nat := none
  started : Bool := false
  seq : Nat := 0
  ptr : Nat := 0
  stopped : List Nat := []
  /-- Replay: the entries not yet applied. -/
  todo : List REnt := []
  outputs : List REnt := []
  /-- Replay: parked data of a recorded RESUME, by partition x 256 + context (R515). -/
  images : List (Nat × List Byte) := []
  deriving DecidableEq, Repr

/-- A granule that has landed outside the schedule, as the hazard detector of a debug image follows it (R278, R497). -/
structure HazLand where
  ash : Nat
  addr : Nat
  pkt : Nat
  /-- Module and ashlar that sent it; 1,024 where no ashlar did. -/
  srcMod : Nat
  srcAsh : Nat
  /-- It comes from an ashlar of the reader's domain in this module. -/
  inDom : Bool
  /-- The counter that its packet increments, and whether the increment has been added. -/
  cairn : Option Nat
  added : Bool
  /-- The scope of the release whose signal its packet is, while no acquire has looked at it. -/
  rel : Option Nat := none
  /-- Engines (bit 0 array, 1 vector, 2 transfer, 3 control core) whose operations from a cycle on are ordered after it: by
  their issue cycle after a wait, by their start cycle after an ACQ. -/
  ok : List (Nat × Nat × Bool)
  /-- A control core of its ashlar has read it (R272). -/
  read : Bool := false
  /-- The schedule cycle in which it landed. -/
  cyc : Nat := 0
  deriving DecidableEq, Repr

/-- A slice write of an engine, as the detector follows it (R277): whether a release of that engine has covered it since, and its
schedule cycle. -/
structure HazWrite where
  ash : Nat
  addr : Nat
  n : Nat
  eng : Nat
  cyc : Nat
  released : Bool := false
  deriving DecidableEq, Repr

/-- The hazard detector (R497): what has landed in the running courses; ashlars that have observed a packet, with the module
and ashlar that sent it (R272); scopes of releases of this module's transfer engines, by ashlar while the signal is still to
come, by packet after it. -/
structure Haz where
  lands : List HazLand := []
  seen : List (Nat × Nat × Nat) := []
  rels : List (Nat × Nat) := []
  sigs : List (Nat × Nat) := []
  /-- Slice writes of the engines of the running courses (R277). -/
  wrote : List HazWrite := []
  deriving DecidableEq, Repr

/-- An installed association of a port's secure channel (R533), by its number. -/
structure MacSa where
  an : Nat
  key : List Byte := []
  xpn : Bool := false
  /-- The next packet number it sends. -/
  pn : Nat := 1
  deriving DecidableEq, Repr

/-- One Ethernet port beside its registers. -/
structure Eth where
  /-- The speed at which the physical link is up (R528). -/
  phy : Option Nat := none
  /-- Associations of the transmit channel, the one in use first, and of the receive channel (R533). -/
  txSa : List MacSa := []
  rxSa : List MacSa := []
  /-- The glacier count until which the port's priority is paused, and what waits to be sent meanwhile (R528). -/
  pausedTo : Nat := 0
  held : List Out := []
  /-- Rates of queue pairs that have been reduced, in 1/65,536 of the port's (R529). -/
  rate : SMap Nat := []
  /-- The stream frame queue (R532): flow, its ETH_FLOW and ETH_DEST words as the record was accepted with, record. -/
  queue : List (Nat × List Word × Rec) := []
  /-- The PTP stamps (R534): stamp, sequence ID, transmitted. -/
  stamps : List (Nat × Nat × Bool) := []
  deriving DecidableEq, Repr

/-- What the endpoint tells of itself in configuration space (R523). -/
structure PciCaps where
  vendor : Nat := 0x1F4E
  devicePf : Nat := 0x0018
  deviceVf : Nat := 0x0019
  ari : Bool := true
  totalVfs : Nat := 12
  firstVf : Nat := 1
  vfStride : Nat := 1
  maxPayload : Nat := 512
  maxRead : Nat := 4096
  tags : Nat := 256
  aer : Bool := true
  vectorsPf : Nat := 64
  vectorsVf : Nat := 8
  deriving DecidableEq, Repr

/-- The host endpoint beside MGT_PCI_LINK (R523, R524, R527): words that the host has written to configuration space by function x
1,024 + word, BARs by function x 4 + number, MSI-X table entries by function x 64 + vector, the functions whose vectors are masked,
and the vectors that wait behind a mask. -/
structure Pci where
  caps : PciCaps := {}
  config : SMap Word := []
  bars : SMap Quad := []
  vectors : SMap (Quad × Word) := []
  masked : List Nat := []
  waiting : List (Nat × Nat) := []
  deriving DecidableEq, Repr

/-- The module. -/
structure State where
  fuses : Fuses := {}
  regs : SMap Word := []
  latches : SMap Word := []
  bulk : Bulk := {}
  clk : Clock := {}
  doms : Vector Dom 12 := Vector.replicate 12 {}
  fab : Fabric := {}
  ports : Vector Port 32 := Vector.replicate 32 {}
  disc : Discovery := {}
  srv : Vector Srv 12 := Vector.replicate 12 {}
  park : Park := {}
  mor : Mor := {}
  pend : Vector Pend 12 := Vector.replicate 12 {}
  /-- The posted host writes behind one that a full pending queue keeps waiting, in order (R282). -/
  posted : List (Who × PostWhat) := []
  /-- The scrubber of an ashlar (R65): the row vector its walk comes to next, as slice x 8,192 + row, and the wall cycle before
  which it starts none. -/
  scrub : SMap (Nat × Nat) := []
  mgmt : Mgmt := {}
  gov : Gov := {}
  flt : FltBook := {}
  recd : Recorder := {}
  haz : Haz := {}
  eth : Vector Eth 2 := Vector.replicate 2 {}
  flowSeq : SMap Nat := []
  /-- PCI Express link (R527) and what the host window last answered. -/
  pciUp : Bool := false
  pci : Pci := {}
  rdata : ReadData := .none
  /-- The model's own output log. -/
  out : List Out := []
  /-- The model's own counter of free values used so far. -/
  freeCtr : Nat := 0
  /-- The commands that wait, first in, first out. -/
  pending : List Instr := []
  deriving DecidableEq, Repr

/-- The module right after reset: every register at the value its table gives (`regs` lists none that differs), every
store at its reset contents, no power-on sequence run yet, no command waiting. -/
def State.reset : State := {}

end Sys2Proof.Machine
end

