-- ==== Sys2Proof/Machine/Ops.lean ====
section
/-! DEFINITION. The named operations over sparse stores, registers, geometry, scratchpad and the fault log. -/

namespace Sys2Proof.Machine

/-! ## Sparse stores -/

/-- The entry of a sparse store at a key, if one is listed. -/
def mapGet? {α : Type} : SMap α → Nat → Option α
  | [], _ => none
  | (k', v) :: m, k => if k = k' then some v else mapGet? m k

/-- The value a sparse store reads at a key: the listed one, or what an unlisted key reads as. -/
def mapGet {α : Type} (dflt : α) (m : SMap α) (k : Nat) : α := (mapGet? m k).getD dflt

/-- Remove a key from a sparse store. -/
def mapErase {α : Type} : SMap α → Nat → SMap α
  | [], _ => []
  | (k', v) :: m, k => if k = k' then mapErase m k else (k', v) :: mapErase m k

/-- List a key with a value in a sparse store, in its place. -/
def mapInsert {α : Type} : SMap α → Nat → α → SMap α
  | [], k, v => [(k, v)]
  | (k', v') :: m, k, v =>
    if k = k' then (k, v) :: m else if k < k' then (k, v) :: (k', v') :: m else (k', v') :: mapInsert m k v

/-- Write a sparse store: writing what an unlisted key reads as removes the entry. -/
def mapSet {α : Type} [DecidableEq α] (dflt : α) (m : SMap α) (k : Nat) (v : α) : SMap α :=
  if v = dflt then mapErase m k else mapInsert m k v

/-- Remove every entry whose key lies in [lo, hi). -/
def mapClear {α : Type} : SMap α → Nat → Nat → SMap α
  | [], _, _ => []
  | (k, v) :: m, lo, hi => if lo ≤ k ∧ k < hi then mapClear m lo hi else (k, v) :: mapClear m lo hi

/-- The keys of a sparse store rise strictly above a bound, and no value is what an unlisted key reads as. -/
def mapWfAbove {α : Type} [DecidableEq α] (dflt : α) : Option Nat → SMap α → Bool
  | _, [] => true
  | lo, (k, v) :: m =>
    (match lo with | none => true | some b => decide (b < k)) && decide (v ≠ dflt) && mapWfAbove dflt (some k) m

/-- The canonical form of a sparse store. -/
def Memory.wf {α : Type} [DecidableEq α] (dflt : α) (m : SMap α) : Bool := mapWfAbove dflt none m

/-! ## Small arithmetic -/

/-- Bits [hi:lo] of a number. -/
def bitsOf (x hi lo : Nat) : Nat := (x >>> lo) % 2 ^ (hi - lo + 1)

/-- Bit `i` of a number. -/
def bitOf (x i : Nat) : Bool := (x >>> i) % 2 = 1

/-- A number's low `w` bits read as two's complement. -/
def signedOf (w x : Nat) : Int := let y := x % 2 ^ w; if y < 2 ^ (w - 1) then (y : Int) else (y : Int) - 2 ^ w

/-- An integer modulo 2^w. -/
def wrapInt (w : Nat) (x : Int) : Nat := (x % (2 ^ w : Int)).toNat

/-- The quotient rounded up. -/
def ceilDiv (a b : Nat) : Nat := (a + b - 1) / b

/-- Number of ones among the low `w` bits. -/
def popcount (w x : Nat) : Nat := ((List.range w).filter fun i => bitOf x i).length

/-- A list without its element `i`. -/
def dropAt {α : Type} (l : List α) (i : Nat) : List α := l.take i ++ l.drop (i + 1)

/-- Little-endian bytes of a number. -/
def leBytes (n x : Nat) : List Byte := (List.range n).map fun i => BitVec.ofNat 8 (x >>> (8 * i))

/-- The number that little-endian bytes spell. -/
def leNat : List Byte → Nat
  | [] => 0
  | b :: bs => b.toNat + 256 * leNat bs

/-- Apply an operation for every element of a list, in order. -/
def forAll {α σ : Type} (l : List α) (f : σ → α → σ) (s : σ) : σ := l.foldl f s

/-! ## Registers -/

/-- The offset of an address within its layout, by layout (R446, R447). -/
def spaceOf (a : Nat) : Space × Nat :=
  if a < 0x01000000 then (.module, a)
  else if a < 0x02000000 then
    let o := (a - 0x01000000) % 0x100000
    if 0x40000 ≤ o ∧ o < 0x70000 then (.tile, (o - 0x40000) % 0x1000) else (.partition, o)
  else (.doorbell, (a - 0x02000000) % 0x1000)

/-- Does offset `o` lie at `base` plus index multiples of the (stride, count) pairs? -/
def matchDims : Nat → List (Nat × Nat) → Nat → Bool
  | base, [], o => o = base
  | base, (st, n) :: ds, o =>
    decide (base ≤ o) && (let i := (o - base) / st; decide (i < n) && matchDims (base + i * st) ds o)

/-- Stage words lie closer together than their entries: their entry index comes first (R249). -/
def rowMatches (r : RegRow) (sp : Space) (o : Nat) : Bool := r.space = sp && matchDims r.base r.dims o

/-- The row of the register tables that an address falls in. -/
def findRow (a : Nat) : Option RegRow :=
  let (sp, o) := spaceOf a
  if a % 4 = 0 then regTable.find? fun r => rowMatches r sp o else none

/-- The word a register holds after reset, from its fields' reset values. -/
def rowReset (r : RegRow) : Word := BitVec.ofNat 32 (r.fields.foldl (fun n f => n + f.reset <<< f.lo) 0)

/-- What a register reads as while its address is not listed: its reset value, zero for a reserved address. -/
def regReset (a : Nat) : Word := match findRow a with | some r => rowReset r | none => 0

/-- The stored word of a register. -/
def State.rw (s : State) (a : Nat) : Word := mapGet (regReset a) s.regs a

/-- Store a register word. -/
def State.ww (s : State) (a : Nat) (v : Word) : State := { s with regs := mapSet (regReset a) s.regs a v }

/-- A field of a stored register. -/
def State.get (s : State) (f : Slot) : Nat := bitsOf (s.rw f.reg).toNat f.hi f.lo

/-- A word with bits [hi:lo] replaced. -/
def setBits (w : Word) (hi lo v : Nat) : Word :=
  BitVec.ofNat 32 (w.toNat % 2 ^ lo + (v % 2 ^ (hi - lo + 1)) <<< lo + (w.toNat >>> (hi + 1)) <<< (hi + 1))

/-- Store a field of a register. -/
def State.put (s : State) (f : Slot) (v : Nat) : State := s.ww f.reg (setBits (s.rw f.reg) f.hi f.lo v)

/-- Add to a count, with a free value where the count would pass its largest value. -/
def State.inc (s : State) (f : Slot) (k : Nat := 1) : State :=
  let n := s.get f + k
  s.put f (if n < 2 ^ (f.hi - f.lo + 1) then n else Config.countOverflow f.reg)

/-- Add to a count that the spec says saturates. -/
def State.incSat (s : State) (f : Slot) (k : Nat := 1) : State :=
  s.put f (min (s.get f + k) (2 ^ (f.hi - f.lo + 1) - 1))

/-- A pair of registers read as one number. -/
def State.get2 (s : State) (lo hi : Slot) : Nat := s.get lo + (s.get hi) <<< 32

/-- Store a pair of registers. -/
def State.put2 (s : State) (lo hi : Slot) (v : Nat) : State := (s.put lo (v % 2 ^ 32)).put hi (v >>> 32)

/-! ## Outcomes -/

/-- A command's outcome is a next state: the waiting commands and the fused values stay as they were. -/
def State.answer (s t : State) : Host.Outcome State Fault Refusal := .next { t with fuses := s.fuses, pending := s.pending }

/-- The same for a command that acts on control registers and queues alone: it touches no store of bytes, cornice word or
compute register. -/
def State.answerCtl (s t : State) : Host.Outcome State Fault Refusal :=
  .next { t with fuses := s.fuses, pending := s.pending, bulk := s.bulk }

/-! ## Components by number -/

def State.dom (s : State) (d : Nat) : Dom := s.doms[d]?.getD {}
def State.setDom (s : State) (d : Nat) (x : Dom) : State := { s with doms := s.doms.setIfInBounds d x }
def State.modDom (s : State) (d : Nat) (f : Dom → Dom) : State := s.setDom d (f (s.dom d))
def State.port (s : State) (p : Nat) : Port := s.ports[p]?.getD {}
def State.setPort (s : State) (p : Nat) (x : Port) : State := { s with ports := s.ports.setIfInBounds p x }
def State.modPort (s : State) (p : Nat) (f : Port → Port) : State := s.setPort p (f (s.port p))
def State.srvAt (s : State) (p : Nat) : Srv := s.srv[p]?.getD {}
def State.setSrv (s : State) (p : Nat) (x : Srv) : State := { s with srv := s.srv.setIfInBounds p x }
def State.modSrv (s : State) (p : Nat) (f : Srv → Srv) : State := s.setSrv p (f (s.srvAt p))
def State.pendAt (s : State) (p : Nat) : Pend := s.pend[p]?.getD {}
def State.setPend (s : State) (p : Nat) (x : Pend) : State := { s with pend := s.pend.setIfInBounds p x }
def State.ethAt (s : State) (e : Nat) : Eth := s.eth[e]?.getD {}
def State.setEth (s : State) (e : Nat) (x : Eth) : State := { s with eth := s.eth.setIfInBounds e x }

/-- The glacier counter (R312). -/
def State.now (s : State) : Nat := s.clk.glacier

/-! ## Ticks -/

def State.period (s : State) : Nat := s.get Reg.CLK_COURSE_PERIOD.PERIOD
def State.origin (s : State) : Nat := s.get2 Reg.CLK_TICK_ORIGIN_LO.ORIGIN Reg.CLK_TICK_ORIGIN_HI.ORIGIN
def State.originCourse (s : State) : Nat := s.get2 Reg.CLK_ORIGIN_COURSE_LO.ORIGIN_COURSE Reg.CLK_ORIGIN_COURSE_HI.ORIGIN_COURSE

/-- Glacier count of tick k (R12). -/
def State.tickTime (s : State) (k : Nat) : Nat := s.origin + (k + 2 ^ 48 - s.originCourse) % 2 ^ 48 * s.period

/-- The check of RACK_SYNC (R17): the ticks that have had no edge within 2 counts, and to which none can come any more, are
counted as missing. -/
def State.syncJudge (s : State) : State :=
  if s.clk.openTicks = [] then s
  else if s.get Reg.CLK_COURSE_CTRL.SYNC_CHECK_EN = 0 then { s with clk := { s.clk with openTicks := [] } }
  else
    let gone (k : Nat) : Bool := decide ((s.tickTime k : Int) + 2 < s.clk.glacier + signedOf 16 (s.get Reg.CLK_SYNC_DELAY.DELAY))
    let n := (s.clk.openTicks.filter gone).length
    if n = 0 then s
    else { (s.put Reg.CLK_SYNC_STATUS.SYNC_MISSING 1).inc Reg.CLK_SYNC_MISS_COUNT.MISSES n with
      clk := { s.clk with openTicks := s.clk.openTicks.filter fun k => !gone k } }

/-- A moment kept as a glacier count, `d` counts on. -/
def shiftBy (d : Int) (g : Nat) : Nat := ((g : Int) + d).toNat

/-- The moments that a domain, a port and what waits keep, after the counter has been loaded `d` counts from where it would
have gone on: the time that has passed since them stays the same. -/
def Dom.shift (d : Int) (x : Dom) : Dom :=
  { x with startG := shiftBy d x.startG, tickG := shiftBy d x.tickG, baseG := shiftBy d x.baseG,
           launch := x.launch.map fun l => (shiftBy d l.1, l.2.1, shiftBy d l.2.2) }
def Port.shift (d : Int) (x : Port) : Port :=
  { x with downAt := shiftBy d x.downAt, exchAt := x.exchAt.map (shiftBy d), trainedAt := shiftBy d x.trainedAt,
           replaying := x.replaying.map (shiftBy d) }
def State.shiftTime (s : State) (d : Int) : State :=
  { s with
    clk := { s.clk with lostAt := s.clk.lostAt.map (· + d), slewAt := shiftBy d s.clk.slewAt, stepDue := s.clk.stepDue.map (shiftBy d) }
    doms := s.doms.map (Dom.shift d)
    ports := s.ports.map (Port.shift d)
    fab := { s.fab with holds := s.fab.holds.map fun h => { h with since := shiftBy d h.since } }
    pend := s.pend.map fun q => { q with waiting := q.waiting.map fun h => { h with since := shiftBy d h.since } }
    mor := { s.mor with swaps := s.mor.swaps.map fun x => { x with startG := shiftBy d x.startG },
                        shadow := s.mor.shadow.map fun e => (e.1, shiftBy d e.2) }
    gov := { s.gov with throttle := s.gov.throttle.map fun t => (shiftBy d t.1, t.2) }
    park := { s.park with handles := s.park.handles.map fun h => { h with expiry := shiftBy d h.expiry } }
    disc := { s.disc with commitAt := shiftBy d s.disc.commitAt }
    eth := s.eth.map fun e => { e with pausedTo := shiftBy d e.pausedTo } }

/-- The counter's next count: it adds 1, modulo 2^64 (R312), or takes the value loaded into it while TICK_EN is 0 (R317). -/
def State.nextCount (s : State) : State :=
  let plain : State := { s with clk := { s.clk with glacier := (s.clk.glacier + 1) % 2 ^ 64, load := none } }
  match s.clk.load with
  | none => plain
  | some v =>
    if s.get Reg.CLK_COURSE_CTRL.TICK_EN = 1 then plain
    else
      let s := s.shiftTime ((v : Int) - (s.clk.glacier + 1 : Nat))
      { s with clk := { s.clk with glacier := v, load := none } }

/-- One glacier count passes, and RACK_SYNC is checked. -/
def idleTick (s : State) : State := s.nextCount.syncJudge

/-- Time has come at least to a moment: the glacier counter is not behind it. A value that waits to be loaded is taken at the
first count on the way. -/
def State.atLeast (s : State) (g : Nat) : State :=
  if g ≤ s.clk.glacier then s
  else match s.clk.load with
    | some v =>
      if s.get Reg.CLK_COURSE_CTRL.TICK_EN = 1 then { s with clk := { s.clk with glacier := g, load := none } }
      else
        let t := s.shiftTime ((v : Int) - (s.clk.glacier + 1 : Nat))
        { t with clk := { t.clk with glacier := v + (g - (s.clk.glacier + 1)), load := none } }
    | none => { s with clk := { s.clk with glacier := g } }

/-! ## Output and free values -/

/-- Log something that leaves the module. -/
def State.send (s : State) (o : Out) : State := { s with out := s.out ++ [o] }
/-- A free value, and the counter of free values moved on. -/
def State.fresh (s : State) : Nat × State := (Config.freeValue s.freeCtr, { s with freeCtr := s.freeCtr + 1 })

/-! ## Geometry -/

/-- Partition of a logical ashlar: floor(column / 4). -/
def partOf (a : Nat) : Nat := a % 48 / 4
/-- Index i = r x 4 + k of a logical ashlar within its partition. -/
def idxOf (a : Nat) : Nat := a / 48 * 4 + a % 4
/-- Logical ID of index `i` of partition `p` (R49). -/
def ashOf (p i : Nat) : Nat := i / 4 * 48 + p * 4 + i % 4
/-- The ashlars of a partition, by ascending index. -/
def partAsh (p : Nat) : List Nat := (List.range 48).map (ashOf p)
/-- Mesh latency M between two logical places, columns counted from 1 so that a port stop is column 0 or 49 (R289, R326). -/
def meshLat (r1 c1 r2 c2 : Nat) : Nat :=
  let dr := max r1 r2 - min r1 r2
  let dc := max c1 c2 - min c1 c2
  4 + 3 * (dr + dc) + (if (c1 ≤ 24) = (c2 ≤ 24) then 0 else 14)
/-- Mesh latency between two ashlars. -/
def ashLat (a b : Nat) : Nat := meshLat (a / 48) (a % 48 + 1) (b / 48) (b % 48 + 1)
/-! ## The repair map (R50, R51, R53) -/

/-- The dead places of a half-row, ascending: the first is D. -/
def deadIn (dead : List (Nat × Nat)) (hr : Nat) : List Nat := (List.range 25).filter fun d => dead.contains (hr, d)
/-- Partitions that a half-row's second and further dead ashlars disable. -/
def deadParts (dead : List (Nat × Nat)) : List Nat :=
  ((List.range 24).flatMap fun hr => ((deadIn dead hr).drop 1).map fun d => (24 * (hr % 2) + d - 1) / 4).eraseDups
/-- The half-row and half-local physical place of a logical ashlar under the map in force. -/
def State.physPlace (s : State) (ash : Nat) : Nat × Nat :=
  let hr := ash / 48 * 2 + ash % 48 / 24
  let j := ash % 48 % 24
  (hr, if j < (deadIn s.mgmt.dead hr).headD 24 then j else j + 1)

/-! ## Latencies -/

/-- Crossbar latency L(s) of a slice (R59). -/
def sliceLat (s : Nat) : Nat := 3 + s / 2

/-- IDENT_PARTS.FUSED bit of a partition (R1, R452). -/
def State.fused (s : State) (p : Nat) : Bool := decide (p < 12) && (s.fuses.grade = 1 || (p ≠ 5 && p ≠ 11))
/-- IDENT_PARTS.AVAIL bit of a partition (R430). -/
def State.avail (s : State) (p : Nat) : Bool := s.fused p && !s.mgmt.disabled.contains p
/-- Mask of twelve partition bits. -/
def mask12 (f : Nat → Bool) : Nat := (List.range 12).foldl (fun m p => if f p then m + 2 ^ p else m) 0
/-- IDENT as it reads: the grade is fused (R1, R451). -/
def State.identWord (s : State) : Word := setBits (s.rw Reg.IDENT.addr) 15 8 s.fuses.grade
/-- IDENT_PARTS as it reads (R1, R430). -/
def State.identParts (s : State) : Word := BitVec.ofNat 32 (mask12 s.fused + mask12 s.avail <<< 16)
/-- MGT_PART_STATUS.USED of a partition (R428). -/
def State.used (s : State) (p : Nat) : Bool := s.get (Reg.MGT_PART_STATUS.USED p) = 1
/-- The lead of a partition's domain (R20); an unused partition stands alone. -/
def State.leadOf (s : State) (p : Nat) : Nat := if s.used p then s.get (Reg.SEQ_DOMAIN.LEAD p) else p
/-- Members of the domain that `d` leads, in ascending order, which is rank order (R170). -/
def State.members (s : State) (d : Nat) : List Nat :=
  (List.range 12).filter fun p => bitOf (s.get (Reg.SEQ_DOMAIN.MEMBERS d)) p
/-- The ashlars of a domain in domain order: ascending rank, then ascending index (R255). -/
def State.domAsh (s : State) (d : Nat) : List Nat := (s.members d).flatMap partAsh
/-- The rank of a partition in a domain. -/
def State.rankOf (s : State) (d p : Nat) : Nat := ((s.members d).filter fun q => q < p).length
def State.armed (s : State) (d : Nat) : Bool := s.get (Reg.SEQ_COURSE_STATUS.ARMED d) = 1
def State.running (s : State) (d : Nat) : Bool := s.get (Reg.SEQ_COURSE_STATUS.RUNNING d) = 1
def State.halted (s : State) (d : Nat) : Bool := s.get (Reg.SEQ_HALT_CODE.VALID d) = 1
def State.tickEn (s : State) : Bool := s.get Reg.CLK_COURSE_CTRL.TICK_EN = 1
def State.courseNum (s : State) : Nat := s.get2 Reg.CLK_COURSE_NUM_LO.COURSE_NUM Reg.CLK_COURSE_NUM_HI.COURSE_NUM
def State.debug (s : State) : Bool := s.get Reg.IDENT.DEBUG = 1
/-- This module's ID, as the last plan commit left it (R353, R354). -/
def State.moduleId (s : State) : Nat := s.disc.moduleId
/-- The domain of an ashlar. -/
def State.domOf (s : State) (ash : Nat) : Nat := s.leadOf (partOf ash)
def State.moduleSealed (s : State) : Bool := s.get Reg.MGT_SEAL.MODULE = 1
def State.partSealed (s : State) (p : Nat) : Bool := bitOf (s.get Reg.MGT_SEAL.PART) p
def State.resetting (s : State) (p : Nat) : Bool := s.get (Reg.MGT_PART_STATUS.RESETTING p) = 1
/-- Any domain armed. -/
def State.anyArmed (s : State) : Bool := (List.range 12).any s.armed
/-- The step in force for a partition's half (R302). -/
def State.stepOf (s : State) (p : Nat) : Nat := if p < 6 then s.get Reg.CLK_STEP_CUR.STEP_W else s.get Reg.CLK_STEP_CUR.STEP_E
/-- Glacier counts to cycles at step n, rounded up: one count is (60 + 7n) / 10 cycles. -/
def cyclesOf (n g : Nat) : Nat := ceilDiv (g * (60 + 7 * n)) 10
/-- Cycles to glacier counts at step n, rounded up. -/
def countsOf (n c : Nat) : Nat := ceilDiv (c * 10) (60 + 7 * n)
/-- The course number that records of a partition carry (R491). -/
def State.courseOf (s : State) (p : Nat) : Nat :=
  if p < 12 ∧ s.running (s.leadOf p) then (s.dom (s.leadOf p)).course else s.courseNum

/-! ## Time of a domain -/

/-- Counts of ten glacier counts per cycle at the domain's step: one count is (60 + 7n) / 10 cycles (R302). -/
def State.rate (s : State) (d : Nat) : Nat := 60 + 7 * s.stepOf d
/-- Length of the wall cycles before `w`, in eighths of a cycle of the step: the lead's stretched cycles are longer (R39). -/
def Dom.eighths (x : Dom) (w : Nat) : Nat :=
  8 * (w - x.baseW) + (x.slow.map fun v => v.2.2 * (min w (v.2.1.getD w) - max v.1 x.baseW)).sum
/-- The time at which a wall cycle begins. -/
def Dom.timeOf (x : Dom) (w : Nat) : Nat := x.baseT + x.eighths w
/-- The wall cycle that `e` eighths after wall cycle `w` lie in, given the stretches from there on. -/
def wallAfter (w e : Nat) : List (Nat × Option Nat × Nat) → Nat
  | [] => w + e / 8
  | (a, fin, k) :: l =>
    if e ≤ 8 * (a - w) then w + e / 8
    else
      let a := max a w
      let e := e - 8 * (a - w)
      match fin with
      | none => a + e / (8 + k)
      | some b => if e < (8 + k) * (b - a) then a + e / (8 + k) else wallAfter (max a b) (e - (8 + k) * (b - a)) l
/-- The first wall cycle that begins at a time or after it. -/
def Dom.wallFrom (x : Dom) (t : Nat) : Nat :=
  let w := wallAfter x.baseW (t - x.baseT) x.slow
  if x.timeOf w < t then w + 1 else w
/-- Glacier count in which a wall cycle of the domain lies (R25, R39, R307). -/
def State.glacierOf (s : State) (d w : Nat) : Nat :=
  let x := s.dom d
  x.baseG + ceilDiv (x.eighths w * 10) (8 * s.rate d)
/-- The wall cycle of a domain that a glacier count lies in. -/
def State.wallAt (s : State) (d g : Nat) : Nat :=
  let x := s.dom d
  wallAfter x.baseW ((g - x.baseG) * s.rate d * 8 / 10) x.slow
/-- Time has come at least to a wall cycle of a running domain. -/
def State.reachWall (s : State) (d w : Nat) : State :=
  let x := s.dom d
  if s.running d then s.atLeast (x.baseG + x.eighths w * 10 / (8 * s.rate d)) else s
/-- Time has come at least to the wall cycle that a running domain has reached. -/
def State.syncTime (s : State) (d : Nat) : State := s.reachWall d (s.dom d).wall
/-! ## Fault log -/

/-- The eight little-endian 64-bit words of a record (R489), as sixteen 32-bit words. -/
def FRec.words (r : FRec) : List Nat :=
  let w0 := r.code + r.effect <<< 8 + r.source <<< 10 + r.part <<< 12 + r.ash <<< 16
    + (if r.pc.isSome then 1 <<< 22 else 0) + r.rep <<< 24
  [w0, r.pc.getD 0, r.course % 2 ^ 32, r.course >>> 32, r.glacier % 2 ^ 32, r.glacier >>> 32, r.cycle, r.seq,
   r.detail % 2 ^ 32, r.detail >>> 32, r.detail2 % 2 ^ 32, r.detail2 >>> 32, r.image, 0, 0, 0]

/-- Write words at consecutive register addresses. -/
def State.wwList (s : State) (a : Nat) : List Nat → State
  | [] => s
  | x :: xs => (s.ww a (BitVec.ofNat 32 x)).wwList (a + 4) xs

/-- An MSI-X event of the PF (fn 0) or of the VF of partition n (fn n + 1), subject to the function's mask (R524): behind it a vector
waits, once, and fires when the mask is taken away (PRESUMED, log entry 75). -/
def State.irq (s : State) (fn v : Nat) : State :=
  if !s.pciUp then s
  else if s.pci.masked.contains fn then
    if s.pci.waiting.contains (fn, v) then s else { s with pci := { s.pci with waiting := s.pci.waiting ++ [(fn, v)] } }
  else s.send (.irq fn v)

/-- What goes out of an Ethernet port now, protected where MACSEC_EN is set (R533). -/
def State.framed (s : State) (e : Nat) (o : Out) : Out :=
  if s.get (Reg.ETH_CTRL.MACSEC_EN e) = 1 then
    match (s.ethAt e).txSa.head? with
    | some a => .macsec a.an a.pn o
    | none => o
  else o

/-- A frame leaves an Ethernet port. -/
def State.sendFrame (s : State) (e : Nat) (o : Out) : State :=
  let t := s.send (s.framed e o)
  if s.get (Reg.ETH_CTRL.MACSEC_EN e) = 1 then
    match (s.ethAt e).txSa with
    | a :: l => t.setEth e { s.ethAt e with txSa := { a with pn := a.pn + 1 } :: l }
    | [] => t
  else t

/-- A port's priority is paused (R528); every frame it sends is of that priority (log entry 123, DESIGN CHOICE). -/
def State.ethPaused (s : State) (e : Nat) : Bool := decide (s.now < (s.ethAt e).pausedTo)

/-- A frame leaves an Ethernet port, or waits while the port's priority is paused. -/
def State.sendEth (s : State) (e : Nat) (o : Out) : State :=
  if s.ethPaused e || !(s.ethAt e).held.isEmpty then s.setEth e { s.ethAt e with held := (s.ethAt e).held ++ [o] } else s.sendFrame e o

/-- Codes of non-halting records that Boluk copies to flash as well (R494). -/
def copyCodes : List Nat := [0x24, 0x27, 0x40, 0x64, 0x80, 0x82]

/-- A record is copied to flash (R494). -/
def FRec.copied (r : FRec) : Bool := r.effect = 0 || r.effect = 2 || copyCodes.contains r.code

/-- The records that wait to be copied. -/
def FltBook.copies (b : FltBook) : List FRec := b.toCopy ++ b.cur.filter FRec.copied

/-- One record comes before another of its glacier count (R492): by CODE, PART, ASHLAR. -/
def FRec.before (a b : FRec) : Bool :=
  decide (a.code < b.code) || (a.code = b.code && (decide (a.part < b.part) || (a.part = b.part && decide (a.ash < b.ash))))

/-- Put a record in its place among those of its glacier count. -/
def insertRec : List FRec → FRec → List FRec
  | [], r => [r]
  | x :: l, r => if r.before x then r :: x :: l else x :: insertRec l r

/-- Consecutive SEQ values from the first on (R492). -/
def numberRecs : List FRec → Nat → List FRec
  | [], _ => []
  | r :: l, q => { r with seq := q % 2 ^ 32 } :: numberRecs l (q + 1)

/-- A record is written at its place of the on-die log (R493). -/
def State.storeRec (s : State) (r : FRec) : State :=
  (if 512 ≤ r.seq then s.put Reg.FLT_STATUS.WRAPPED 1 else s).wwList (Reg.FLT_REC.addr (r.seq % 512) 0) r.words

/-- Where a record of this glacier count stands after another has taken place `pos`: none when it is no longer written. -/
def movedSeq (first n pos seq : Nat) : Option Nat :=
  let i := seq - first
  if first ≤ seq ∧ i < n ∧ pos ≤ i then (if i + 1 < 8 then some (seq + 1) else none) else some seq

/-- Interrupts of a record that is written (R524). -/
def State.recIrq (s : State) (r : FRec) : State :=
  let s := if r.effect = 0 ∨ r.effect = 2 then s.irq 0 1 else s
  if r.effect = 0 ∧ r.part < 12 then s.irq (r.part + 1) 5 else s

/-- Log one record (R492): it takes its place among those of its glacier count, of which the first 8 are written. -/
def State.logRec (s : State) (r : FRec) : State :=
  let r := { r with glacier := s.now, image := s.get Reg.MGT_IMAGE_ID.ID }
  let next := s.get Reg.FLT_NEXT_SEQ.SEQ
  let same := s.flt.lastG = s.now ∧ (s.flt.cur.getLast?.map fun (x : FRec) => (x.seq + 1) % 2 ^ 32) = some next
  let cur := if same then s.flt.cur else []
  let first := (next + 2 ^ 32 - cur.length) % 2 ^ 32
  let pos := (cur.filter fun x => !r.before x).length
  let l := numberRecs (insertRec cur r) first
  let out := l.drop 8
  let s := { s with flt := { s.flt with
    lastG := s.now
    cur := l.take 8
    toCopy := if same then s.flt.toCopy else s.flt.copies
    firsts := s.flt.firsts.filterMap fun f => (movedSeq first cur.length pos f.2.2.2).map fun q => (f.1, f.2.1, f.2.2.1, q) } }
  let s := forAll ((l.take 8).drop pos) State.storeRec s
  let s := if pos < 8 then (if r.effect = 0 then s.inc Reg.FLT_HALTS.COUNT else s).recIrq r else s
  if out = [] then s.put Reg.FLT_NEXT_SEQ.SEQ ((next + 1) % 2 ^ 32)
  else
    let s := if pos < 8 ∧ (out.any fun x => x.effect = 0) then s.put Reg.FLT_HALTS.COUNT (s.get Reg.FLT_HALTS.COUNT - 1) else s
    (s.inc Reg.FLT_DROPPED.COUNT).put Reg.FLT_STATUS.DROPPED 1

/-- A record of a domain that runs is of the glacier count that the domain has reached and carries its course and schedule
cycle (R489). -/
def State.stamp (s : State) (r : FRec) : State × FRec :=
  let d := s.leadOf r.part
  if r.part < 12 ∧ s.running d then
    (s.syncTime d, { r with course := s.courseOf r.part, cycle := if r.cycle = 0 then (s.dom d).cyc else r.cycle })
  else (s, { r with course := s.courseOf r.part })

/-- Log a record whose own rule says how often it is logged. -/
def State.logOnce (s : State) (r : FRec) : State := let (s, r) := s.stamp r; s.logRec r

/-- A later occurrence adds to REPEAT of the first record (R491), while the log still holds it. -/
def State.repeatRec (s : State) (seq : Nat) : State :=
  let a := Reg.FLT_REC.addr (seq % 512) 0
  if s.rw (a + 28) = BitVec.ofNat 32 seq then
    let n := min 255 (bitsOf (s.rw a).toNat 31 24 + 1)
    let mark (x : FRec) : FRec := if x.seq = seq then { x with rep := n } else x
    let s := { s with flt := { s.flt with
      cur := s.flt.cur.map mark
      toCopy := s.flt.toCopy.map mark } }
    s.ww a (setBits (s.rw a) 31 24 n)
  else s

/-- Log an EVENT or DEBUG code at most once per course, partition and, for DEBUG, ashlar; later ones add to REPEAT of
the first record (R491). -/
def State.logEvent (s : State) (r : FRec) : State :=
  let (s, r) := s.stamp r
  let place := r.part * 64 + (if r.effect = 3 then r.ash else 0)
  match s.flt.firsts.find? fun f => f.1 = r.code ∧ f.2.1 = place ∧ f.2.2.1 = r.course with
  | some f => s.repeatRec f.2.2.2
  | none =>
    let s := s.logRec r
    match s.flt.cur.find? fun x => x.code = r.code && x.part = r.part && x.ash = r.ash && x.course = r.course with
    | none => s
    | some x => { s with flt := { s.flt with firsts := (r.code, place, r.course, x.seq) ::
        (s.flt.firsts.filter fun f => ¬ (f.1 = r.code ∧ f.2.1 = place)) } }

/-! ## Scratchpad -/

/-- The spare row that stands in for a logical row, the lowest-numbered valid entry naming it (R80). -/
def State.spareRow (s : State) (ash slice row : Nat) : Option Nat :=
  (List.range 32).find? fun j =>
    let w := (s.rw (Reg.TILE_GROUT_ROW.addr (partOf ash) (idxOf ash) (slice * 32 + j))).toNat
    bitOf w 15 && w % 8192 = row

/-- Physical word number of word (row, column) of a slice: row remaps (R80), then the bank remap (R55, R79). -/
def State.physWord (s : State) (ash slice row col : Nat) : Nat :=
  let pr := match s.spareRow ash slice row with | some j => 8192 + j | none => row
  let g := (s.rw (Reg.TILE_GROUT_BANK.addr (partOf ash) (idxOf ash) slice)).toNat
  let c := if bitOf g 7 && (row + col) % 64 = g % 64 then 64 else col
  ((ash * 8 + slice) * 8224 + pr) * 65 + c

/-- Physical byte number of a tile-local address (R54). -/
def State.physByte (s : State) (ash addr : Nat) : Nat :=
  s.physWord ash (bitsOf addr 24 22) (bitsOf addr 21 9) (bitsOf addr 8 3) * 8 + addr % 8

/-- A scratchpad byte. Unlisted bytes read as zero: the slices are cleared at reset (R73, R454). -/
def State.rdByte (s : State) (ash addr : Nat) : Byte := mapGet 0 s.bulk.scratch (s.physByte ash addr)

/-- Write a scratchpad byte. A write makes its word's check bits valid. -/
def State.wrByte (s : State) (ash addr : Nat) (v : Byte) : State :=
  let p := s.physByte ash addr
  { s with bulk := { s.bulk with scratch := mapSet 0 s.bulk.scratch p v, upset := mapSet 0 s.bulk.upset (p / 8) 0 } }

/-- Consecutive scratchpad bytes. -/
def State.rdBytes (s : State) (ash addr n : Nat) : List Byte := (List.range n).map fun i => s.rdByte ash (addr + i)

/-- Write consecutive scratchpad bytes. -/
def State.wrBytes (s : State) (ash addr : Nat) : List Byte → State
  | [] => s
  | b :: bs => (s.wrByte ash addr b).wrBytes ash (addr + 1) bs

/-- A slice is usable (R73). -/
def State.sliceReady (s : State) (ash slice : Nat) : Bool :=
  bitOf (s.get (Reg.TILE_SLICE_PWR.READY (partOf ash) (idxOf ash))) slice

/-! ## Moraine -/

/-- A moraine byte. The contents of the moraine are lost at a cold reset (R454); an unlisted byte reads as zero, the
model's choice (log entry 5). -/
def State.morByte (s : State) (a : Nat) : Byte := mapGet 0 s.bulk.moraine a
def State.morBytes (s : State) (a n : Nat) : List Byte := (List.range n).map fun i => s.morByte (a + i)
def State.morWrByte (s : State) (a : Nat) (v : Byte) : State :=
  { s with bulk := { s.bulk with moraine := mapSet 0 s.bulk.moraine a v } }
/-- The stack a moraine row lies in (R403). -/
def stackOf (row : Nat) : Nat := 8 * (row % 4) + row / 4 % 8
def State.stackFailed (s : State) (row : Nat) : Bool := s.get (Reg.MOR_STACK.STATE (stackOf row)) = 2
/-- A row reads uncorrectable: its stack has failed, or it is bad and not yet rewritten (R414, R415). -/
def State.rowBad (s : State) (row : Nat) : Bool := s.stackFailed row || decide (mapGet 0 s.mor.bad row ≠ 0)
/-- Write moraine bytes; a write to a row of a failed stack is discarded (R415), a whole-row write mends the row. -/
def State.morWrite (s : State) (a : Nat) : List Byte → State
  | [] => s
  | b :: bs => (if s.stackFailed (a / 512) then s else s.morWrByte a b).morWrite (a + 1) bs
def State.mendRow (s : State) (row : Nat) : State :=
  if s.stackFailed row then s else { s with mor := { s.mor with bad := mapSet 0 s.mor.bad row 0 } }
/-- A whole granule of a row is rewritten: the row is good again once all of its granules have been. -/
def State.mendGran (s : State) (row g : Nat) : State :=
  if s.stackFailed row then s
  else { s with mor := { s.mor with bad := mapSet 0 s.mor.bad row (mapGet 0 s.mor.bad row &&& (255 - 2 ^ g)) } }

/-- Write whole granules of the moraine from a row on: rows and granules that are rewritten are good again. -/
def State.writeGrans (s : State) (a : Nat) (data : List Byte) : State :=
  let s := s.morWrite a data
  if a % 64 = 0 then
    forAll (List.range (data.length / 64)) (fun s i => s.mendGran ((a / 64 + i) / 8) ((a / 64 + i) % 8)) s
  else s

/-! ## Control cores and the cornice -/

/-- A control-core register by selector: 0-31 s, 32-47 a, 48-55 p, 56-59 z (R168). p0 reads 1. -/
def coreGet (m : SMap Word) (ash sel : Nat) : Word := if sel = 48 then 1 else mapGet 0 m (ash * 64 + sel)
/-- Write a control-core register; a write to p0 is discarded (R168). -/
def State.coreSet (s : State) (ash sel : Nat) (v : Word) : State :=
  if sel = 48 then s else { s with bulk := { s.bulk with core := mapSet 0 s.bulk.core (ash * 64 + sel) v } }
def State.coreGet (s : State) (ash sel : Nat) : Word := Sys2Proof.Machine.coreGet s.bulk.core ash sel
def State.cornice (s : State) (part ia : Nat) : Quad := mapGet 0 s.bulk.cornice (part * 6144 + ia)
def State.setCornice (s : State) (part ia : Nat) (w : Quad) : State :=
  { s with bulk := { s.bulk with cornice := mapSet 0 s.bulk.cornice (part * 6144 + ia) w } }

/-- The member partition and local bank of a domain bank (R170). -/
def State.bankPlace (s : State) (d bank : Nat) : Option (Nat × Nat) :=
  (s.members d)[bank / 12]?.map fun p => (p, bank % 12)
/-- State of a domain bank (R174). -/
def State.bankState (s : State) (d bank : Nat) : Nat :=
  match s.bankPlace d bank with | some (p, b) => s.get (Reg.SEQ_BANK.STATE p b) | none => 0
/-- The cornice word at a domain instruction address. -/
def State.fetchWord (s : State) (d ia : Nat) : Quad :=
  match s.bankPlace d (ia / 512) with | some (p, b) => s.cornice p (b * 512 + ia % 512) | none => 0

end Sys2Proof.Machine
end

