-- ==== Sys2Proof/Machine/Record.lean ====
section
/-! DEFINITION. The record engine: entries written to the record region (R510 to R514) and the comparison of a replay
(R517). An entry waits in the staging buffer, among the moraine's writes, until MORAINE_WRITE_PERFORMED (log entry 21). -/

namespace Sys2Proof.Machine

/-- The record engine records partition `p` (R510): MODE 1 in force, started, the partition chosen. -/
def State.recording (s : State) (p : Nat) : Bool :=
  s.recd.mode = 1 && s.recd.started && bitOf (s.get Reg.REC_CTRL.PARTS) p && !s.recd.stopped.contains p

/-- The partition is replayed (R515). -/
def State.replaying (s : State) (p : Nat) : Bool := s.recd.mode = 2 && bitOf (s.get Reg.REC_CTRL.PARTS) p

/-- Little-endian bytes of 64-bit words. -/
def quadBytes (ws : List Nat) : List Byte := ws.flatMap (leBytes 8)

/-- Bytes made up with zeros to whole granules. -/
def padGran (b : List Byte) : List Byte := b ++ List.replicate ((64 - b.length % 64) % 64) 0

/-- Bytes in the staging buffer. -/
def State.stagedBytes (s : State) : Nat := ((s.mor.writes.filter (·.staged)).map (·.data.length)).sum

/-- A piece of an entry waits to be written at byte `a` of the moraine. -/
def stagedPiece (a : Nat) (b : List Byte) : List MorWrite :=
  if b.isEmpty then [] else [{ row := a / 512, off := a % 512, data := b, staged := true }]

/-- Granules for the record region from 64-byte unit `u` on enter the staging buffer; what passes the region's end goes to its
beginning (R514). -/
def State.recWrite (s : State) (base size u : Nat) (b : List Byte) : State :=
  let n := (size - u) * 64
  { s with mor := { s.mor with
    writes := s.mor.writes ++ stagedPiece (base + u * 64) (b.take n) ++ stagedPiece base ((b.drop n).take (size * 64)) } }

/-- The staging buffer has no room for an entry: it is lost, and its partition is recorded no more (R514). -/
def State.recBehind (s : State) (p : Nat) : State :=
  let s := (s.put Reg.REC_STATUS.BEHIND 1).inc Reg.REC_LOST.COUNT
  { s with recd := { s.recd with stopped := p :: s.recd.stopped } }

/-- Append one entry to the record, unless its partition's recording has stopped (R511, R514). -/
def State.recEnt (s : State) (e : REnt) : State :=
  let pay := padGran e.payload
  let g := pay.length / 64
  let base := s.get (Reg.MOR_BASE.BASE 2) * 65536
  let size := s.get (Reg.MOR_SIZE.SIZE 2) * 1024
  let ptr := s.recd.ptr
  let wrap := s.get Reg.REC_CTRL.WRAP = 1
  if s.recd.stopped.contains e.part then s
  else if size = 0 ∨ (!wrap ∧ size < ptr + 1 + g) then
    { (s.put Reg.REC_STATUS.FULL 1) with recd := { s.recd with stopped := List.range 12 } }
  else if Config.stagingBytes < s.stagedBytes + (1 + g) * 64 then s.recBehind e.part
  else
    let body : List Nat := (e.body ++ List.replicate 5 0).take 5
    let hdr := quadBytes ([e.kind + e.part <<< 4 + e.ctx <<< 8 + g <<< 16 + (s.recd.seq % 2 ^ 32) <<< 32, e.course,
      e.schedAt + (if e.pre then 2 ^ 32 else 0) + (if e.boundary then 2 ^ 33 else 0)] ++ body)
    let s := s.recWrite base size ptr (hdr ++ pay)
    let next := if wrap then (ptr + 1 + g) % size else ptr + 1 + g
    let s := { s with recd := { s.recd with seq := s.recd.seq + 1, ptr := next } }
    s.put2 Reg.REC_PTR_LO.PTR Reg.REC_PTR_HI.PTR next

/-- An event of a partition at this moment (R513): SCHED_AT is the number of schedule cycles issued; an event between
courses carries the next course and PRE. -/
def State.recEvent (s : State) (kind part ctx : Nat) (boundary : Bool) (body : List Nat) (payload : List Byte) : State :=
  if s.recording part then
    let d := s.leadOf part
    let run := s.running d
    let x := s.dom d
    let next := match (s.srvAt part).boundary with | some k => k | none => (x.course + 1) % 2 ^ 48
    s.recEnt { kind, part, ctx, course := if run then x.course else next,
               schedAt := if run then x.cyc else 0, pre := !run && !boundary, boundary, body, payload }
  else s

/-! ## Replay entries (R511, R515) -/

/-- The entry at byte `a` of the moraine, and where the next one starts. -/
def State.readEnt (s : State) (a : Nat) : REnt × Nat :=
  let w (i : Nat) : Nat := leNat (s.morBytes (a + 8 * i) 8)
  let g := bitsOf (w 0) 27 16
  ({ kind := bitsOf (w 0) 3 0, part := bitsOf (w 0) 7 4, ctx := bitsOf (w 0) 15 8, course := bitsOf (w 1) 47 0,
     schedAt := bitsOf (w 2) 31 0, pre := bitOf (w 2) 32, boundary := bitOf (w 2) 33, body := [w 3, w 4, w 5, w 6, w 7],
     payload := s.morBytes (a + 64) (64 * g) }, a + 64 + 64 * g)

/-- The entries of a record up to its END or the end of the library; `fuel` bounds them. -/
def State.readRecord (s : State) (top : Nat) : Nat → Nat → List REnt
  | 0, _ => []
  | fuel + 1, a =>
    let (e, b) := s.readEnt a
    if top < b ∨ e.kind = 15 then [] else e :: s.readRecord top fuel b

/-- The entries that a replay applies and those it compares with: of the chosen partitions; with ONE, of the one context and
the WRITE and LANDING entries (R516). COURSE and TRACE entries are neither. -/
def State.loadReplay (s : State) : State :=
  let units := s.get (Reg.MOR_SIZE.SIZE 0) * 1024
  let top := (s.get (Reg.MOR_BASE.BASE 0) + s.get (Reg.MOR_SIZE.SIZE 0)) * 65536
  let es := (s.readRecord top units (s.get Reg.REPLAY_SRC_LO.ROW * 512)).filter fun e =>
    bitOf (s.get Reg.REC_CTRL.PARTS) e.part
      && (s.get Reg.REPLAY_CTX.ONE = 0 || e.kind = 7 || e.kind = 8 || e.ctx = s.get Reg.REPLAY_CTX.CTX)
  { s with recd := { s.recd with
    todo := es.filter fun e => e.kind ≠ 0 && decide (e.kind < 10)
    outputs := es.filter fun e => e.kind = 10
    images := [] } }

/-- The course at which a recorded entry is applied (R515). -/
def State.replayCourse (s : State) (e : REnt) : Nat :=
  wrapInt 48 ((e.course : Int) + signedOf 48 (s.get2 Reg.REPLAY_OFFSET_LO.OFFSET Reg.REPLAY_OFFSET_HI.OFFSET))

/-- An entry is due now: at its partition's serving boundary, or in the wall cycle in which its schedule cycle issues. -/
def State.replayDue (s : State) (e : REnt) : Bool :=
  let d := s.leadOf e.part
  s.recd.mode = 2 &&
    (if e.pre || e.boundary then (s.srvAt e.part).boundary = some (s.replayCourse e)
     else s.running d && (s.dom d).course = s.replayCourse e && (s.dom d).cyc = e.schedAt)

/-- The granules of a recorded LANDING land ahead of its position: H cycles before it, at most as the course starts (R515, R516). -/
def State.replayAhead (s : State) (e : REnt) : Bool :=
  let d := s.leadOf e.part
  s.recd.mode = 2 && e.kind = 8 && !e.landed && !(e.pre || e.boundary) && s.running d && (s.dom d).course = s.replayCourse e
    && decide (e.schedAt ≤ (s.dom d).cyc + Config.H)

/-- An entry of a domain is due, or its granules are: its next instruction, or its partition's boundary, waits for it. -/
def State.replayHolds (s : State) (d : Nat) : Bool :=
  s.recd.todo.any fun e => s.leadOf e.part = d && (s.replayDue e || s.replayAhead e)

/-- MODE takes effect at a serving boundary, and recording starts at REC_START_COURSE or the first boundary after it (R510,
R520). MODE 3 is reserved and acts as 0 (log entry 56). -/
def State.recBoundary (s : State) (k : Nat) : State :=
  let s := match s.recd.want with
    | none => s
    | some m =>
      let fresh := m = 1 && s.recd.mode ≠ 1
      let s := if fresh then s.put2 Reg.REC_PTR_LO.PTR Reg.REC_PTR_HI.PTR 0 else s
      let s : State := { s with recd := { s.recd with
        mode := m % 3
        want := none
        started := s.recd.started && m = 1 && !fresh
        ptr := if fresh then 0 else s.recd.ptr
        stopped := if fresh then [] else s.recd.stopped
        todo := []
        outputs := [] } }
      if m = 2 then s.loadReplay else s
  let start := s.get2 Reg.REC_START_COURSE_LO.COURSE Reg.REC_START_COURSE_HI.COURSE
  let s : State := if s.recd.mode = 1 ∧ start ≤ k then { s with recd := { s.recd with started := true } } else s
  s.put Reg.REC_STATUS.ACTIVE (if s.recd.mode = 2 ∨ (s.recd.mode = 1 ∧ s.recd.started) then 1 else 0)

/-! ## Tokens and records -/

/-- Tokens packed 16 to a granule in 32-bit slots (R512). -/
def tokBytes (ts : List Nat) : List Byte := ts.flatMap (leBytes 4)

/-- A record's eight words (R387). -/
def Rec.words (r : Rec) (phase : Bool) : List Nat :=
  let b2n (b : Bool) : Nat := if b then 1 else 0
  let tok (i : Nat) : Nat := (r.tokens[2 * i]?.getD 0) + (r.tokens[2 * i + 1]?.getD 0) <<< 32
  let w3 := if r.kind = 0 then tok 0 else r.result.toNat
  [b2n phase + r.kind <<< 1 + b2n r.late <<< 4 + b2n r.gap <<< 5 + b2n r.done <<< 6 + r.ctx <<< 8 + r.part <<< 16
      + r.status <<< 24 + r.tag <<< 32 + (r.count % 128) <<< 48,
   r.course, r.position + r.user.toNat <<< 32, w3, tok 1, tok 2, tok 3, tok 4]

/-- A record's words without PHASE, LATE and GAP, its course moved by the replay offset (R517). -/
def Rec.compareWords (ws : List Nat) (off : Int) : List Nat :=
  match ws with
  | w0 :: w1 :: r => (w0 - (w0 % 2 + (w0 >>> 4 % 2) * 16 + (w0 >>> 5 % 2) * 32)) :: wrapInt 48 ((w1 : Int) + off) :: r
  | ws => ws

/-- The eight words of the record that an OUTPUT entry holds as its payload (R512). -/
def REnt.recordWords (e : REnt) : List Nat := (List.range 8).map fun i => leNat ((e.payload.drop (8 * i)).take 8)

/-- The OUTPUT entry of a released record, and its comparison in a replay (R512, R517). One released at a serving boundary carries
BOUNDARY (R513). -/
def State.recOutput (s : State) (r : Rec) : State :=
  let idle := (s.srvAt r.part).boundary.isSome && !s.running (s.leadOf r.part)
  let s := if s.get Reg.REC_CTRL.OUT_EN = 1 then s.recEvent 10 r.part r.ctx idle [] (quadBytes (r.words false)) else s
  let one := s.get Reg.REPLAY_CTX.ONE = 1
  if s.replaying r.part && (!one || r.ctx = s.get Reg.REPLAY_CTX.CTX) then
    let off := signedOf 48 (s.get2 Reg.REPLAY_OFFSET_LO.OFFSET Reg.REPLAY_OFFSET_HI.OFFSET)
    let k := s.recd.outputs.findIdx? fun e => e.part = r.part && (!one || e.ctx = r.ctx)
    let expect : Option (List Nat) := match k with
      | some k => (s.recd.outputs[k]?.map fun e => Rec.compareWords e.recordWords off)
      | none => none
    let s := match k with
      | some k => { s with recd := { s.recd with outputs := dropAt s.recd.outputs k } }
      | none => s
    if expect = some (Rec.compareWords (r.words false) 0) then s
    else ((s.put Reg.REC_STATUS.DIVERGED 1).inc Reg.REPLAY_DIVERGE_COUNT.COUNT).logEvent
      { code := 0xE4, effect := 1, part := r.part, detail := r.part }
  else s

end Sys2Proof.Machine
end

