-- ==== Sys2Proof/Machine/Emit.lean ====
section
/-! DEFINITION. Emit records: the emit buffer, host rings, network flows and context sinks (R387 to R390, R525). -/

namespace Sys2Proof.Machine

/-- The working state of a context. -/
def State.ctx (s : State) (p c : Nat) : Ctx := mapGet {} (s.srvAt p).ctxs c
/-- Store the working state of a context. -/
def State.setCtx (s : State) (p c : Nat) (x : Ctx) : State :=
  s.modSrv p fun e => { e with ctxs := mapSet {} e.ctxs c x }
/-- Change the working state of a context. -/
def State.modCtx (s : State) (p c : Nat) (f : Ctx → Ctx) : State := s.setCtx p c (f (s.ctx p c))

/-- The next serving boundary that waits is due (R370). -/
def Srv.nextBoundary (e : Srv) (more : List Nat) : Srv :=
  { e with boundary := (e.ticks ++ more).head?, ticks := (e.ticks ++ more).drop 1 }

/-- A record of a context without room at its sink is discarded (R390). -/
def State.dropRec (s : State) (p c : Nat) : State :=
  let s := ((s.inc (Reg.SRV_EMIT_DROPS.COUNT p)).put (Reg.SRV_STATUS.EMIT_DROP p) 1).logEvent
    { code := 0xA3, effect := 1, part := p, detail := c }
  s.modCtx p c fun x => { x with gapOut := true }

/-- Tokens without room on their way to a sink context (R381, R390), counted by the engine of partition `p` that discards them:
GAP of the sink context `tc` of partition `tp`. -/
def State.dropToks (s : State) (p c tp tc : Nat) : State :=
  let s := ((s.inc (Reg.SRV_EMIT_DROPS.COUNT p)).put (Reg.SRV_STATUS.EMIT_DROP p) 1).logEvent
    { code := 0xA3, effect := 1, part := p, detail := c }
  if tp < 12 then s.put (Reg.SRV_CTX_STATE.GAP tp tc) 1 else s

/-- Tokens that find their sink context without room. -/
def State.dropSink (s : State) (p c : Nat) : State := s.dropToks p c p c

/-- Write a record to a host ring (R388). PROD and CONS are free-running 16-bit indices, the first pass carries PHASE 1
(log entry 22). None if the ring is full or the link is down (R390, R527). -/
def State.ringWrite (s : State) (p ring : Nat) (r : Rec) : Option State :=
  let size := 2 ^ s.get (Reg.SRV_RING_SIZE.SIZE p ring)
  let prod := s.get (Reg.SRV_RING_PROD.PROD p ring)
  let cons := s.get (Reg.SRV_RING_CONS.CONS p ring)
  let need := 1 + r.payload.length / 64
  let used := (prod + 65536 - cons) % 65536
  if !s.pciUp || decide (size < used + need) then none
  else
    let base := s.get2 (Reg.SRV_RING_BASE_LO.BASE p ring) (Reg.SRV_RING_BASE_HI.BASE p ring)
    let slot (i : Nat) : Nat := base + (prod + i) % size * 64
    let phase := prod / size % 2 = 0
    let s := s.send (.hostWrite (slot 0) (quadBytes (r.words phase)))
    let s := forAll (List.range (need - 1)) (fun s i => s.send (.hostWrite (slot (i + 1)) ((r.payload.drop (64 * i)).take 64))) s
    let s := s.put (Reg.SRV_RING_PROD.PROD p ring) ((prod + need) % 65536)
    some (if r.late then s.inc (Reg.SRV_RING_LATE.COUNT p ring) else s)

/-- Put the GAP mark into the next record delivered for its context (R390). -/
def State.withGap (s : State) (p : Nat) (r : Rec) : Rec := { r with gap := (s.ctx p r.ctx).gapOut }
/-- The GAP mark has been delivered. -/
def State.gapDone (s : State) (p c : Nat) : State := s.modCtx p c fun x => { x with gapOut := false }

/-- A COMMAND or EXPIRY record goes to the completion ring at once (R374, R395). -/
def State.cmplRecord (s : State) (p : Nat) (r : Rec) : State :=
  match s.ringWrite p (s.get (Reg.SRV_CTRL.CMPL_RING p)) (s.withGap p r) with
  | some s' => s'.gapDone p r.ctx
  | none => s.dropRec p r.ctx

/-- Slots an item takes in the emit buffer (R389, log entry 23). -/
def Held.slots : Held → Nat
  | .record r => 1 + r.payload.length / 64
  | _ => 1

/-- Present an item to the emit buffer of 1,024 slots (R389, R390). -/
def State.present (s : State) (p c : Nat) (h : Held) : State :=
  let usedSlots := (s.srvAt p).emitBuf.foldl (fun n x => n + x.slots) 0
  if 1024 < usedSlots + h.slots then
    match h with
    | .tokens sp sc tp tc _ _ => s.dropToks sp sc tp tc
    | _ => s.dropRec p c
  else s.modSrv p fun e => { e with emitBuf := e.emitBuf ++ [h] }

/-- An Ethernet port can take a stream frame (R532). -/
def State.ethReady (s : State) (e : Nat) : Bool :=
  s.get (Reg.ETH_CTRL.EN e) = 1 && s.get (Reg.ETH_STATUS.LINK_UP e) = 1 && decide ((s.ethAt e).queue.length < 256)

/-- Where a flow sends (R531): its two words, and the six words of the destination it names. -/
def State.flowWords (s : State) (f : Nat) : List Word :=
  let d := s.get (Reg.ETH_FLOW_LO.DEST f)
  [s.rw (Reg.ETH_FLOW_LO.addr f), s.rw (Reg.ETH_FLOW_HI.addr f)]
    ++ (List.range 6).map fun i => s.rw (Reg.ETH_DEST_DMAC_LO.addr d + 4 * i)

/-- Deliver a released record to the host ring or the network flow of its context (R388, R532). Records of a context
whose sink is another context go to the completion ring (log entry 24). -/
def State.deliver (s : State) (p : Nat) (r : Rec) : State :=
  let kind := s.get (Reg.SRV_CTX_CFG.SINK_KIND p r.ctx)
  let id := s.get (Reg.SRV_CTX_SINK.SINK_ID p r.ctx)
  let r := s.withGap p r
  if kind = 1 then
    let e := s.get (Reg.ETH_FLOW_LO.PORT id)
    if s.get (Reg.ETH_FLOW_LO.VALID id) = 1 && s.ethReady e then
      let x := s.ethAt e
      (s.setEth e { x with queue := x.queue ++ [(id, s.flowWords id, r)] }).gapDone p r.ctx
    else (s.inc (Reg.ETH_STREAM_DROP.COUNT e)).dropRec p r.ctx
  else
    match s.ringWrite p (if kind = 0 then id % 4 else s.get (Reg.SRV_CTRL.CMPL_RING p)) r with
    | some s' => s'.gapDone p r.ctx
    | none => s.dropRec p r.ctx

/-- Release one item of the emit buffer (R381, R383, R389, R431). Tokens for a partition that is being reset are dropped (R455). -/
def State.releaseOne (s : State) (p : Nat) (late : Bool) (h : Held) : State :=
  match h with
  | .record r =>
    if s.get (Reg.SRV_CTX_CFG.EMIT_EN p r.ctx) = 1 then
      let r := { r with late := late }
      (s.recOutput r).deliver p r
    else s
  | .tokens sp sc tp tc d ts =>
    if tp < 12 ∧ bitOf (s.get (Reg.MGT_PART_STATUS.STREAM_TO p)) tp ∧ !s.resetting tp then
      s.modSrv tp fun e => { e with inbox := e.inbox ++ [.tokens sp sc tp tc d ts] }
    else s.dropToks p sc tp tc
  | .sync sp tp tc g q ts =>
    if tp < 12 then s.modSrv tp fun e => { e with inbox := e.inbox ++ [.sync sp tp tc g q ts] } else s

/-- Release what a partition presented, in present order, then fire each ring's interrupt once (R389, R524). -/
def State.release (s : State) (p : Nat) (late : Bool) : State :=
  let items := (s.srvAt p).emitBuf
  let s0 := s.modSrv p fun e => { e with emitBuf := [] }
  let s1 := forAll items (fun s h => s.releaseOne p late h) s0
  forAll [0, 1, 2, 3] (fun s j =>
    if s1.get (Reg.SRV_RING_PROD.PROD p j) = s0.get (Reg.SRV_RING_PROD.PROD p j) then s
    else (s.irq 0 (16 + 4 * p + j)).irq (p + 1) (1 + j)) s1

/-- Records of a partition that its emit buffer holds and that will be released (the released count of the COURSE entry, R389, R512). -/
def State.heldRecords (s : State) (p : Nat) : Nat :=
  ((s.srvAt p).emitBuf.filter fun h => match h with | .record r => s.get (Reg.SRV_CTX_CFG.EMIT_EN p r.ctx) = 1 | _ => false).length

end Sys2Proof.Machine
end

