-- ==== Sys2Proof/Machine/Halt.lean ====
section
/-! DEFINITION. Halts (R204 to R206), freeze causes (R34 to R38), hazard reports (R497, R498), cairn counters and
semaphores (R66 to R72), staging discards (R264, R265), disarming (R23, R46). -/

namespace Sys2Proof.Machine

/-! ## Banks -/

/-- Set the state of a domain bank (R174). -/
def State.setBank (s : State) (d bank v : Nat) : State :=
  match s.bankPlace d bank with | some (p, b) => s.put (Reg.SEQ_BANK.STATE p b) v | none => s

/-- Set the QUEUED count of a domain bank. -/
def State.setQueued (s : State) (d bank v : Nat) : State :=
  match s.bankPlace d bank with | some (p, b) => s.put (Reg.SEQ_BANK.QUEUED p b) v | none => s

/-- Discard queued and loading overlays (R204): LOADING becomes EMPTY, PENDING what it was before its first OVL. -/
def State.dropOverlays (s : State) (d : Nat) : State :=
  let x := s.dom d
  let s := forAll x.ovPrev (fun s b => (s.setBank d b.1 (if b.2 then 1 else 0)).setQueued d b.1 0) s
  let s := match x.ovLoad with
    | some (o, _) => (s.setBank d o.bank 0).setQueued d o.bank 0
    | none => s
  s.modDom d fun x => { x with ovq := [], ovLoad := none, ovPrev := [], fetchWait := 0 }

/-! ## Disarming -/

/-- Disarm a domain (R23, R43): pending ticks are discarded, LAG becomes 0, an overrun episode ends (R44). -/
def State.disarmNow (s : State) (d : Nat) : State :=
  ((s.put (Reg.SEQ_COURSE_STATUS.ARMED d) 0).put (Reg.SEQ_COURSE_STATUS.LAG d) 0).modDom d
    fun x => { x with launch := none, episode := false, profile := none }

/-! ## Domain reset (R207) -/

/-- Discard the staging copies of the engines in a mask (bit 0 array, 1 vector, 2 transfer; R236, R265); the operations
under way keep them (R236). -/
def State.dropStage (s : State) (ash mask : Nat) : State :=
  let d := s.leadOf (partOf ash)
  let s := s.modDom d fun x => { x with
    runs := x.runs.map fun r =>
      if r.ash = ash && bitOf mask r.eng then { r with kept := r.kept ++ mapGet [] s.bulk.stage (ash * 3 + r.eng) } else r }
  let drop (m : SMap (List (Nat × Nat × List Byte))) (e : Nat) := if bitOf mask e then mapErase m (ash * 3 + e) else m
  { s with bulk := { s.bulk with stage := drop (drop (drop s.bulk.stage 0) 1) 2 } }

/-- What a domain reset does. It also ends what a difference of timing has left undefined (R548). -/
def State.resetDomain (s : State) (d : Nat) : State :=
  let stuck := (s.dom d).undef
  let s := s.dropOverlays d
  let s := s.modDom d fun x => { x with
    aq := [], vq := [], tq := [], loops := [], call := none, resetDue := false, due := [], runs := [], tal := [], relT := [],
    undef := false }
  let mem := s.members d
  let s := { s with fab := { s.fab with stks := s.fab.stks.filter fun k => k.started || !mem.contains (partOf k.ash) } }
  let s := forAll (s.domAsh d) (fun s a => s.dropStage a 7) s
  let s := if stuck then s.put (Reg.SEQ_COURSE_STATUS.RUNNING d) 0 else s
  s.put (Reg.SEQ_NEXT_ENTRY.ENTRY d) (s.get (Reg.SEQ_ENTRY.ENTRY d))

/-! ## Time of a domain -/

/-- The wall cycle of the running course at this glacier count, at least the one its issue has reached. -/
def State.wallNow (s : State) (d : Nat) : Nat :=
  let x := s.dom d
  max x.wall (s.wallAt d s.now)

/-! ## Freeze causes (R30, R34 to R38) -/

/-- The time `n` cycles after `t` of a region with the stretches given: each cycle that begins in one takes longer. -/
def stretchedTime (t : Nat) (parts : List (Nat × Option Nat × Nat)) : Nat → Nat
  | 0 => t
  | n + 1 =>
    let k := match parts.find? fun v => decide (v.1 ≤ t) && (match v.2.1 with | some b => decide (t < b) | none => true) with
      | some v => v.2.2
      | none => 0
    stretchedTime (t + 8 + k) parts n

/-- When a lagging region issues schedule cycle `c`. -/
def Lag.issues (l : Lag) (c : Int) : Int :=
  if c ≤ l.cRef then l.tRef + 8 * (c - l.cRef) else stretchedTime l.tRef l.parts (c - l.cRef).toNat

/-- The first wall cycle in which the domain may issue cycle `c`: it is at most `slack` cycles ahead of the region. -/
def Lag.free (x : Dom) (l : Lag) (c : Nat) : Nat := x.wallFrom (l.issues ((c : Int) - l.slack)).toNat

/-- The late-crossing cause that a lagging region makes for cycle `c` (R296, R297): it clears H cycles before the domain may
issue `c`. -/
def Lag.cause (x : Dom) (l : Lag) (c : Nat) : Frz :=
  { kind := .cross, ref := .stretch, due := l.free x c - Config.H - 1, eff := c, clr := some (l.free x c - Config.H) }

/-- A region that has gone on far beyond its reference is followed from a later cycle, before any that is still looked at. -/
def Lag.rebase (l : Lag) (c : Nat) : Lag :=
  if l.cRef + 16 < c then { l with cRef := c - 16, tRef := (l.issues ((c : Int) - 16)).toNat } else l

/-- What a region lags behind when the domain comes to issue cycle `c` in wall cycle `w`: one that has gone on to `c` by then goes
on with the others, one that reaches `c` later does not freeze and lags as before (R298, R309). -/
def Lag.caughtUp (x : Dom) (c w : Nat) (l : Lag) : Option Lag :=
  let t := x.timeOf w
  if (t : Int) < l.issues c then some (l.rebase c)
  else if l.parts.all fun v => (match v.2.1 with | some b => decide (b ≤ t) | none => false) then none
  else some { l with cRef := c, tRef := t }

/-- The regions that still lag as the domain comes to issue its next cycle. -/
def Dom.catchUp (x : Dom) : Dom := if x.lags.isEmpty then x else { x with lags := x.lags.filterMap (Lag.caughtUp x x.cyc x.wall) }

/-- A cause stops issue before schedule cycle `c`: it takes effect by then and has not cleared, or cleared late (R34). -/
def Frz.blocks (f : Frz) (c w : Nat) : Bool :=
  decide (f.eff ≤ c) && (match f.clr with | none => true | some t => decide (f.due < t) && decide (w < t + Config.H))

/-- The causes that may hold a domain before its next schedule cycle. -/
def Dom.causes (x : Dom) : List Frz := x.frz ++ x.lags.map fun l => l.cause x x.cyc

/-- The domain is frozen before its next schedule cycle (R30). -/
def State.frozen (s : State) (d : Nat) : Bool :=
  s.running d && (s.dom d).causes.any fun f => f.blocks (s.dom d).cyc (s.dom d).wall

/-- Where a domain is in its freeze: the wall cycle at which issue resumes, if every cause has cleared (R35, R37). -/
def Dom.resume (x : Dom) : Option Nat :=
  let l := x.causes.filter fun f => f.blocks x.cyc x.wall
  if l.isEmpty || l.any (fun f => f.clr.isNone) then none
  else some (l.foldl (fun m f => max m (f.clr.getD 0 + Config.H)) x.wall)

/-- The schedule cycle that a running domain has reached in a wall cycle. -/
def State.cycleAt (s : State) (d w : Nat) : Nat :=
  let x := s.dom d
  if s.frozen d then x.cyc + (match x.resume with | some r => w - r | none => 0) else x.cyc + (w - x.wall)

/-- Priority of a freeze cause, highest first (R37). -/
def FrzKind.rank : FrzKind → Nat
  | .throttle => 0 | .link => 1 | .moraine => 2 | .cross => 3 | .wait => 4

/-- The cause that a freeze cycle is counted to (R38): the highest-priority one that is outstanding in it, else the one
that cleared last. -/
def frzCause (l : List Frz) (w : Nat) : FrzKind :=
  let out := l.filter fun f => match f.clr with | none => true | some t => decide (w < t)
  let pick (m : List Frz) (better : Frz → Frz → Bool) : Option Frz :=
    m.foldl (fun b f => match b with | none => some f | some g => if better f g then some f else some g) none
  match pick out fun f g => decide (f.kind.rank < g.kind.rank) with
  | some f => f.kind
  | none =>
    match pick l fun f g => decide (g.clr.getD 0 < f.clr.getD 0) || (f.clr = g.clr && decide (f.kind.rank < g.kind.rank)) with
    | some f => f.kind
    | none => .wait

/-- Count one freeze cycle. -/
def Dom.countFrz (x : Dom) : FrzKind → Dom
  | .wait => { x with fWait := x.fWait + 1 }
  | .cross => { x with fCross := x.fCross + 1 }
  | .moraine => { x with fMor := x.fMor + 1 }
  | .link => { x with fLink := x.fLink + 1 }
  | .throttle => { x with fThr := x.fThr + 1 }

/-- The freeze cycles that a domain stands in up to wall cycle `w`. -/
def State.freezeSoFar (s : State) (d w : Nat) : Nat :=
  if s.frozen d && !s.halted d then (match (s.dom d).resume with | some r => min r w | none => w) - (s.dom d).wall else 0

/-- SEQ_FREEZE_TOTAL and SEQ_MAX_FREEZE with `n` cycles of a freeze, of which the former counts those since arming (R48). -/
def State.freezeTotal (s : State) (d n : Nat) : Nat :=
  let n := n - (s.dom d).preArm
  (s.get2 (Reg.SEQ_FREEZE_TOTAL_LO.CYCLES d) (Reg.SEQ_FREEZE_TOTAL_HI.CYCLES d) + n) % 2 ^ 64
def State.freezeMax (s : State) (d n : Nat) : Nat := max n (s.get (Reg.SEQ_MAX_FREEZE.CYCLES d))

/-- `n` wall cycles pass in a freeze (R33, R38, R48). -/
def State.countFreeze (s : State) (d n : Nat) : State :=
  let l := (s.dom d).causes.filter fun f => decide (f.eff ≤ (s.dom d).cyc)
  let t := s.freezeTotal d n
  let m := s.freezeMax d n
  let s := s.modDom d fun x =>
    { (List.range n).foldl (fun y i => y.countFrz (frzCause l (x.wall + i))) x with wall := x.wall + n, preArm := 0 }
  (s.put2 (Reg.SEQ_FREEZE_TOTAL_LO.CYCLES d) (Reg.SEQ_FREEZE_TOTAL_HI.CYCLES d) t).put (Reg.SEQ_MAX_FREEZE.CYCLES d) m

/-- A cause of a running domain. One that cleared when due is no freeze (R35). -/
def State.addFrz (s : State) (d : Nat) (f : Frz) : State :=
  if s.running d ∧ !s.halted d then s.modDom d fun x => { x with frz := x.frz ++ [f] } else s

/-- Clear the causes that a condition selects, at wall cycle `w`. -/
def State.clearFrz (s : State) (d w : Nat) (p : FrzRef → Bool) : State :=
  s.modDom d fun x =>
    { x with frz := x.frz.map fun f => if f.clr = none ∧ p f.ref then { f with clr := some (max w f.due) } else f }

/-! ## Halts -/

/-- What a halting fault carries (R205, R489). -/
structure HaltInfo where
  code : Nat
  source : Nat := 0
  part : Nat := 0
  ash : Nat := 0
  pc : Option Nat := none
  arg : Nat := 0
  detail : Nat := 0
  detail2 : Nat := 0
  deriving DecidableEq, Repr

/-- The 1,072 granules of a TRACE entry (R512): the control-core registers, one granule of p, z and tallies, v0 to v7, twelve
granules of queue entries, every accumulator set. How the thirteen are packed the spec does not give (log entry 14). -/
def State.traceBytes (s : State) (ash : Nat) : List Byte :=
  let w32 (n : Word) := leBytes 4 n.toNat
  ((List.range 48).flatMap fun k => w32 (s.coreGet ash k))
    ++ ((List.range 64).map fun i => Config.traceByte s.recd.seq i)
    ++ ((List.range 512).flatMap fun k => w32 (mapGet 0 s.bulk.vreg (ash * 512 + k)))
    ++ ((List.range 768).map fun i => Config.traceByte s.recd.seq (64 + i))
    ++ ((List.range 4096).flatMap fun k => leBytes 16 (wrapInt 128 (mapGet 0 s.bulk.acc (ash * 4096 + k)).toInt))

/-- TRACE entries of a halt (R510, R512). -/
def State.traceHalt (s : State) (d : Nat) : State :=
  if s.get Reg.DBG_CTRL.HALT_CAPTURE = 1 then
    forAll (s.domAsh d) (fun s a =>
      if bitOf (s.get Reg.REC_CTRL.PARTS) (partOf a) then
        s.recEnt { kind := 11, part := partOf a, ctx := 0, course := (s.dom d).course, schedAt := (s.dom d).cyc, pre := false,
                   boundary := false, body := [idxOf a], payload := s.traceBytes a }
      else s) s
  else s

/-- The running course of a domain has overrun, or started late (R45). -/
def State.lateNow (s : State) (d : Nat) : Bool := (s.dom d).late || decide ((s.dom d).course ≠ s.courseNum)

/-- Release what every member of a domain presented (R389). -/
def State.releaseDom (s : State) (d : Nat) (late : Bool) : State := forAll (s.members d) (fun s p => s.release p late) s

/-! ### The summary tree (R194) -/

/-- OR of every ashlar's zk over a domain, and the AND (R194). -/
def State.zOr (s : State) (d k : Nat) : Nat := (s.domAsh d).foldl (fun n a => n ||| (s.coreGet a (56 + k)).toNat % 65536) 0
def State.zAnd (s : State) (d k : Nat) : Nat :=
  (s.domAsh d).foldl (fun n a => n &&& (s.coreGet a (56 + k)).toNat % 65536) 65535

/-- A change of zk arrives before the instruction of its cycle, a combine after it (R194 to R196). -/
def SumVal.isQ : SumVal → Bool
  | .q .. => true
  | .z .. => false

/-- Put a value on its way up the summary tree, in order of arrival; of one cycle the changes of zk come first. -/
def insertSum : List (Nat × SumVal) → Nat → SumVal → List (Nat × SumVal)
  | [], t, v => [(t, v)]
  | (t', v') :: l, t, v =>
    if t < t' || (t = t' && v'.isQ && !v.isQ) then (t, v) :: (t', v') :: l else (t', v') :: insertSum l t v

/-- A change of zk at schedule cycle `c` leaves for the sequencer (R194). -/
def State.zChanged (s : State) (d k c : Nat) : State :=
  s.modDom d fun x => { x with sums := insertSum x.sums (c + Config.summaryLat) (.z k (s.zOr d k) (s.zAnd d k)) }

/-- OR bits into zk of an ashlar at the end of schedule cycle `c` (R129, R157). -/
def State.zSet (s : State) (d ash k bits c : Nat) : State :=
  let v := (s.coreGet ash (56 + k)).toNat
  (s.coreSet ash (56 + k) (BitVec.ofNat 32 (v ||| bits))).zChanged d k c

/-- The changes of zk on their way to the lead at a halt: the domain counts no cycle more until its next course, so the model
lets each reach ZOR_k and ZAND_k with the halt (R194; log entry 93, DESIGN CHOICE). -/
def State.settleZ (s : State) (d : Nat) : State :=
  forAll (s.dom d).sums (fun s v => match v.2 with
    | .z k o a => (s.put (Reg.SEQ_ZSUM.ZOR d k) o).put (Reg.SEQ_ZSUM.ZAND d k) a
    | .q .. => s) s

/-- The bits of zk that are set at the end of the halt's cycle (R129, R157), and the changes still on their way, stand. -/
def State.settleBits (s : State) (d : Nat) : State :=
  let c := (s.dom d).cyc
  let s := forAll (s.dom d).due (fun s a => match a with
    | (t, .zbits ash k bits) => if t ≤ c + 1 then s.zSet d ash k bits c else s
    | _ => s) s
  (s.settleZ d).modDom d fun x => { x with sums := [] }

/-- What a domain's transfers have not handed to the fabric when it halts never enters it: the entries and slots it has claimed are
free again, and so is what waits for one; an STK that has not started is given up (R204; log entry 16). -/
def Fabric.giveUp (f : Fabric) (mine : Nat → Bool) : Fabric :=
  let out (id : Nat) : Bool := (f.ents.any fun e => e.pkt = id && !e.stk) && !f.waits.any fun p => p.pkt.id = id && !p.handed
  let goes (k : StkOp) : Bool := k.started && k.ent.isSome
  { f with
    waits := f.waits.filter fun p => p.handed || !mine p.ash
    inj := f.inj.filter fun j => !mine j.pkt.srcAsh || f.waits.any fun p => p.handed && p.pkt.id = j.pkt.id
    xfers := (f.xfers.map fun x => if mine x.ash then { x with pkts := x.pkts.filter out, failed := x.failed || !x.pkts.all out } else x).filter
      fun x => !x.pkts.isEmpty
    stks := f.stks.filter fun k => !mine k.ash || goes k
    ents := f.ents.filter fun e => !mine e.ash || (if e.stk then f.stks.any fun k => k.id = e.xfer && goes k
      else out e.pkt || f.served.any fun g => g.own && g.ash = e.ash && g.entry = e.idx)
    entq := f.entq.filter fun q => !mine q.1
    leafIn := f.leafIn.filter fun i => f.waits.any fun p => p.pkt.id = i && (p.handed || !mine p.ash) }

/-- A halting fault (R204, R205, R206, R490): the first one records itself, stops every further effect of the domain's
engines and disarms it; a later one only counts. -/
def State.halt (s : State) (d : Nat) (h : HaltInfo) : State :=
  if s.halted d then s.inc (Reg.SEQ_HALT_COUNT.COUNT d)
  else
    let x := s.dom d
    let run := s.running d
    let part := if h.source = 0 then d else h.part
    let ash := if h.source = 0 then 0 else h.ash
    let pc := if h.source < 2 then h.pc else none
    let cyc := if run then x.cyc else 0
    let word := match pc with | some a => (s.fetchWord d a).toNat | none => 0
    let s := s.syncTime d
    let s := s.countFreeze d (s.freezeSoFar d (s.wallNow d))
    let course := s.courseOf d
    let w := h.code + h.source <<< 8 + ash <<< 10 + part <<< 16 + 1 <<< 31
    let s := s.ww (Reg.SEQ_HALT_CODE.addr d) (BitVec.ofNat 32 w)
    let s := s.ww (Reg.SEQ_HALT_PC.addr d)
      (BitVec.ofNat 32 (match pc with | some a => a + 2 ^ 31 | none => 0))
    let s := s.put (Reg.SEQ_HALT_CYCLE.CYCLE d) cyc
    let s := s.put2 (Reg.SEQ_HALT_COURSE_LO.COURSE d) (Reg.SEQ_HALT_COURSE_HI.COURSE d) course
    let s := s.put (Reg.SEQ_HALT_ARG.ARG d) h.arg
    let s := s.logRec { code := h.code, effect := 0, source := h.source, part := part, ash := ash, pc := pc, course := course,
                        cycle := cyc, detail := if h.code < 0x20 then h.arg % 65536 else h.detail,
                        detail2 := if h.code < 0x20 then word else h.detail2 }
    let late := s.lateNow d
    let s := s.traceHalt d
    let s := (s.dropOverlays d).settleBits d
    let s := s.modDom d fun x =>
      { x with frz := [], lags := [], due := [], sums := [], smps := [], emits := [], claims := [], launch := none,
               queueStall := false, retire := none }
    let mem := s.members d
    let s := { s with fab := s.fab.giveUp fun a => mem.contains (partOf a) }
    let s := if run then s.releaseDom d late else s
    let s := (s.put (Reg.SEQ_COURSE_STATUS.RUNNING d) 0).disarmNow d
    if (s.dom d).resetDue then s.resetDomain d else s

/-- Detail word of codes 0x20 to 0x3F (R489). -/
def detailAsh (ash addr extra : Nat) : Nat := addr % 2 ^ 25 + ash <<< 25 + extra <<< 35

/-- A hazard report (R489, R498) of the instruction at `ia`: only in a debug image; it halts only if HALT_ON_HAZARD is 1. `two` are
the schedule cycles of the earlier and the later access; one that has still to come counts with the cycle in which it is known to
come, or else with that of the report (log entry 122, DESIGN CHOICE). -/
def State.hazard (s : State) (k ash addr : Nat) (ia : Option Nat) (two : Nat × Nat) : State :=
  if s.debug then
    let p := partOf ash
    let d := s.leadOf p
    let s := s.inc (Reg.DBG_HAZ_COUNT.COUNT k)
    if s.get Reg.DBG_CTRL.HALT_ON_HAZARD = 1 then
      s.halt d { code := 0xF0 + k, source := 1, part := p, ash := idxOf ash, pc := ia,
                 detail := detailAsh ash (addr / 512 * 512) 0, detail2 := two.1 % 2 ^ 32 + two.2 % 2 ^ 32 <<< 32 }
    else s.logEvent { code := 0xF0 + k, effect := 3, source := 1, part := p, ash := idxOf ash, pc := ia, cycle := (s.dom d).cyc,
                      detail := detailAsh ash (addr / 512 * 512) 0, detail2 := two.1 % 2 ^ 32 + two.2 % 2 ^ 32 <<< 32 }
  else s

/-! ## What the hazard detector follows (R272 to R275, R278, R497)

The detector of this module sees this module (log entry 17): what lands here, and the waits and acquires of its ashlars. -/

/-- Change what the detector holds. -/
def State.modHaz (s : State) (f : Haz → Haz) : State := { s with haz := f s.haz }

/-- Who sent a granule, as the detector sees it: module, ashlar, of the reader's domain; none for what a serving boundary
lands. -/
def State.hazSrc (s : State) (g : Gran) : Option (Nat × Nat × Bool) :=
  let here (a : Nat) : Option (Nat × Nat × Bool) := some (s.moduleId, a, decide (s.domOf a = s.domOf g.ash))
  match g.src with
  | .mesh id => here (match s.fab.ents.find? fun e => e.pkt = id && !e.stk with | some e => e.ash | none => g.ash)
  | .leaf _ a _ => here a
  | .reply _ a _ => some (s.moduleId, a, false)
  | .ubn m a .. => if m = s.moduleId then here a else some (m, a, false)
  | .host => some (s.moduleId, 1024, false)
  | .eth m => some (m, 1024, false)
  | .relay m => some (m, 1024, false)
  | .serving => none

/-- The packet of this module that a granule belongs to; 0 for another's. -/
def State.granPkt (s : State) (g : Gran) : Nat :=
  match g.src with | .mesh id => id | .leaf id .. => id | .ubn m .. => if m = s.moduleId then g.pkt else 0 | _ => 0

/-- A landing enters what the detector follows, in the place of what lay there before. -/
def Haz.add (h : Haz) (l : HazLand) : Haz :=
  { h with lands := l :: h.lands.filter fun x => ¬ (x.ash = l.ash ∧ x.addr = l.addr) }

/-- A packet's increment has been added. -/
def Haz.addedPkt (h : Haz) (ash pkt : Nat) : Haz :=
  { h with lands := h.lands.map fun l => if l.ash = ash ∧ l.pkt = pkt then { l with added := true } else l }

/-- A release of a transfer engine at a scope; the packet that follows it is its signal (R270). -/
def State.hazRel (s : State) (ash scope : Nat) : State :=
  if s.debug then s.modHaz fun h => { h with rels := (ash, scope) :: h.rels.filter fun v => v.1 ≠ ash } else s
def State.hazSignal (s : State) (ash pkt : Nat) : State :=
  if s.debug then s.modHaz fun h =>
    match h.rels.find? fun v => v.1 = ash with
    | some v => { h with rels := h.rels.filter fun v => v.1 ≠ ash, sigs := (pkt, v.2) :: h.sigs }
    | none => h
  else s

/-- What the detector holds of a domain ends with its course: a course boundary orders everything (R278). -/
def State.hazClear (s : State) (d : Nat) : State :=
  let mine (a : Nat) : Bool := (s.members d).contains (partOf a)
  s.modHaz fun h => { h with lands := h.lands.filter fun l => !mine l.ash, seen := h.seen.filter fun v => !mine v.1,
                             rels := h.rels.filter fun v => !mine v.1,
                             wrote := h.wrote.filter fun v => !mine v.ash }

/-- A granule has landed; `last` is the last one of its packet. -/
def State.hazLand (s : State) (g : Gran) (last : Bool) : State :=
  if s.debug then
    match s.hazSrc g with
    | none => s
    | some (m, a, dom) => s.modHaz fun h =>
        let h := h.add { ash := g.ash, addr := g.addr, pkt := g.pkt, srcMod := m, srcAsh := a, inDom := dom,
                         cairn := if g.inc = 0 then none else some g.cairn, added := false, ok := [],
                         cyc := (s.dom (s.domOf g.ash)).cyc - 1,
                         rel := (h.sigs.find? fun v => v.1 = s.granPkt g).map (·.2) }
        if last then h.addedPkt g.ash g.pkt else h
  else s

/-- An ashlar has observed the sources of landings. -/
def Haz.observe (h : Haz) (ash : Nat) (ls : List HazLand) : Haz :=
  let new := (ls.map fun l => (ash, l.srcMod, l.srcAsh)).filter fun v => !h.seen.contains v
  { h with seen := new.eraseDups ++ h.seen }

/-- Landings that a condition names are ordered before the operations of the engines in a mask from a cycle on, and their
sources have been observed. -/
def Haz.order (h : Haz) (ash mask from_ : Nat) (byIssue : Bool) (p : HazLand → Bool) : Haz :=
  let hit (l : HazLand) : Bool := l.ash = ash && p l
  { h.observe ash (h.lands.filter hit) with
    lands := h.lands.map fun l => if hit l then { l with ok := (mask, from_, byIssue) :: l.ok } else l }

/-- A WAITC is satisfied: what its counter has counted is ordered before what issues from `from_` on (R36, R274). -/
def State.countLands (s : State) (ash n from_ : Nat) : State :=
  s.modHaz fun h => h.order ash 15 from_ true fun l => l.added && l.cairn = some n

/-- Stands for the sender of a semaphore's posts, whom nothing names. -/
def anySender : Nat := 2047

/-- A SEMW is satisfied: a semaphore names no packet, so it orders what has landed in its ashlar (R36, log entry 17). -/
def State.semLands (s : State) (ash from_ : Nat) : State :=
  s.modHaz fun h =>
    let h := h.order ash 15 from_ true fun _ => true
    { h with seen := if s.debug && !h.seen.contains (ash, s.moduleId, anySender) then (ash, s.moduleId, anySender) :: h.seen else h.seen }

/-- A landing that no synchronisation orders before a read that issued and started in these cycles. Cycle counts of the schedule
(`fixed`) order a read of an engine after a landing from its own domain, but for one that a wait has counted: what reads it issues H
cycles after the wait or later (R36, R278, R498). -/
def HazLand.open_ (l : HazLand) (eng issued st : Nat) (fixed : Bool) : Bool :=
  !(l.inDom && fixed && !l.ok.any fun k => k.2.2)
    && !l.ok.any fun k => bitOf k.1 (min eng 3) && decide (k.2.1 ≤ if k.2.2 then issued else st)

/-- Two regions of a slice share a byte. -/
def meets (a n b m : Nat) : Bool := decide (a < b + m) && decide (b < a + n)

/-- A read in schedule cycle `now` may observe a landing that nothing orders before it (R278), one that has landed or one that is
on its way: the schedule cycles of the two. -/
def State.rowRace (s : State) (ash addr n eng issued st now : Nat) (fixed : Bool) : Option (Nat × Nat) :=
  match s.haz.lands.find? fun l => l.ash = ash && meets addr n l.addr 64 && l.open_ eng issued st fixed with
  | some l => some (l.cyc, now)
  | none => (s.fab.land.find? fun g => g.ash = ash && meets addr n g.addr 64 && (s.hazSrc g).isSome).map fun g =>
      (now, max now (s.cycleAt (s.domOf ash) g.ready))

/-- A release's signal that the ashlar has observed: a wait has counted it, or its control core has read it (R272). -/
def HazLand.observed (l : HazLand) (ash : Nat) : Bool := l.ash = ash && l.rel.isSome && (!l.ok.isEmpty || l.read)

/-- A read of data that nothing orders before it, of an ashlar whose release's signal has been observed: the wait that counted the
signal acquired at tile scope only, which does not cover that ashlar (R271, R273). -/
def State.scopeRace (s : State) (ash addr n eng issued st : Nat) : Option HazLand :=
  s.haz.lands.find? fun l => l.ash = ash && meets addr n l.addr 64 && l.open_ eng issued st true && decide (l.srcAsh ≠ ash)
    && s.haz.lands.any fun v => v.observed ash && v.srcMod = l.srcMod && v.srcAsh = l.srcAsh

/-- A slice write of an engine, and a release of that engine, as the detector follows them for the reads of a GET (R277). -/
def State.hazWrote (s : State) (ash addr n eng now : Nat) : State :=
  if s.debug then s.modHaz fun h =>
    { h with wrote := { ash, addr, n, eng, cyc := now } :: h.wrote.filter fun w => ¬ (w.ash = ash ∧ w.addr = addr ∧ w.n = n) }
  else s
def State.hazReleased (s : State) (ash eng : Nat) : State :=
  if s.debug then s.modHaz fun h =>
    { h with wrote := h.wrote.map fun w => if w.ash = ash ∧ w.eng = eng then { w with released := true } else w }
  else s

/-- A GET of an ashlar reads bytes that an engine of the target has written, and that no release of the target which the getter has
observed orders before it (R277): the schedule cycle of the write. -/
def State.getRace (s : State) (getMod getter ash addr n : Nat) : Option Nat :=
  (s.haz.wrote.find? fun w => w.ash = ash && meets addr n w.addr w.n
    && !(w.released && decide (getMod = s.moduleId)
      && (s.haz.seen.contains (getter, s.moduleId, ash) || s.haz.seen.contains (getter, s.moduleId, anySender)))).map (·.cyc)

/-- A control core has read what landed at an address: it has observed its source (R272). -/
def State.hazSeen (s : State) (ash addr : Nat) : State :=
  let hit (l : HazLand) : Bool := l.ash = ash && meets addr 4 l.addr 64
  s.modHaz fun h =>
    { h.observe ash (h.lands.filter hit) with lands := h.lands.map fun l => if hit l then { l with read := true } else l }

/-- A landing in a row that an STK with DIR 1 or a GET has not yet read (R278). -/
def State.landRace (s : State) (ash addr : Nat) : Bool :=
  let row := addr / 512 * 512
  (s.fab.stks.any fun k => k.dir && k.ash = ash && k.left.any fun r => k.addr + 512 * r = row)
    || s.fab.gets.any fun g => g.ash = ash && meets row 512 g.addr (64 * g.grans)

/-- A landing at an address is reported if it overtakes such a read. -/
def State.landLook (s : State) (ash addr : Nat) (ia : Option Nat) : State :=
  let now := (s.dom (s.domOf ash)).cyc - 1
  if s.debug && s.landRace ash addr then s.hazard 1 ash addr ia (now, now) else s

/-! ## Results due later -/

/-- Order of the actions due at one schedule cycle: the bank accesses of the cycle before, by engine (R62); what takes
effect; what reads registers; what leaves for a sink; last effects. -/
def DueAct.rank : DueAct → Nat
  | .rd .. => 0
  | .wr .. => 0
  | .ld .. => 0
  | .ovl .. => 0
  | .chkRead .. => 2
  | .run _ _ w _ => match w with | .table => 0 | .sum => 1 | .out => 3 | .fin => 4 | _ => 2
  | _ => 1

/-- List an action at a schedule cycle, after those already listed there that it does not precede. -/
def insertDue : List (Nat × DueAct) → Nat → DueAct → List (Nat × DueAct)
  | [], t, a => [(t, a)]
  | (t', a') :: l, t, a =>
    if t < t' ∨ (t = t' ∧ a.rank < a'.rank) then (t, a) :: (t', a') :: l else (t', a') :: insertDue l t a

/-- An action of the domain's engines that takes effect when schedule cycle `t` begins. -/
def State.addDue (s : State) (d t : Nat) (a : DueAct) : State := s.modDom d fun x => { x with due := insertDue x.due t a }

/-! ## Staging copies -/

/-- A slice write of an engine discards every copy of the rows it touches (R264). -/
def State.dropRows (s : State) (ash slice row : Nat) : State :=
  let keep (l : List (Nat × Nat × List Byte)) := l.filter fun r => ¬ (r.1 = slice ∧ r.2.1 = row)
  let drop (m : SMap (List (Nat × Nat × List Byte))) (e : Nat) := mapSet [] m (ash * 3 + e) (keep (mapGet [] m (ash * 3 + e)))
  let s := s.modDom (s.leadOf (partOf ash)) fun x => { x with
    runs := x.runs.map fun r => if r.ash = ash then { r with kept := keep r.kept } else r }
  { s with bulk := { s.bulk with stage := drop (drop (drop s.bulk.stage 0) 1) 2 } }

/-! ## Cairn counters and semaphores -/

/-- The first outstanding wait of a domain on a counter that its value now meets. -/
def nextCairn (frz : List Frz) (ash n v : Nat) : Option Nat :=
  match frz with
  | [] => none
  | f :: fs =>
    match f.clr, f.ref with
    | none, .cairn a k t => if a = ash ∧ k = n ∧ t ≤ v then some t else nextCairn fs ash n v
    | _, _ => nextCairn fs ash n v

/-- Clear the first outstanding cause that names a reference. -/
def clearFirst (frz : List Frz) (r : FrzRef) (w : Nat) : List Frz :=
  match frz with
  | [] => []
  | f :: fs => if f.clr = none ∧ f.ref = r then { f with clr := some (max w f.due) } :: fs else f :: clearFirst fs r w

/-- The schedule cycle before which the first outstanding wait of a kind stops issue (R34). -/
def waitEff (frz : List Frz) (r : FrzRef) : Nat := match frz.find? fun f => f.clr.isNone && f.ref = r with | some f => f.eff | none => 0

/-- What waits have taken from a counter or semaphore in cycle `w`: the increments and posts of one cycle are added together
before a wait compares (R67, R71), so what comes later in it still meets the sum. -/
def State.takenIn (s : State) (cairn : Bool) (key w : Nat) : Nat :=
  match mapGet? (if cairn then s.fab.subC else s.fab.subS) key with | some (c, t) => if c = w then t else 0 | none => 0
def State.modHeld (s : State) (cairn : Bool) (key w t : Nat) : State :=
  let v := (w, s.takenIn cairn key w + t)
  { s with fab := if cairn then { s.fab with subC := mapInsert s.fab.subC key v } else { s.fab with subS := mapInsert s.fab.subS key v } }

/-- Satisfy waits on a counter, in order, while its value meets the first (R67 step 3, R68); a satisfied wait acquires
at tile scope (R236). `fuel` bounds the waits. -/
def State.satisfyCairn (s : State) (d ash n w : Nat) : Nat → State
  | 0 => s
  | fuel + 1 =>
    let slot := Reg.TILE_CAIRN.VALUE (partOf ash) (idxOf ash) n
    let v := s.get slot
    match nextCairn (s.dom d).frz ash n v with
    | some t =>
      let s := (s.put slot (v - t)).modHeld true (ash * 64 + n) w t
      let s := s.countLands ash n (waitEff (s.dom d).frz (.cairn ash n t))
      let s := s.modDom d fun x => { x with frz := clearFirst x.frz (.cairn ash n t) w }
      (s.dropStage ash 7).satisfyCairn d ash n w fuel
    | none => s

/-- What is added to a counter, or posted to a semaphore, while a boundary window has entries to apply (R70, R72). -/
def State.noteAdd (s : State) (cairn : Bool) (ash n k : Nat) : State :=
  let q := s.pendAt (partOf ash)
  let key := ash * 64 + n
  if q.window = 0 then s
  else if cairn then s.setPend (partOf ash) { q with addC := mapSet 0 q.addC key (mapGet 0 q.addC key + k) }
  else s.setPend (partOf ash) { q with addS := mapSet 0 q.addS key (mapGet 0 q.addS key + k) }

/-- Add to a cairn counter in a cycle (R66, R67); above 0xFF_FFFF it saturates and the domain halts with SOURCE 2. -/
def State.cairnAdd (s : State) (ash n k w : Nat) : State :=
  let p := partOf ash
  let d := s.leadOf p
  let slot := Reg.TILE_CAIRN.VALUE p (idxOf ash) n
  let v := s.get slot + k
  if 0xFFFFFF < v + s.takenIn true (ash * 64 + n) w then
    ((s.put slot 0xFFFFFF).put (Reg.TILE_STATUS.CAIRN_OVF p (idxOf ash)) 1).halt d
      { code := 0x22, source := 2, part := p, ash := idxOf ash, detail := detailAsh ash 0 n }
  else ((s.put slot v).noteAdd true ash n k).satisfyCairn d ash n w (s.dom d).frz.length

/-- The first outstanding SEMW of a domain on a semaphore that its value now meets. -/
def nextSem (frz : List Frz) (ash n v : Nat) : Option Nat :=
  match frz with
  | [] => none
  | f :: fs =>
    match f.clr, f.ref with
    | none, .sem a k t => if a = ash ∧ k = n ∧ t ≤ v then some t else nextSem fs ash n v
    | _, _ => nextSem fs ash n v

/-- Satisfy SEMWs on a semaphore in order (R71). -/
def State.satisfySem (s : State) (d ash n w : Nat) : Nat → State
  | 0 => s
  | fuel + 1 =>
    let slot := Reg.TILE_SEM.VALUE (partOf ash) (idxOf ash) n
    let v := s.get slot
    match nextSem (s.dom d).frz ash n v with
    | some t =>
      let s := (s.put slot (v - t)).modHeld false (ash * 64 + n) w t
      let s := s.semLands ash (waitEff (s.dom d).frz (.sem ash n t))
      let s := s.modDom d fun x => { x with frz := clearFirst x.frz (.sem ash n t) w }
      (s.dropStage ash 7).satisfySem d ash n w fuel
    | none => s

/-- Post to a semaphore (R71); above 255 it saturates and the domain halts with the given SOURCE. -/
def State.semPost (s : State) (ash n k w : Nat) (source : Nat) (pc : Option Nat) : State :=
  let p := partOf ash
  let d := s.leadOf p
  let slot := Reg.TILE_SEM.VALUE p (idxOf ash) n
  let v := s.get slot + k
  if 255 < v + s.takenIn false (ash * 64 + n) w then
    ((s.put slot 255).put (Reg.TILE_STATUS.SEM_OVF p (idxOf ash)) 1).halt d
      { code := 0x23, source := source, part := p, ash := idxOf ash, pc := pc, detail := detailAsh ash 0 n }
  else ((s.put slot v).noteAdd false ash n k).satisfySem d ash n w (s.dom d).frz.length

end Sys2Proof.Machine
end

