-- ==== Sys2Proof/Machine/Fabric.lean ====
section
/-! DEFINITION. Between the engines, the slices and the ports: outstanding entries, the mesh, routing, egress and
injection, completions (R203, R227 to R231, R289, R326 to R345). Wall cycles are those of the domain that owns the
ashlar concerned. -/

namespace Sys2Proof.Machine

/-! ## Packets -/

/-- Granules of a packet's payload. -/
def Pkt.grans (p : Pkt) : Nat := p.payload.length / 64
/-- A data packet: WRITE, GET_REPLY or RELAY (R336). -/
def Pkt.isData (p : Pkt) : Bool := p.typ = 0 || p.typ = 2 || p.typ = 4
/-- Virtual channel of a packet. -/
def Pkt.vc (p : Pkt) : Nat := p.net * 4 + p.cls
/-- Word 0 of a packet's header (R328). -/
def Pkt.word0 (k : Pkt) : Nat :=
  1 + k.net <<< 4 + k.cls <<< 5 + k.typ <<< 7 + (if k.last then 1 <<< 11 else 0) + (if k.mc then 1 <<< 12 else 0)
    + k.dstMod <<< 13 + k.dst <<< 25 + k.srcMod <<< 37 + k.srcAsh <<< 49 + k.hops <<< 59
/-- Detail word of codes 0x60 to 0x7F (R489): port, module or group. -/
def detailPort (port id : Nat) (group : Bool) : Nat := port % 32 + id <<< 5 + (if group then 1 <<< 17 else 0)
/-- Detail word for a packet. -/
def Pkt.detail (k : Pkt) (port : Nat) : Nat := detailPort port (if k.mc then k.dst else k.dstMod) k.mc

/-- Change the fabric. -/
def State.modFab (s : State) (f : Fabric → Fabric) : State := { s with fab := f s.fab }

/-! ## Outstanding packets and entries -/

/-- The packets of all transfers that have not completed. -/
def State.outstanding (s : State) : List Nat := s.fab.xfers.flatMap fun x => x.pkts

/-- The free outstanding entries of an ashlar, and the lowest-numbered one (R230). -/
def State.freeEnts (s : State) (ash : Nat) : List Nat :=
  (List.range 128).filter fun i => !s.fab.ents.any fun e => e.ash = ash && e.idx = i
def State.freeEnt (s : State) (ash : Nat) : Option Nat := (s.freeEnts ash).head?

/-- The wall cycle in which a free entry was freed. -/
def State.freedAt (s : State) (ash idx : Nat) : Nat := mapGet 0 s.fab.entFree (ash * 128 + idx)

/-- The entry that a check point in wall cycle `w` claims, and the cycle in which it does: the lowest-numbered one that was
free then, else the first one freed since (R230). -/
def State.entAt (s : State) (ash w : Nat) : Option (Nat × Nat) :=
  let l := s.freeEnts ash
  match l.find? fun i => decide (s.freedAt ash i ≤ w) with
  | some i => some (i, w)
  | none =>
    (l.foldl (fun b i => match b with
      | none => some i
      | some j => if s.freedAt ash i < s.freedAt ash j then some i else b) none).map fun i => (i, s.freedAt ash i)

/-- A packet or an STK takes an entry (R230). -/
def State.bindEnt (s : State) (ash i id : Nat) : State :=
  match s.fab.waits.find? fun p => p.pkt.id = id with
  | some p => s.modFab fun f => { f with
      ents := f.ents ++ [{ ash, idx := i, xfer := p.xfer, pkt := id, word0 := p.pkt.word0 }]
      waits := f.waits.map fun q => if q.pkt.id = id then { q with needEnt := false, pkt := { q.pkt with entry := i } } else q }
  | none => s.modFab fun f => { f with
      ents := f.ents ++ [{ ash, idx := i, xfer := id, pkt := 0, stk := true }]
      stks := f.stks.map fun q => if q.id = id then { q with ent := some i } else q }

/-- The first packet or STK of an ashlar that waits for an entry takes it, in wall cycle `w` (R230). -/
def State.grantEnt (s : State) (ash w : Nat) : State :=
  match s.freeEnt ash, s.fab.entq.find? fun x => x.1 = ash with
  | some i, some (_, id) =>
    ((s.modFab fun f => { f with entq := f.entq.filter fun x => x.2 ≠ id }).bindEnt ash i id).clearFrz (s.domOf ash) w
      fun r => r = .entry id
  | _, _ => s

/-- An outstanding entry is freed (R230); whoever waits first claims it. -/
def State.freeEntry (s : State) (ash idx w : Nat) : State :=
  (s.modFab fun f => { f with
    ents := f.ents.filter fun e => ¬ (e.ash = ash ∧ e.idx = idx)
    entFree := mapSet 0 f.entFree (ash * 128 + idx) w }).grantEnt ash w

/-- A check point for an entry (R203, R230): the entry is claimed, or the domain's late-crossing cause is due until one is. -/
def State.claimNow (s : State) (d : Nat) (c : Claim) : State :=
  match s.entAt c.ash c.wall with
  | some (i, t) =>
    let s := s.bindEnt c.ash i c.id
    if t ≤ c.wall then s else s.addFrz d { kind := .cross, ref := .entry c.id, due := c.wall, eff := c.eff, clr := some t }
  | none =>
    (s.modFab fun f => { f with entq := f.entq ++ [(c.ash, c.id)] }).addFrz d
      { kind := .cross, ref := .entry c.id, due := c.wall, eff := c.eff }

/-- A packet or an STK gives back the entry that it has claimed, or waits for. -/
def State.unclaim (s : State) (d ash id : Nat) : State :=
  (s.modFab fun f => { f with
    ents := f.ents.filter fun e => ¬ (e.ash = ash ∧ (if e.stk then e.xfer = id else e.pkt = id))
    entq := f.entq.filter fun q => q.2 ≠ id
    waits := f.waits.map fun p => if p.pkt.id = id then { p with needEnt := true } else p
    stks := f.stks.map fun k => if k.id = id then { k with ent := none } else k }).modDom d
    fun x => { x with frz := x.frz.filter fun v => v.ref ≠ .entry id }

/-- Claims are made in the order of their check points (R230): those made at a later check point of the ashlar, whose packets have
still to be handed over, are made again after this one. -/
def State.claimEnt (s : State) (d ash id w eff : Nat) : State :=
  let later := (s.dom d).claims.filter fun c => c.ash = ash && decide (w < c.wall)
  let again : List Claim := { ash, id, wall := w, eff } :: later
  let s := forAll later (fun s c => s.unclaim d ash c.id) s
  let s := s.modDom d fun x => { x with claims := x.claims.filter (fun c => !later.contains c) ++ again }
  forAll again (fun s c => s.claimNow d c) s

/-- A packet's check point for an entry, `early` wall cycles ago (R203, R230). -/
def State.claimPkt (s : State) (d : Nat) (p : Pkt) (xfer hand early : Nat) : State :=
  (s.modFab fun f => { f with waits := f.waits ++ [{ pkt := p, ash := p.srcAsh, xfer }] }).claimEnt d p.srcAsh p.id
    ((s.dom d).wall - early) hand

/-- An STK's check point for its entry (R203, R230). -/
def State.stkClaim (s : State) (d id start early : Nat) : State :=
  match s.fab.stks.find? fun k => k.id = id with
  | none => s
  | some k => s.claimEnt d k.ash id ((s.dom d).wall - early) start

/-- The packets that a REL covers have completed (R235). -/
def State.relDone (s : State) (pkts : List Nat) : Bool := let o := s.outstanding; pkts.all fun i => !o.contains i

/-- The check of a REL before the packet that follows it, `early` wall cycles ago (R235). -/
def State.relCheck (s : State) (d : Nat) (pkts : List Nat) (hand early : Nat) : State :=
  let due := (s.dom d).wall - early
  let last := (pkts.map fun i => mapGet 0 s.fab.doneAt i).foldl max 0
  let cause : Frz := { kind := .cross, ref := .rel pkts, due, eff := hand }
  if s.relDone pkts then
    let s := s.modFab fun f => { f with doneAt := f.doneAt.filter fun e => !pkts.contains e.1 }
    if last ≤ due then s else s.addFrz d { cause with clr := some last }
  else s.addFrz d cause

/-! ## Routing and egress -/

/-- A port carries packets of a class: UP, or MGMT_ONLY for management. -/
def State.portUp (s : State) (p cls : Nat) : Bool :=
  let st := s.get (Reg.UBN_PORT_STATUS.STATE p)
  decide (p < 32) && (st = 3 || st = 4 || (st = 2 && cls = 3))

/-- Granules queued in the egress of a port for a virtual channel, with those of the packets on their way into it. -/
def State.queued (s : State) (p vc : Nat) : Nat :=
  (s.port p).egress.foldl (fun n e => if e.1 = vc then n + e.2.grans else n) 0
    + s.fab.inj.foldl (fun n x => if x.port = some p && x.pkt.vc = vc then n + x.pkt.grans else n) 0

/-- The port a packet leaves by (R333); none: unreachable. -/
def State.routeOf (s : State) (k : Pkt) : Option Nat :=
  let m := k.dstMod
  if s.get (Reg.UBN_ROUTE_LO.VALID m) = 0 then none
  else
    let pri := s.get (Reg.UBN_ROUTE_LO.PRIMARY m)
    let pick :=
      if k.cls = 1 then
        let alts := (List.range 32).filter fun p => p = pri || bitOf (s.get (Reg.UBN_ROUTE_HI.ALT_MASK m)) p
        alts.foldl (fun b p => if s.queued p k.vc < s.queued b k.vc then p else b) (alts.head?.getD pri)
      else pri
    if s.portUp pick k.cls then some pick else none

/-- End-to-end credits granted to this module by a destination, per network (R336). -/
def State.credLimit (s : State) (m net : Nat) : Nat := if net = 0 then s.get (Reg.UBN_CRED.REQ m) else s.get (Reg.UBN_CRED.RPL m)
def State.credUsed (s : State) (m net : Nat) : Nat := mapGet 0 s.fab.used (m * 2 + net)
def State.setCredUsed (s : State) (m net v : Nat) : State := s.modFab fun f => { f with used := mapSet 0 f.used (m * 2 + net) v }

/-- A packet of this module to another cannot be sent: no route, or no grant (R333, R336). -/
def State.unreachable (s : State) (k : Pkt) : Bool :=
  (s.routeOf k).isNone || (k.isData && !k.mc && k.srcMod = s.moduleId && s.credLimit k.dstMod k.net = 0)

/-- Record the first event in UBN_FAULT_INFO. -/
def State.ubnInfo (s : State) (port id : Nat) (group : Bool) : State :=
  if s.get Reg.UBN_FAULT_INFO.VALID = 1 then s
  else s.ww Reg.UBN_FAULT_INFO.addr (BitVec.ofNat 32 (detailPort port id group + 1 <<< 31))

/-- A COMPLETION starts on its way to an ashlar of this module (R340). -/
def State.complTo (s : State) (ash entry status srcMod pkt ready : Nat) : State :=
  s.modFab fun f => { f with compl := f.compl ++ [{ ash, entry, status, srcMod, pkt, ready }] }

/-- Put a packet into the egress of a port. -/
def State.toEgress (s : State) (p : Nat) (k : Pkt) : State := s.modPort p fun x => { x with egress := x.egress ++ [(k.vc, k)] }

/-- A packet must leave with HOPS 0 and is discarded (R334). -/
def State.hopLimit (s : State) (k : Pkt) (port : Nat) (arrived : Bool) : State :=
  let s := if k.typ = 3 ∨ k.typ = 5 then s else s.put Reg.UBN_STATUS.UNREACHABLE 1
  let s := (s.put Reg.UBN_STATUS.HOP_LIMIT 1).ubnInfo port (if k.mc then k.dst else k.dstMod) k.mc
  s.logEvent { code := 0x65, effect := 1, source := if arrived then 2 else 3, detail := k.detail port, detail2 := k.word0 }

/-- A COMPLETION of this module leaves by its route (R333, R334). -/
def State.postCompl (s : State) (k : Pkt) : State :=
  match s.routeOf k with
  | some p => if k.hops = 0 then s.hopLimit k p false else s.toEgress p k
  | none => s

/-- Send a COMPLETION for a packet (R340): to an ashlar of this module, or through a port. `from_` is the ashlar that sends
it; where a module answers in place of an ashlar, the field is a free value. -/
def State.sendCompl (s : State) (from_ : Option Nat) (srcMod srcAsh entry status ready : Nat) : State :=
  if srcMod = s.moduleId then s.complTo srcAsh entry status srcMod 0 ready
  else
    let (ash, course, s) := match from_ with
      | some a => (a, s.courseOf (partOf a), s)
      | none => let (v, s) := s.fresh; (v % 1024, s.courseNum, s)
    s.postCompl { net := 1, cls := 2, typ := 3, dstMod := srcMod, dst := srcAsh, srcMod := s.moduleId, srcAsh := ash,
                  hops := s.get Reg.UBN_CTRL.HOP_LIMIT, addr := status, entry, course := course % 256 }

/-- A packet is discarded: its source receives a COMPLETION with STATUS 1 or 2 in its place (R334, R340, R348). -/
def State.discardPkt (s : State) (k : Pkt) (status port : Nat) : State :=
  let s := if status = 1 then s.put Reg.UBN_STATUS.UNREACHABLE 1 else s.put Reg.UBN_STATUS.UNRECOVERED 1
  let here : Bool := k.srcMod = s.moduleId && k.dstMod = s.moduleId && !k.mc
  let s := if here then s else s.ubnInfo port (if k.mc then k.dst else k.dstMod) k.mc
  if k.typ = 3 ∨ k.typ = 5 then s
  else if k.srcMod = s.moduleId then s.complTo k.srcAsh k.entry status k.srcMod k.id 0
  else s.sendCompl none k.srcMod k.srcAsh k.entry status 0

/-! ## The mesh (R288 to R290, R292) -/

/-- The stop of a port at the mesh: row, and column counted from 1 (R326). -/
def portStop (p : Nat) : Nat × Nat := (p % 16 * 3 / 4, if p < 16 then 0 else 49)

/-- Where a mesh path begins or ends: row, and column counted from 1, of an ashlar or of the stop of a port (1,024 and its number). -/
def meshPlace (x : Nat) : Nat × Nat := if x < 1024 then (x / 48, x % 48 + 1) else portStop (x - 1024)

/-- The positions from one row or column to another, both included. -/
def walk (x y : Nat) : List Nat :=
  if x ≤ y then (List.range (y - x + 1)).map (x + ·) else (List.range (x - y + 1)).map (x - ·)

/-- The logical hops between two places: along the source row, then along the destination's column (R288). -/
def meshPath (a b : Nat × Nat) : List ((Nat × Nat) × (Nat × Nat)) :=
  let l := (walk a.2 b.2).map (a.1, ·) ++ ((walk a.1 b.1).drop 1).map (·, b.2)
  l.zip (l.drop 1)

/-- Two granules of different sources share a link (R290). -/
def Gran.meets (g h : Gran) : Bool :=
  match g.org, h.org with
  | some a, some b =>
    a != b && (meshPath (meshPlace a) (meshPlace g.ash)).any fun l => (meshPath (meshPlace b) (meshPlace h.ash)).contains l
  | _, _ => false

/-- A granule may still be on its way in wall cycle `w` of the domain that another is for. -/
def State.inFlight (s : State) (g : Gran) (w : Nat) (h : Gran) : Bool :=
  s.domOf h.ash ≠ s.domOf g.ash || decide (w + 1 < h.ready + h.slack.getD 0)

/-- A granule enters the mesh in wall cycle `w`: what competes with it on a link may come later, and so may it (R290). -/
def State.enterMesh (s : State) (w : Nat) (g : Gran) : State :=
  let hit (h : Gran) : Bool := g.meets h && s.inFlight g w h
  let n := (s.fab.land.filter hit).length
  s.modFab fun f => { f with land := (f.land.map fun h => if hit h then { h with slack := h.slack.map (· + 1) } else h)
      ++ [{ g with slack := g.slack.map (· + n) }] }

/-- A slice's landing buffer is full in wall cycle `w`: 32 granules that have arrived wait in it (R64). Those on their way come
after them in any case, and wait on the links. -/
def State.sliceFull (s : State) (ash addr w : Nat) : Bool :=
  decide (32 ≤ (s.fab.land.filter fun g => g.ash = ash && bitsOf g.addr 24 22 = bitsOf addr 24 22 && decide (g.ready ≤ w + 1)).length)

/-! ### Slots of the injection queues (R339) -/

/-- Slots of an ashlar's injection queue that are held. -/
def State.injUsed (s : State) (ash : Nat) : Nat :=
  s.fab.inj.foldl (fun n x => if x.pkt.srcAsh = ash then n + x.slots else n) (s.fab.held.filter fun h => h.1 = ash).length

/-- Slots of an ashlar's injection queue have been taken (`n` above zero) or given back now: the latest 64 wall cycles in which any
were are kept. -/
def State.slotMoved (s : State) (ash : Nat) (n : Int) : State :=
  let w := s.wallNow (s.domOf ash)
  let l := mapGet [] s.fab.slotLog ash
  let l := match l with | (t, k) :: r => if t = w then (t, k + n) :: r else (w, n) :: l | [] => [(w, n)]
  if n = 0 then s else s.modFab fun f => { f with slotLog := mapSet [] f.slotLog ash (l.take 64) }

/-- The first wall cycle from `w` on in which the injection queue had a free slot; none: it has none yet. -/
def State.slotAt (s : State) (ash w : Nat) : Option Nat :=
  let l := (mapGet [] s.fab.slotLog ash).filter fun e => decide (w < e.1)
  let used (t : Nat) : Int := (s.injUsed ash : Int) - ((l.filter fun e => decide (t < e.1)).map (·.2)).sum
  (w :: (l.map (·.1)).reverse).find? fun t => decide (used t < 64)

/-- Change one packet of the injection queues; slots that it gives back are free. -/
def State.modInj (s : State) (id : Nat) (f : InjPkt → InjPkt) : State :=
  match s.fab.inj.find? fun x => x.pkt.id = id with
  | none => s
  | some x =>
    (s.modFab fun b => { b with inj := b.inj.map fun x => if x.pkt.id = id then f x else x }).slotMoved x.pkt.srcAsh
      (((f x).slots : Int) - x.slots)

/-- A granule of an ashlar of this module leaves its injection queue in wall cycle `w`, `m` cycles from its destination
(R229, R289), or is held there: an earlier one is, or the landing buffer is full (R64). -/
def State.injectGran (s : State) (from_ m w : Nat) (g : Gran) : State :=
  if s.fab.held.any (fun h => h.1 = from_) || s.sliceFull g.ash g.addr w then
    (s.modFab fun f => { f with held := f.held ++ [(from_, g, m)] }).slotMoved from_ 1
  else s.enterMesh w { g with ready := w + m + 1 }

/-- The held granules that a landing buffer has room for go on, each ashlar's in their order (R64). -/
def State.freeHeld (s : State) (w : Nat) : Nat → State
  | 0 => s
  | fuel + 1 =>
    let first (h : Nat × Gran × Nat) : Bool := (s.fab.held.find? fun x => x.1 = h.1) == some h
    match s.fab.held.find? fun h => first h && !s.sliceFull h.2.1.ash h.2.1.addr w with
    | none => s
    | some h =>
      (((s.modFab fun f => { f with held := f.held.erase h }).slotMoved h.1 (-1)).enterMesh w
        { h.2.1 with ready := w + h.2.2 + 1 }).freeHeld w fuel

/-- The `n`-th granule of a packet at an address. -/
def granOf (ash addr : Nat) (payload : List Byte) (cairn inc : Nat) (src : LandSrc) (pkt n : Nat) : Gran :=
  { ash, addr := addr + 64 * n, data := (payload.drop (64 * n)).take 64, final := decide (64 * (n + 1) = payload.length), cairn, inc, src,
    pkt, start := addr }

/-- Put a packet's granules into a landing buffer (R63, R289): `at_` is the wall cycle of the last one's arrival, two
granules a cycle before it. A granule lands in the cycle after its arrival at the earliest. -/
def State.landPkt (s : State) (ash addr : Nat) (payload : List Byte) (cairn inc : Nat) (src : LandSrc) (pkt at_ : Nat) : State :=
  let g := payload.length / 64
  let gs := (List.range g).map fun k =>
    { granOf ash addr payload cairn inc src pkt k with ready := at_ + 1 - ((g - 1) / 2 - k / 2) }
  s.modFab fun f => { f with land := f.land ++ gs }

/-- Bytes from outside the mesh reach a landing buffer, two granules a cycle from now on. -/
def State.landNow (s : State) (ash addr : Nat) (data : List Byte) (cairn inc : Nat) (src : LandSrc) : State :=
  let id := s.fab.nextId
  (s.modFab fun f => { f with nextId := id + 1 }).landPkt ash addr data cairn inc src id
    (s.wallNow (s.domOf ash) + (data.length / 64 - 1) / 2)

/-- Such bytes, or while the landing buffer withholds credit their place among the writes that wait (R64, R419, R421, R529). -/
def State.landSoon (s : State) (ash addr : Nat) (data : List Byte) (cairn inc : Nat) (src : LandSrc) : State :=
  if s.sliceFull ash addr (s.wallNow (s.domOf ash)) then
    { s with mor := { s.mor with
      writes := s.mor.writes ++ [{ row := 0, off := 0, data, land := some (ash, addr, cairn), inc, src }] } }
  else s.landNow ash addr data cairn inc src

/-- A packet's granules travel the mesh from a place, two a cycle from wall cycle `w` on, `m` cycles to their landing buffer (R229,
R289, R326); they land in the order of `hand` with the others of their stream (R268). -/
def State.meshPkt (s : State) (ash addr : Nat) (payload : List Byte) (cairn inc : Nat) (src : LandSrc) (pkt : Nat)
    (org : Nat) (stream : Option Nat) (hand w m word0 : Nat) : State :=
  forAll (List.range (payload.length / 64)) (fun s n =>
    s.enterMesh (w + n / 2) { granOf ash addr payload cairn inc src pkt n with
      ready := w + n / 2 + m + 1, slack := some 0, org := some org, stream, hand, word0 }) s

/-- The streams of R268: the packets of an ashlar of this module on the mesh; those of an ordered channel of Ubnov. -/
def meshStream (ash : Nat) : Option Nat := some ash
def Pkt.stream (k : Pkt) : Option Nat := if k.cls = 0 then some (1024 + (k.srcMod * 1024 + k.srcAsh) * 2 + k.net) else none

/-- The place of a packet in its ashlar's stream, by the course and the schedule cycle of its handoff (R227, R268). -/
def handOf (course cyc : Nat) : Nat := course * 2 ^ 40 + cyc

/-- A data packet's place keeps R340: aligned, within one slice below 2^25, LEN and INC in range. -/
def placeFits (k : Pkt) : Bool :=
  decide (k.addr % 64 = 0) && decide (1 ≤ k.grans) && decide (k.grans ≤ 64) && decide (k.inc ≤ 64)
    && decide (k.addr + 64 * k.grans ≤ 2 ^ 25) && decide (k.addr / 2 ^ 22 = (k.addr + 64 * k.grans - 1) / 2 ^ 22)

/-! ## Multicast (R343 to R345) -/

/-- Link credit of a virtual channel in granules (R331); a packet without payload takes one (log entry 31). -/
def linkCredit (vc : Nat) : Nat := if vc % 4 < 2 then 256 else if vc % 4 = 2 then 32 else 16
def State.linkRoom (s : State) (p vc g : Nat) : Bool := decide (mapGet 0 (s.port p).creditUsed vc + max 1 g ≤ linkCredit vc)

/-- The local leaf of a multicast packet (R343). -/
def State.mcLeaf (s : State) (k : Pkt) : Nat :=
  if s.get (Reg.UBN_MC_HI.SAME_ID k.dst) = 1 then k.srcAsh else s.get (Reg.UBN_MC_HI.LOCAL_ASH k.dst)

/-- Packets of other modules that a partition accepts (R432). -/
def State.accepts (s : State) (p : Nat) (k : Pkt) : Bool :=
  let es := (List.range 8).map fun e => (s.rw (Reg.MGT_PART_ACCEPT.addr p e)).toNat
  let ok (w : Nat) : Bool :=
    bitOf w 31 && (bitOf w 24 || bitsOf w 11 0 = k.srcMod) && bitOf (bitsOf w 23 12) (k.srcAsh % 48 / 4)
  es.all (fun w => !bitOf w 31) || es.any ok

/-- Live packets from modules outside REC_INTERNAL are kept out of a replayed partition (R515). -/
def State.replayBars (s : State) (p : Nat) (k : Pkt) : Bool :=
  s.replaying p && (decide (k.srcMod < s.get Reg.REC_INTERNAL.MIN) || decide (s.get Reg.REC_INTERNAL.MAX < k.srcMod))

/-- The ashlar a packet is for exists, is available and is not being reset (R3, R455). -/
def State.reachable (s : State) (ash : Nat) : Bool := decide (ash < 576) && s.avail (partOf ash) && !s.resetting (partOf ash)

/-- A COMPLETION for a multicast packet that ends at this module goes upstream: to its ashlar, or out by the port the packet
arrived on, from branch to branch (R345). -/
def State.complUp (s : State) (from_ : Option Nat) (srcMod srcAsh entry status ready : Nat) : State :=
  match from_ with
  | none => s.complTo srcAsh entry status srcMod 0 ready
  | some p =>
    let (v, s) := s.fresh
    let k : Pkt := { net := 1, cls := 2, typ := 3, dstMod := srcMod, dst := srcAsh, srcMod := s.moduleId, srcAsh := v % 1024,
                     hops := s.get Reg.UBN_CTRL.HOP_LIMIT, addr := status, entry, course := s.courseNum % 256 }
    if k.hops = 0 then s.hopLimit k p false else if s.portUp p k.cls then s.toEgress p k else s

/-- A branch below this module has completed a multicast packet (R345): when all have, one COMPLETION goes upstream. -/
def State.mcGather (s : State) (srcMod srcAsh entry status ready : Nat) : State :=
  match s.fab.gathers.find? fun g => g.srcMod = srcMod && g.srcAsh = srcAsh && g.entry = entry with
  | none => s
  | some g =>
    let g' := { g with left := g.left - 1, status := max g.status status }
    let same (x : McGather) : Bool := x.srcMod = srcMod && x.srcAsh = srcAsh && x.entry = entry
    if g'.left = 0 then
      let s := s.modFab fun f => { f with gathers := f.gathers.filter fun x => !same x }
      s.complUp g.upPort srcMod srcAsh entry g'.status ready
    else s.modFab fun f => { f with gathers := f.gathers.map fun x => if same x then g' else x }

/-- Deliver a multicast copy to the local leaf, which is checked as it is delivered (R432): its granules travel from the place given,
from wall cycle `w` on, `m` cycles. -/
def State.mcLocal (s : State) (k : Pkt) (org w m : Nat) : State :=
  let a := s.mcLeaf k
  let far := k.srcMod ≠ s.moduleId
  let back := w + m
  let lost (s : State) : State :=
    ((s.put Reg.UBN_STATUS.UNREACHABLE 1).ubnInfo k.inPort k.dst true).mcGather k.srcMod k.srcAsh k.entry 1 back
  if !s.reachable a || !placeFits k || (far && s.replayBars (partOf a) k) then lost s
  else if far && !s.accepts (partOf a) k then lost (s.inc (Reg.MGT_PART_INGRESS_DENIED.COUNT (partOf a)))
  else
    (s.meshPkt a k.addr k.payload k.cairn k.inc (.ubn k.srcMod k.srcAsh k.entry k.inPort k.dst false) k.id org
      (if far then k.stream else meshStream k.srcAsh) s.fab.nextId w m k.word0).modFab fun f => { f with nextId := f.nextId + 1 }

/-- A leaf's landing buffer withholds credit (R64): 32 granules wait for the slice. -/
def State.leafFull (s : State) (k : Pkt) : Bool :=
  s.sliceFull (s.mcLeaf k) k.addr (s.wallNow (s.domOf (s.mcLeaf k)))

/-- Cycles that a rate-adapted bridge adds to a crossing of the seam, in cycles of the receiving half: 14 of the slower half,
and at least 2 of its own, in the place of the 14 (R311). -/
def State.bridgeExtra (s : State) (c1 c2 : Nat) : Nat :=
  if s.get Reg.CLK_BRIDGE_STATUS.RATE_ADAPTED = 0 || decide ((c1 ≤ 24) = (c2 ≤ 24)) then 0
  else
    let w := 60 + 7 * s.get Reg.CLK_STEP_CUR.STEP_W
    let e := 60 + 7 * s.get Reg.CLK_STEP_CUR.STEP_E
    let here := if c2 ≤ 24 then w else e
    ceilDiv (14 * here) (min w e) + 2 - 14

/-- Latency between a port stop and an ashlar of this module (R326, R311). -/
def State.stopLat (s : State) (port ash : Nat) (inward : Bool) : Nat :=
  let (r, c) := portStop port
  let a := ash % 48 + 1
  meshLat r c (ash / 48) a + (if inward then s.bridgeExtra c a else s.bridgeExtra a c)

/-- The wall cycle, of the domain of an ashlar, in which what leaves a port stop now reaches it (R326). -/
def State.fromStop (s : State) (port ash : Nat) : Nat := s.wallNow (s.domOf ash) + s.stopLat port ash true

/-- The first copy of a source that a branch holds: copies of one source leave a branch in their order (R335, R343). -/
def State.heldBefore (s : State) (k : Pkt) (port : Nat) : Bool :=
  s.fab.holds.any fun h => h.port = port && h.pkt.srcMod = k.srcMod && h.pkt.srcAsh = k.srcAsh

/-- Egress of a port has room for a packet: 256 granules per data channel (R339). -/
def State.egressRoom (s : State) (p : Nat) (k : Pkt) : Bool := !k.isData || decide (s.queued p k.vc + k.grans ≤ 256)

/-- A copy can go into the egress of a branch port: there is link credit for what waits there and for it, and room (R331,
R339, R344). -/
def State.copyRoom (s : State) (p : Nat) (k : Pkt) : Bool :=
  s.linkRoom p k.vc (s.queued p k.vc + max 1 k.grans) && s.egressRoom p k

/-- One copy of a multicast packet goes to a branch port (R334, R343, R344, R348). -/
def State.mcCopy (s : State) (k out : Pkt) (from_ : Option Nat) (ready : Nat) (p : Nat) : State :=
  if k.hops = 0 then (s.hopLimit k p from_.isSome).mcGather k.srcMod k.srcAsh k.entry 1 ready
  else if !s.portUp p k.cls then
    ((s.put Reg.UBN_STATUS.UNREACHABLE 1).ubnInfo p k.dst true).mcGather k.srcMod k.srcAsh k.entry 1 ready
  else if s.copyRoom p k && !s.heldBefore k p then s.toEgress p out
  else s.modFab fun f => { f with holds := f.holds ++ [{ pkt := out, port := p, since := s.now }] }

/-- Copy a multicast packet to the branches of its group (R343); a copy without credit is held (R344). `ready` is the wall
cycle, of the domain of the source or of the local leaf, in which the packet was handed to the fabric or arrived. -/
def State.mcForward (s : State) (k : Pkt) (from_ : Option Nat) (ready : Nat) : State :=
  let g := k.dst
  if s.get (Reg.UBN_MC_HI.VALID g) = 0 then
    let s := (s.put Reg.UBN_STATUS.UNREACHABLE 1).ubnInfo (from_.getD 0) g true
    match from_ with
    | none => s.complTo k.srcAsh k.entry 1 k.srcMod k.id 0
    | some _ => s.complUp from_ k.srcMod k.srcAsh k.entry 1 0
  else
    let ports := (List.range 32).filter fun p => bitOf (s.get (Reg.UBN_MC_LO.PORT_MASK g)) p && from_ ≠ some p
    let leaf := s.get (Reg.UBN_MC_HI.LOCAL_EN g) = 1
    let n := ports.length + (if leaf then 1 else 0)
    if n = 0 then s.complUp from_ k.srcMod k.srcAsh k.entry 0 ready
    else
      let s := s.modFab fun f => { f with gathers := f.gathers ++
        [{ srcMod := k.srcMod, srcAsh := k.srcAsh, entry := k.entry, group := g, upPort := from_, left := n }] }
      let out : Pkt := if from_.isSome then { k with hops := k.hops - 1 } else k
      let s := forAll ports (fun s p => s.mcCopy k out from_ ready p) s
      if leaf then
        let a := s.mcLeaf k
        if s.fab.leafIn.contains k.id then
          let lost := s.fab.gone.find? fun v => v.1 = k.id
          let s := s.modFab fun f => { f with leafIn := f.leafIn.filter (· ≠ k.id), gone := f.gone.filter fun v => v.1 ≠ k.id }
          match lost with | some v => s.mcGather k.srcMod k.srcAsh k.entry v.2 ready | none => s
        else if s.leafFull k || s.heldBefore k 32 then
          s.modFab fun f => { f with holds := f.holds ++ [{ pkt := k, port := 32, since := s.now }] }
        else match from_ with
          | none => s.mcLocal k k.srcAsh ready (ashLat k.srcAsh a)
          | some p => s.mcLocal k (1024 + p) (s.wallNow (s.domOf a)) (s.stopLat p a true)
      else s

/-! ## Handoff and injection (R227, R339) -/

/-- A packet of this module's mesh: its granules leave the injection queue for their landing buffer. -/
def State.onMesh (s : State) (k : Pkt) : Bool := k.mc || decide (k.dstMod = s.moduleId)

/-- The port into whose egress a packet of an injection queue moves on: nothing of its ashlar is before it, and there is room. What
travels this module's mesh moves on granule by granule. -/
def State.wayOut (s : State) (x : InjPkt) : Option Nat :=
  let first := match s.fab.inj.find? fun y => y.pkt.srcAsh = x.pkt.srcAsh && y.port.isNone with
    | some y => y.pkt.id = x.pkt.id
    | none => false
  if s.onMesh x.pkt || !first || s.fab.held.any fun h => h.1 = x.pkt.srcAsh then none
  else (s.routeOf x.pkt).filter fun p => s.egressRoom p x.pkt

/-- The instruction whose transfer a packet belongs to. -/
def State.pktIa (s : State) (id : Nat) : Option Nat := (s.fab.xfers.find? fun x => x.pkts.contains id).map (·.ia)

/-- Wall cycles from the issue of the schedule cycle H before `t` to the domain's next cycle, freezes between them included
(R34). -/
def Dom.early (x : Dom) (t : Nat) : Nat :=
  (x.cyc + Config.H - t) + ((x.thaws.filter fun v => decide (t < v.1 + Config.H)).map (·.2)).sum

/-- No slot of an injection queue was free at a granule's check point: the domain's late-crossing cause is due, until one is; the
detector of a debug image reports it (R339). -/
def State.roomCause (s : State) (d : Nat) (x : InjPkt) (t : Nat) (clr : Option Nat) : State :=
  let y := s.dom d
  let s := s.addFrz d { kind := .cross, ref := .room x.pkt.id, due := y.wall - y.early t, eff := t, clr }
  if s.debug then s.hazard 3 x.pkt.srcAsh x.pkt.addr (s.pktIa x.pkt.id) (t - Config.H, t) else s

/-- The granules of a packet whose check points have come take each a slot that was free then, or the first one freed since, up to
the first granule for which there is none yet; later granules are checked in their turn (R339). The causes of granules below `skip`
have been raised. -/
def State.roomTake (s : State) (d id skip : Nat) : Nat → State
  | 0 => s
  | fuel + 1 =>
    match s.fab.inj.find? fun x => x.pkt.id = id with
    | none => s
    | some x =>
      let y := s.dom d
      let t := x.enter + x.got / 2
      let take (s : State) : State := s.modInj id fun x => { x with slots := x.slots + 1, got := x.got + 1 }
      if x.pkt.grans ≤ x.got then s
      else if y.cyc + Config.H < t then s.addDue d (t - Config.H) (.room x.pkt x.enter)
      else match s.slotAt x.pkt.srcAsh (y.wall - y.early t) with
        | none => if x.got < skip then s else s.roomCause d x t none
        | some u =>
          let s := if u ≤ y.wall - y.early t ∨ x.got < skip then s else s.roomCause d x t (some u)
          (take s).roomTake d id skip fuel

/-- A packet whose way into egress is open moves on as a whole: only its first granule could have found no slot at its check point
(R339). -/
def State.roomGo (s : State) (d id skip : Nat) : State :=
  match s.fab.inj.find? fun x => x.pkt.id = id with
  | none => s
  | some x =>
    if x.port.isSome then s
    else match s.wayOut x with
    | none => s.roomTake d id skip (x.pkt.grans + 1)
    | some p =>
      let y := s.dom d
      let t := x.enter + x.got / 2
      let w := y.wall - y.early t
      let s := match s.slotAt x.pkt.srcAsh w with
        | some u => if w < u ∧ skip ≤ x.got ∧ t ≤ y.cyc + Config.H then s.roomCause d x t (some u) else s
        | none => s
      s.modInj id fun x => { x with port := some p, slots := 0 }

/-- The check of a packet's granules for injection room, from its first on (R339). -/
def State.roomCheck (s : State) (d : Nat) (k : Pkt) (enter : Nat) : State :=
  if s.fab.inj.any fun x => x.pkt.id = k.id then s.roomGo d k.id 0
  else if !s.onMesh k && s.unreachable k then s
  else (s.modFab fun f => { f with inj := f.inj ++ [{ pkt := k, enter }] }).roomGo d k.id 0

/-- The injection causes whose granules find a slot now clear, and their packets' next granules are looked at (R339). -/
def State.clearRoom (s : State) : State :=
  forAll s.fab.inj (fun s x =>
    let d := s.domOf x.pkt.srcAsh
    let y := s.fab.inj.find? fun y => y.pkt.id = x.pkt.id
    let free := match y with
      | some y => y.port.isSome || decide (s.injUsed y.pkt.srcAsh < 64)
      | none => true
    if free && ((s.dom d).frz.any fun f => f.ref = .room x.pkt.id && f.clr.isNone) then
      (s.clearFrz d (s.wallNow d) fun r => r = .room x.pkt.id).roomGo d x.pkt.id ((y.map (·.got)).getD 0 + 1)
    else s) s

/-- Take a packet out of the waiting packets. -/
def State.dropWait (s : State) (id : Nat) : State :=
  s.modFab fun f => { f with waits := f.waits.filter fun p => p.pkt.id ≠ id }

/-- Take a packet out of the injection queues. -/
def State.dropInj (s : State) (id : Nat) : State :=
  (s.modInj id fun x => { x with slots := 0 }).modFab fun f => { f with inj := f.inj.filter fun x => x.pkt.id ≠ id }

/-- A packet of this module leaves for another: into the egress it has been given, or that of its route (R333, R334). -/
def State.leave (s : State) (k : Pkt) (port : Option Nat) : State :=
  match (port.filter fun p => s.portUp p k.cls).or (s.routeOf k) with
  | some p => if k.hops = 0 then (s.hopLimit k p false).discardPkt k 1 p else s.toEgress p k
  | none => s.discardPkt k 1 (s.get (Reg.UBN_ROUTE_LO.PRIMARY k.dstMod))

/-- A GET request of this module's own domain reaches the fabric (R228, R330). -/
def getReqOf (k : Pkt) (replyMod ready : Nat) : GetReq :=
  let w := leNat (k.payload.take 8)
  { ash := k.dst, addr := k.addr, grans := bitsOf w 44 38, replyMod, replyAsh := k.srcAsh, replyAddr := bitsOf w 24 0,
    cairn := bitsOf w 30 25, inc := bitsOf w 37 31, cls := bitsOf w 45 45, entry := k.entry, pkt := k.id, ready, port := k.inPort }

/-- The local leaf of a multicast packet of this module takes its granules as they enter the fabric: as with the copies of R343, but
for a leaf that withholds credit, where the copy is held (R344). -/
def State.leafTakes (s : State) (k : Pkt) (grans : Nat) : Bool :=
  let fits := placeFits { k with payload := List.replicate (64 * grans) 0 }
  s.get (Reg.UBN_MC_HI.VALID k.dst) = 1 && s.get (Reg.UBN_MC_HI.LOCAL_EN k.dst) = 1 && s.reachable (s.mcLeaf k) && fits
    && !s.leafFull k && !s.heldBefore k 32

/-- Granule `n` of a packet of `grans` granules enters the fabric in wall cycle `w` (R227, R229): it gives its slot of the injection
queue back, and goes on to an ashlar of this module. `hand` is the cycle of the packet's handoff. -/
def State.enterGran (s : State) (k : Pkt) (grans n w hand : Nat) (data : List Byte) : State :=
  let slot (s : State) : State := (s.modInj k.id fun x => { x with slots := x.slots - 1 }).clearRoom
  let g (ash : Nat) (src : LandSrc) : Gran :=
    { ash, addr := k.addr + 64 * n, data, slack := some 0, final := decide (n + 1 = grans), cairn := k.cairn, inc := k.inc, src,
      pkt := k.id, start := k.addr, org := some k.srcAsh, stream := meshStream k.srcAsh, hand }
  if k.mc then
    let a := s.mcLeaf k
    let s := if n = 0 ∧ s.leafTakes k grans then s.modFab fun f => { f with leafIn := k.id :: f.leafIn } else s
    let s := slot s
    if s.fab.leafIn.contains k.id ∧ (s.fab.gone.any fun v => v.1 = k.id) = false then
      s.injectGran k.srcAsh (ashLat k.srcAsh a) w (g a (.leaf k.id k.srcAsh k.dst))
    else s
  else if k.dstMod = s.moduleId ∧ s.reachable k.dst then
    (slot s).injectGran k.srcAsh (ashLat k.srcAsh k.dst) w (g k.dst (.mesh k.id))
  else s

/-- A packet is handed to the fabric in wall cycle `w` (R227 to R229, R333, R339, R343). The granules of one for an ashlar of
this module have entered before. -/
def State.handPkt (s : State) (id w : Nat) : State :=
  match s.fab.waits.find? fun p => p.pkt.id = id with
  | none => s
  | some p =>
    let k := p.pkt
    if k.mc then ((s.dropWait id).dropInj id).mcForward k none w
    else if k.dstMod = s.moduleId then
      let s := (s.dropWait id).dropInj id
      if !s.reachable k.dst then s.discardPkt k 1 0
      else if k.typ = 1 then s.modFab fun f => { f with gets := f.gets ++ [getReqOf k k.srcMod (w + ashLat k.srcAsh k.dst)] }
      else s
    else if s.unreachable k then ((s.dropWait id).dropInj id).discardPkt k 1 (s.get (Reg.UBN_ROUTE_LO.PRIMARY k.dstMod))
    else if (s.fab.inj.find? fun x => x.pkt.id = id && x.port.isNone).isSome then
      s.modFab fun f => { f with waits := f.waits.map fun x => if x.pkt.id = id then { x with handed := true } else x }
    else ((s.dropWait id).dropInj id).leave k ((s.fab.inj.find? fun x => x.pkt.id = id).bind (·.port))

/-- Packets of the injection queues move on into egress while there is room, in order. -/
def State.drainInj (s : State) : Nat → State
  | 0 => s
  | fuel + 1 =>
    match s.fab.inj.find? fun x => x.port.isNone && (s.wayOut x).isSome with
    | none => s
    | some x =>
      let s := match s.fab.waits.find? fun p => p.handed && p.pkt.id = x.pkt.id with
        | some p => ((s.dropWait x.pkt.id).dropInj x.pkt.id).leave p.pkt (s.wayOut x)
        | none => s.modInj x.pkt.id fun y => { y with port := s.wayOut x, slots := 0 }
      s.drainInj fuel

/-- A packet that waits in an injection queue has lost its destination (R333, R336): its route, or with a grant lowered to 0 its
credits. One that is in egress already waits there (R337; log entry 117, DESIGN CHOICE). -/
def State.dropLost (s : State) : State :=
  forAll (s.fab.waits.filter fun p => p.handed && s.unreachable p.pkt) (fun s p =>
    ((s.dropWait p.pkt.id).dropInj p.pkt.id).discardPkt p.pkt 1 (s.get (Reg.UBN_ROUTE_LO.PRIMARY p.pkt.dstMod))) s

/-- Egress has moved: injection queues drain and causes clear. -/
def State.egressMoved (s : State) : State :=
  let s := s.dropLost
  (s.drainInj s.fab.inj.length).clearRoom

/-! ## Completions (R231, R341) -/

/-- The REL causes whose packets have all completed clear (R235). -/
def State.clearRel (s : State) (w : Nat) (d : Nat) : State :=
  s.clearFrz d w fun r => match r with | .rel ps => s.relDone ps | _ => false

/-- A packet of a transfer has completed with a status (R231): the last one of a transfer posts its semaphore in the
next cycle, if none failed. -/
def State.pktDone (s : State) (ash xfer pkt status w : Nat) : State :=
  let covered := (s.dom (s.domOf ash)).relT.any fun r => r.2.contains pkt
  let s := if covered then s.modFab fun f => { f with doneAt := mapSet 0 f.doneAt pkt w } else s
  match s.fab.xfers.find? fun x => x.id = xfer with
  | none => s
  | some x =>
    let x' := { x with pkts := x.pkts.filter (fun i => i ≠ pkt), failed := x.failed || decide (status ≠ 0) }
    if x'.pkts.isEmpty then
      let s := s.modFab fun f => { f with xfers := f.xfers.filter fun y => y.id ≠ xfer }
      match x'.sem, x'.failed with
      | some n, false => s.modFab fun f => { f with semps := f.semps ++ [{ ash, sem := n, inc := 1, ready := w + 1, ia := some x.ia }] }
      | _, _ => s
    else s.modFab fun f => { f with xfers := f.xfers.map fun y => if y.id = xfer then x' else y }

/-- A COMPLETION is taken at its source ashlar at wall cycle `w` (R341). -/
def State.takeCompl (s : State) (c : Compl) (w : Nat) : State :=
  match s.fab.ents.find? fun e => e.ash = c.ash && e.idx = c.entry && !e.stk with
  | none => s
  | some e =>
    let d := s.domOf c.ash
    let x := s.fab.xfers.find? fun x => x.id = e.xfer
    let ia := (x.map (·.ia)).getD 0
    let m := (x.map (·.dstMod)).getD 0
    let far := decide (c.pkt = 0 ∧ m ≠ s.moduleId) && (x.map fun x => !x.mc && !x.get).getD false
    let s := if far then s.setCredUsed m 0 (s.credUsed m 0 - 1) else s
    let s := s.pktDone c.ash e.xfer e.pkt c.status w
    let s := s.freeEntry c.ash c.entry w
    let s := s.clearRel w d
    let port := if (x.map fun x => x.mc || x.dstMod = s.moduleId).getD true then 0 else s.get (Reg.UBN_ROUTE_LO.PRIMARY m)
    if c.status = 0 then s
    else s.halt d { code := if c.status = 1 then 0x62 else 0x63, source := 1, part := partOf c.ash, ash := idxOf c.ash,
                    pc := some ia, detail := (x.map fun x => detailPort port (if x.mc then x.dst else x.dstMod) x.mc).getD 0
                    detail2 := e.word0 }

end Sys2Proof.Machine
end

