-- ==== Sys2Proof/Machine/Numerics.lean ====
section
/-! DEFINITION. Numbers, conversion, exact accumulation (R104 to R125) and the transcendental stages (R149 to R151). -/

namespace Sys2Proof.Machine

/-- An exact source value: not a number, an infinity, or (-1)^neg x m x 2^e. -/
inductive Num where
  | nan
  | inf (neg : Bool)
  | fin (neg : Bool) (m : Nat) (e : Int)
  deriving DecidableEq, Repr

/-- The parameters of a floating or MX element format (R105, R106). -/
structure FloatFmt where
  ebits : Nat
  mbits : Nat
  bias : Nat
  /-- Exponent of the largest finite value. -/
  emax : Nat
  /-- Encoding of the largest finite value. -/
  maxEnc : Nat
  /-- All-ones exponents hold infinity and NaN as in IEEE 754. -/
  ieee : Bool
  /-- The canonical NaN, if the format has one. -/
  nan : Option Nat
  deriving DecidableEq, Repr

/-- The floating format of a format code (R105, R109). -/
def floatFmt : Nat → Option FloatFmt
  | 0x0 => some ⟨8, 23, 127, 127, 0x7F7FFFFF, true, some 0x7FC00000⟩
  | 0x1 => some ⟨8, 7, 127, 127, 0x7F7F, true, some 0x7FC0⟩
  | 0x2 => some ⟨5, 10, 15, 15, 0x7BFF, true, some 0x7E00⟩
  | 0x8 => some ⟨4, 3, 7, 8, 0x7E, false, some 0x7F⟩
  | 0x9 => some ⟨5, 2, 15, 15, 0x7B, true, some 0x7E⟩
  | 0xA => some ⟨3, 2, 3, 4, 0x1F, false, none⟩
  | 0xB => some ⟨2, 3, 1, 2, 0x1F, false, none⟩
  | 0xC => some ⟨2, 1, 1, 2, 0x7, false, none⟩
  | _ => none

/-- FP32. -/
def fp32 : FloatFmt := ⟨8, 23, 127, 127, 0x7F7FFFFF, true, some 0x7FC00000⟩

/-- Bits of an element of a format (R105, R108, R109); an ACC96 value takes 128 (R110). -/
def fmtBits : Nat → Nat
  | 0x0 | 0x5 => 32
  | 0x1 | 0x2 | 0x4 => 16
  | 0x3 | 0x8 | 0x9 | 0xD => 8
  | 0xA | 0xB => 6
  | 0xC => 4
  | _ => 128

/-- Format codes that are assigned (R109). -/
def fmtAssigned (f : Nat) : Bool := decide (f < 14) && f != 7
/-- MX formats (R109). -/
def isMx (f : Nat) : Bool := decide (8 ≤ f) && decide (f < 14)
/-- Plain integer formats. -/
def isInt (f : Nat) : Bool := f = 3 || f = 4 || f = 5
/-- Bounds of an integer format (R114). -/
def intBounds (f : Nat) : Int × Int := if f = 3 then (-128, 127) else if f = 4 then (-32768, 32767) else (-2147483648, 2147483647)

namespace Num

/-- The magnitude of a finite value is zero. -/
def isZero : Num → Bool | .fin _ m _ => m = 0 | _ => false
/-- An integer scaled by a power of two. -/
def ofInt (i : Int) (e : Int := 0) : Num := .fin (decide (i < 0)) i.natAbs e
/-- The sign bit. -/
def neg? : Num → Bool | .nan => false | .inf n => n | .fin n _ _ => n
/-- Negation. -/
def negate : Num → Num | .nan => .nan | .inf n => .inf (!n) | .fin n m e => .fin (!n) m e
/-- Magnitude. -/
def mag : Num → Num | .nan => .nan | .inf _ => .inf false | .fin _ m e => .fin false m e
/-- Exact scaling by a power of two. -/
def scale (k : Int) : Num → Num | .fin n m e => .fin n m (e + k) | x => x

/-- The exact product; an infinity times zero is a NaN. -/
def mul : Num → Num → Num
  | .nan, _ | _, .nan => .nan
  | .inf a, y => if y.isZero then .nan else .inf (a != y.neg?)
  | x, .inf b => if x.isZero then .nan else .inf (x.neg? != b)
  | .fin a m e, .fin b n f => .fin (a != b) (m * n) (e + f)

/-- The exact sum. An exact zero is +0 unless both addends are -0 (DEDUCED, log entry 20). -/
def add : Num → Num → Num
  | .nan, _ | _, .nan => .nan
  | .inf a, .inf b => if a = b then .inf a else .nan
  | .inf a, _ => .inf a
  | _, .inf b => .inf b
  | .fin a m e, .fin b n f =>
    let g := min e f
    let x : Int := (m <<< (e - g).toNat : Nat)
    let y : Int := (n <<< (f - g).toNat : Nat)
    let z := (if a then -x else x) + (if b then -y else y)
    if z = 0 then .fin (a && b && m = 0 && n = 0) 0 0 else .fin (decide (z < 0)) z.natAbs g

/-- Signed mantissa of a finite value at exponent `g` not above its own. -/
def at_ (g : Int) : Num → Int
  | .fin a m e => let x : Int := (m <<< (e - g).toNat : Nat); if a then -x else x
  | _ => 0

/-- FP32 order of two values that are not NaN, with +0 above -0 (R142): is x below y? -/
def lt : Num → Num → Bool
  | .inf a, .inf b => a && !b
  | .inf a, _ => a
  | _, .inf b => !b
  | .fin a m e, .fin b n f =>
    let g := min e f
    let x := at_ g (.fin a m e)
    let y := at_ g (.fin b n f)
    if x = y then m = 0 && n = 0 && a && !b else decide (x < y)
  | _, _ => false

/-- MAX of R142. -/
def max : Num → Num → Num | .nan, _ | _, .nan => .nan | x, y => if lt x y then y else x
/-- MIN of R142. -/
def min : Num → Num → Num | .nan, _ | _, .nan => .nan | x, y => if lt y x then y else x

end Num

/-- Fieldwise sum of two tallies. -/
def tallyAdd (a b : Tally) : Tally := ⟨a.sat + b.sat, a.under + b.under, a.flush + b.flush, a.nan + b.nan⟩

/-- The value of an encoding in a floating format (R105). -/
def FloatFmt.decode (F : FloatFmt) (x : Nat) : Num :=
  let m := x % 2 ^ F.mbits
  let e := x / 2 ^ F.mbits % 2 ^ F.ebits
  let s := x / 2 ^ (F.mbits + F.ebits) % 2 = 1
  if F.ieee && e = 2 ^ F.ebits - 1 then (if m = 0 then .inf s else .nan)
  else if !F.ieee && F.nan = some (x % 2 ^ (F.mbits + F.ebits)) then .nan
  else if e = 0 then .fin s m (1 - (F.bias : Int) - F.mbits)
  else .fin s (2 ^ F.mbits + m) ((e : Int) - F.bias - F.mbits)

/-- A sign and a magnitude encoding. -/
def FloatFmt.signed (F : FloatFmt) (neg : Bool) (m : Nat) : Nat := if neg then 2 ^ (F.mbits + F.ebits) + m else m

/-- The value of an element of any format but ACC96 (R105, R108). -/
def decodeElem (f x : Nat) : Num :=
  match floatFmt f with
  | some F => F.decode x
  | none => if f = 0xD then .ofInt (signedOf 8 x) (-6) else .ofInt (signedOf (fmtBits f) x)

/-- floor(log2(n / d)) of a positive fraction. -/
def log2Rat (n d : Nat) : Int :=
  let e : Int := (Nat.log2 n : Int) - (Nat.log2 d : Int)
  let below := if 0 ≤ e then decide (n < d <<< e.toNat) else decide (n <<< (-e).toNat < d)
  if below then e - 1 else e

/-- n / d / 2^q rounded to the nearest integer, ties up: round_ta of a magnitude (R104). -/
def roundRat (n d : Nat) (q : Int) : Nat :=
  let n' := if q < 0 then n <<< (-q).toNat else n
  let d' := if q < 0 then d else d <<< q.toNat
  (2 * n' + d') / (2 * d')

/-- round_ta(v / 2^W) of a finite value (R104, R120, R152). -/
def roundGrid (neg : Bool) (m : Nat) (e W : Int) : Int :=
  let k := e - W
  let r : Int := if 0 ≤ k then (m <<< k.toNat : Nat) else roundRat m 1 (-k)
  if neg then -r else r

/-- The rounding part of `convert` for a nonzero magnitude n / d (R114). -/
def FloatFmt.round (F : FloatFmt) (fz neg : Bool) (n d : Nat) : Nat × Tally :=
  let e := log2Rat n d
  let emin : Int := 1 - (F.bias : Int)
  let q := max e emin - F.mbits
  let y := roundRat n d q
  let enc := ((q + F.mbits + F.bias).toNat - 1) * 2 ^ F.mbits + y
  if F.maxEnc < enc then (F.signed neg F.maxEnc, { sat := 1 })
  else if y = 0 then (F.signed neg 0, { under := 1 })
  else if fz && decide (y < 2 ^ F.mbits) then (F.signed neg 0, { flush := 1 })
  else (F.signed neg enc, {})

/-- flush of a value held in format G (R104). -/
def flushNum (G : Option FloatFmt) (fz : Bool) : Num → Num × Tally
  | .fin s m e =>
    match G with
    | some G =>
      if fz && m != 0 && decide (log2Rat m 1 + e < 1 - (G.bias : Int)) then (.fin s 0 0, { flush := 1 }) else (.fin s m e, {})
    | none => (.fin s m e, {})
  | x => (x, {})

/-- `convert` (R114) into a floating or MX element format; `src` is the floating format of the source, none for an
integer, ACC96 or MX source (R115). -/
def convert (F : FloatFmt) (src : Option FloatFmt) (fz : Bool) (x : Num) : Nat × Tally :=
  match x with
  | .nan => (F.nan.getD 0, { nan := 1 })
  | .inf s => (F.signed s F.maxEnc, { sat := 1 })
  | x =>
    match flushNum src fz x with
    | (.fin s m e, t) =>
      if m = 0 then (F.signed s 0, t)
      else
        let r := if 0 ≤ e then F.round fz s (m <<< e.toNat) 1 else F.round fz s m (2 ^ (-e).toNat)
        (r.1, tallyAdd t r.2)
    | (_, t) => (0, t)

/-- `convert_int` (R114): bounds and unit 2^u. An infinity returns the bound of its sign. -/
def convertInt (lo hi u : Int) (x : Num) : Int × Tally :=
  match x with
  | .nan => (0, { nan := 1 })
  | .inf s => (if s then lo else hi, { sat := 1 })
  | .fin s m e =>
    let i := roundGrid s m e u
    if i < lo ∨ hi < i then (max lo (min i hi), { sat := 1 })
    else if i = 0 ∧ m ≠ 0 then (i, { under := 1 }) else (i, {})

/-- A value stored in a plain format (not MX, not ACC96): encoding and tally (R143). -/
def storeElem (f : Nat) (src : Option FloatFmt) (fz : Bool) (x : Num) : Nat × Tally :=
  match floatFmt f with
  | some F => convert F src fz x
  | none => let r := convertInt (intBounds f).1 (intBounds f).2 0 x; (wrapInt (fmtBits f) r.1, r.2)

/-- The FP32 value of a word. -/
def f32 (w : Word) : Num := fp32.decode w.toNat
/-- An exact value as an FP32 word with its tally. -/
def toF32 (src : Option FloatFmt) (fz : Bool) (x : Num) : Word × Tally :=
  let r := convert fp32 src fz x; (BitVec.ofNat 32 r.1, r.2)

/-! ## MX blocks -/

/-- The number of bytes of a block of 32 elements (R111). -/
def blockBytes (f : Nat) : Nat := 4 * fmtBits f

/-- Element `i` of a block read as one little-endian integer (R111). -/
def blockElem (f x i : Nat) : Nat := bitsOf x (fmtBits f * i + fmtBits f - 1) (fmtBits f * i)

/-- A block from its elements (R111). -/
def packBlock (f : Nat) (es : List Nat) : List Byte :=
  leBytes (blockBytes f) (es.foldr (fun e n => e % 2 ^ fmtBits f + n <<< fmtBits f) 0)

/-- An MX element with its scale byte: the element flush of R115, then the scale (R107, R118). -/
def mxValue (f x scale : Nat) (fz : Bool) : Num × Tally :=
  if scale = 0xFF then (.nan, {})
  else
    let r := flushNum (floatFmt f) fz (decodeElem f x)
    (r.1.scale ((scale : Int) - 127), r.2)

/-- floor(log2(amax)) over the finite values of a block, none if all are zero or none is finite (R116 step 1). -/
def blockExp : List Num → Option Int
  | [] => none
  | .fin _ m e :: xs =>
    if m = 0 then blockExp xs
    else
      let k : Int := (Nat.log2 m : Int) + e
      match blockExp xs with | some j => some (max j k) | none => some k
  | _ :: xs => blockExp xs

/-- MXP of one block (R116, R117): scale byte, elements, tally. `src` is the floating format of the source values;
`sats` marks saturated accumulators, each of which adds exactly 1 to SAT (R254). As step 5 writes it, `convert` and its
flush test see v / 2^X. DESIGN CHOICE: in a block that holds a NaN the other elements count nothing in UNDER or FLUSH (R116
leaves it open, R117 says so of an infinity only; log entry 81). -/
def mxpBlock (f : Nat) (src : Option FloatFmt) (fz : Bool) (sats : List Bool) (xs : List Num) : Nat × List Nat × Tally :=
  let nans := (xs.filter fun x => decide (x = .nan)).length
  if nans ≠ 0 then (0xFF, xs.map fun _ => 0, { nan := nans, sat := (sats.filter id).length })
  else
    let emax : Int := match floatFmt f with | some F => F.emax | none => 0
    let x0 : Option Int := (blockExp xs).map fun k => k - emax
    let X : Int := match x0 with | some k => max (-127) (min k 127) | none => -127
    let clamped := match x0 with | some k => decide (k ≠ X) | none => false
    let one (x : Num) (satd : Bool) : Nat × Tally :=
      let y := x.scale (-X)
      let r : Nat × Tally := match floatFmt f with
        | some F => convert F src fz y
        | none => let r := convertInt (-127) 127 (-6) y; (wrapInt 8 r.1, r.2)
      let isInf := match x with | .inf _ => true | _ => false
      let sat := if satd then 1 else if clamped || isInf then r.2.sat else 0
      (r.1, { r.2 with sat := sat })
    let rs := (xs.zip sats).map fun p => one p.1 p.2
    ((X + 127).toNat, rs.map (·.1), rs.foldl (fun t r => tallyAdd t r.2) {})

/-! ## Accumulation -/

/-- 2^95 - 1. -/
def accMax : Int := 2 ^ 95 - 1

/-- `product_term` (R120) of two elements already flushed: the term, whether it was clamped, its tally. `k` is the sum of
the scale exponents. -/
def productTerm (x w : Num) (nanScale : Bool) (k W : Int) : Int × Bool × Tally :=
  if nanScale || decide (x = .nan) || decide (w = .nan) then (0, false, { nan := 1 })
  else match (x.mul w).scale k with
    | .nan => (0, false, { nan := 1 })
    | .inf s => (if s then -accMax else accMax, true, {})
    | .fin s m e =>
      let i := roundGrid s m e W
      let t : Tally := if i = 0 ∧ m ≠ 0 then { under := 1 } else {}
      if accMax < i then (accMax, true, t) else if i < -accMax then (-accMax, true, t) else (i, false, t)

/-- The addition of R121: the new value, and the saturation mark. -/
def accAdd (a c : Int) (clamped sat : Bool) : Int × Bool :=
  if sat then (a, true)
  else
    let r := a + c
    if clamped || decide (accMax < r) || decide (r < -accMax - 1) then (if r < 0 then -accMax - 1 else accMax, true)
    else (r, false)

/-- The two words of an ACC96 value (R110), as sixteen bytes. -/
def acc96Bytes (a : Int) : List Byte := leBytes 16 (wrapInt 128 a)
/-- A reader takes bits [95:0] (R110). -/
def acc96Of (bs : List Byte) : Int := signedOf 96 (leNat bs)

/-- `RSC` of one accumulator (R125) with its table entry: encoding and tally. -/
def rescale (f : Nat) (fz : Bool) (a : Int) (sat : Bool) (W : Int) (entry : Nat) : Nat × Tally :=
  if bitOf entry 15 then (0, {})
  else
    let r := storeElem f none fz (.ofInt a (W + signedOf 9 entry))
    (r.1, if sat then { r.2 with sat := 1 } else r.2)

/-! ## Transcendental stages -/

/-- T2[i] of R149: the FP32 encoding nearest 2^(i/64), computed from that definition. -/
def tableT2 : List Nat :=
  [0x3F800000, 0x3F8164D2, 0x3F82CD87, 0x3F843A29, 0x3F85AAC3, 0x3F871F62, 0x3F88980F, 0x3F8A14D5,
   0x3F8B95C2, 0x3F8D1ADF, 0x3F8EA43A, 0x3F9031DC, 0x3F91C3D3, 0x3F935A2B, 0x3F94F4F0, 0x3F96942D] ++
  [0x3F9837F0, 0x3F99E046, 0x3F9B8D3A, 0x3F9D3EDA, 0x3F9EF532, 0x3FA0B051, 0x3FA27043, 0x3FA43516,
   0x3FA5FED7, 0x3FA7CD94, 0x3FA9A15B, 0x3FAB7A3A, 0x3FAD583F, 0x3FAF3B79, 0x3FB123F6, 0x3FB311C4] ++
  [0x3FB504F3, 0x3FB6FD92, 0x3FB8FBAF, 0x3FBAFF5B, 0x3FBD08A4, 0x3FBF179A, 0x3FC12C4D, 0x3FC346CD,
   0x3FC5672A, 0x3FC78D75, 0x3FC9B9BE, 0x3FCBEC15, 0x3FCE248C, 0x3FD06334, 0x3FD2A81E, 0x3FD4F35B] ++
  [0x3FD744FD, 0x3FD99D16, 0x3FDBFBB8, 0x3FDE60F5, 0x3FE0CCDF, 0x3FE33F89, 0x3FE5B907, 0x3FE8396A,
   0x3FEAC0C7, 0x3FED4F30, 0x3FEFE4BA, 0x3FF28177, 0x3FF5257D, 0x3FF7D0DF, 0x3FFA83B3, 0x3FFD3E0C]

/-- L2[i] of R149: the FP32 encoding nearest log2(1 + i/64), computed from that definition. -/
def tableL2 : List Nat :=
  [0x00000000, 0x3CB73CB4, 0x3D35D69C, 0x3D8759C5, 0x3DB31FB8, 0x3DDE4212, 0x3E0462C4, 0x3E19574F,
   0x3E2E00D2, 0x3E42615F, 0x3E567AF1, 0x3E6A4F72, 0x3E7DE0B6, 0x3E88983F, 0x3E92203D, 0x3E9B8926] ++
  [0x3EA4D3C2, 0x3EAE00D2, 0x3EB7110E, 0x3EC0052B, 0x3EC8DDD4, 0x3ED19BB0, 0x3EDA3F60, 0x3EE2C97D,
   0x3EEB3A9F, 0x3EF39355, 0x3EFBD42B, 0x3F01FED4, 0x3F060828, 0x3F0A0650, 0x3F0DF989, 0x3F11E20F] ++
  [0x3F15C01A, 0x3F1993E3, 0x3F1D5DA0, 0x3F211D84, 0x3F24D3C2, 0x3F28808C, 0x3F2C2411, 0x3F2FBE80,
   0x3F335004, 0x3F36D8CB, 0x3F3A58FF, 0x3F3DD0C8, 0x3F41404F, 0x3F44A7BA, 0x3F480731, 0x3F4B5ED7] ++
  [0x3F4EAED0, 0x3F51F740, 0x3F553848, 0x3F587209, 0x3F5BA4A4, 0x3F5ED039, 0x3F61F4E5, 0x3F6512C7,
   0x3F6829FB, 0x3F6B3A9F, 0x3F6E44CD, 0x3F7148A1, 0x3F744636, 0x3F773DA4, 0x3F7A2F04, 0x3F7D1A71]

/-- The FP32 value with a given encoding, as an exact value. -/
def fpc (n : Nat) : Num := fp32.decode n

/-- EXP2 (R149). -/
def exp2Fx (fz : Bool) (x : Num) : Word × Tally :=
  match x with
  | .nan => (0x7FC00000, { nan := 1 })
  | .inf s => if s then (0, {}) else (0x7F7FFFFF, { sat := 1 })
  | .fin s m e =>
    let v := Num.fin s m e
    if !(v.lt (.ofInt 128)) then (0x7F7FFFFF, { sat := 1 })
    else if v.lt (.ofInt (-150)) then (0, {})
    else
      -- x = a / 2^k with k at least 6
      let k : Nat := max 6 (-e).toNat
      let a : Int := v.at_ (-(k : Int))
      let n := a / 2 ^ k
      let f := (a % 2 ^ k).toNat
      let i := f / 2 ^ (k - 6)
      let r : Num := .fin false (f % 2 ^ (k - 6)) (-(k : Int))
      let p := ((((fpc 0x3D635847).mul r).add (fpc 0x3E75FDF0)).mul r).add (fpc 0x3F317218)
      let y := (((p.mul r).add (.ofInt 1)).mul (fpc (tableT2[i]?.getD 0))).scale n
      toF32 none fz y

/-- LOG2 (R149). -/
def log2Fx (fz : Bool) (x : Num) : Word × Tally :=
  match x with
  | .nan => (0x7FC00000, { nan := 1 })
  | .inf s => if s then (0x7FC00000, { nan := 1 }) else (0x7FC00000, {})
  | .fin s m e =>
    if s && m != 0 then (0x7FC00000, { nan := 1 })
    else match flushNum (some fp32) fz (.fin s m e) with
      | (.fin _ m e, t) =>
        if m = 0 then (0xFF7FFFFF, { t with sat := t.sat + 1 })
        else
          let l := Nat.log2 m
          let ex : Int := e + l
          -- m / 2^l in [1, 2), scaled by 2^(l + 6)
          let i := ((m <<< 6) >>> l) - 64
          let c := 64 + i
          -- u = un / ud
          let un := (m <<< 6) - (c <<< l)
          let ud := c <<< l
          -- y = e + L2 + u D1 + u^2 D2 + u^3 D3 over the denominator ud^3
          let tm (d : Num) (num den : Nat) : Num := (d.mul (.fin false num 0)).mul (.fin false den 0)
          let sum := (((Num.ofInt ex).add (fpc (tableL2[i]?.getD 0))).mul (.fin false (ud * ud * ud) 0)).add
            ((tm (fpc 0x3FB8AA3B) un (ud * ud)).add
              ((tm (fpc 0xBF38AA3B) (un * un) ud).add (tm (fpc 0x3EF6384F) (un * un * un) 1)))
          match sum with
          | .fin s n g =>
            if n = 0 then (BitVec.ofNat 32 (fp32.signed s 0), t)
            else
              let d := ud * ud * ud
              let r := if 0 ≤ g then fp32.round fz s (n <<< g.toNat) d else fp32.round fz s n (d <<< (-g).toNat)
              (BitVec.ofNat 32 r.1, tallyAdd t r.2)
          | _ => (0, t)
      | (_, t) => (0, t)

/-- RCP (R151). -/
def rcpFx (fz : Bool) (x : Num) : Word × Tally :=
  match x with
  | .fin s m e =>
    if m = 0 then (if s then 0xFF7FFFFF else 0x7F7FFFFF, { sat := 1 })
    else
      let r := if 0 ≤ e then fp32.round fz s 1 (m <<< e.toNat) else fp32.round fz s (2 ^ (-e).toNat) m
      (BitVec.ofNat 32 r.1, r.2)
  | _ => (0x7FC00000, { nan := 1 })

/-- floor of a square root, bit by bit from bit `n`. -/
def isqrt : Nat → Nat → Nat → Nat
  | 0, _, r => r
  | n + 1, x, r => let c := r + 2 ^ n; isqrt n x (if c * c ≤ x then c else r)

/-- RSQRT (R151). -/
def rsqrtFx (fz : Bool) (x : Num) : Word × Tally :=
  match x with
  | .fin s m e =>
    if m = 0 then (if s then 0xFF7FFFFF else 0x7F7FFFFF, { sat := 1 })
    else if s then (0x7FC00000, { nan := 1 })
    else
      -- 1 / x = n / d
      let n := if 0 ≤ e then 1 else 2 ^ (-e).toNat
      let d := if 0 ≤ e then m <<< e.toNat else m
      let ex := log2Rat n d / 2
      let q := max ex (-126) - 23
      -- 4 (1/x) / 2^(2q); floor(2y) is its root
      let z := if q < 0 then (4 * n) <<< (-2 * q).toNat / d else 4 * n / (d <<< (2 * q).toNat)
      let y := (isqrt 64 z 0 + 1) / 2
      toF32 none fz (.fin false y q)
  | _ => (0x7FC00000, { nan := 1 })

end Sys2Proof.Machine
end

