-- ==== Sys2Proof/Machine/Flags.lean ====
section
/-! DEFINITION. Tallies, sticky flags, excursion bits and the saturation threshold (R126 to R130), the summary tree's
combined values (R194), the condition codes of BRS, CMPP and VRED. -/

namespace Sys2Proof.Machine

/-- A tally as 64 bits, each field at most its largest value (R126). -/
def Tally.bits (t : Tally) : Nat :=
  min t.sat (2 ^ 20 - 1) + (min t.under (2 ^ 20 - 1)) <<< 20 + (min t.flush (2 ^ 16 - 1)) <<< 40 + (min t.nan 255) <<< 56

/-- Sticky and excursion bits of a tally: bit 0 SAT, 1 UNDER, 2 FLUSHED, 3 NAN (R128). -/
def Tally.sticky (t : Tally) : Nat :=
  (if t.sat = 0 then 0 else 1) + (if t.under = 0 then 0 else 2) + (if t.flush = 0 then 0 else 4) + (if t.nan = 0 then 0 else 8)

/-- The excursion bits of a tally: bit 0 SAT, 1 UNDER, 2 NAN, 3 FLUSH (R129). -/
def Tally.excursion (t : Tally) : Nat :=
  (if t.sat = 0 then 0 else 1) + (if t.under = 0 then 0 else 2) + (if t.nan = 0 then 0 else 4) + (if t.flush = 0 then 0 else 8)

/-- A final tally raises the saturation threshold's fault (R130). -/
def State.satReached (s : State) (ash : Nat) (t : Tally) : Bool :=
  decide (s.get (Reg.SEQ_NUM_CTRL.SAT_THRESH_EN (partOf ash)) = 1)
    && decide (max 1 (s.get (Reg.SEQ_SAT_THRESHOLD.THRESHOLD (partOf ash))) ≤ min t.sat (2 ^ 20 - 1))

/-- It halts the domain. -/
def State.satHalts (s : State) (ash : Nat) (t : Tally) : Bool :=
  s.satReached ash t && decide (s.get (Reg.SEQ_NUM_CTRL.SAT_HALT (partOf ash)) = 1)

/-- A tally becomes final at schedule cycle `c` (R127, R128, R130, R242); its excursion bits follow (Machine/Sched.lean). -/
def State.finalTally (s : State) (d : Nat) (vec : Bool) (ash : Nat) (t : Tally) (ia c : Nat) : State :=
  let p := partOf ash
  let i := idxOf ash
  let w := t.bits
  let s := if vec then s.put2 (Reg.VEC_TALLY_LO.TALLY_LO p i) (Reg.VEC_TALLY_HI.TALLY_HI p i) w
    else s.put2 (Reg.ARR_TALLY_LO.TALLY_LO p i) (Reg.ARR_TALLY_HI.TALLY_HI p i) w
  let s := s.ww (Reg.SEQ_NUM_FLAGS.addr p i) (s.rw (Reg.SEQ_NUM_FLAGS.addr p i) ||| BitVec.ofNat 32 t.sticky)
  if s.satReached ash t then
    if s.satHalts ash t then
      s.halt d { code := 0x41, source := 1, part := p, ash := i, pc := some ia, detail := w }
    else s.logEvent { code := 0x41, effect := 1, source := 1, part := p, ash := i, pc := some ia, cycle := c, detail := w }
  else s

/-- The comparison codes of BRS with zero (R195): EQ, NE, LT, GE, GT, LE of a signed number. -/
def cmpZero (cmp : Nat) (x : Int) : Bool :=
  match cmp with
  | 0 => x = 0 | 1 => x ≠ 0 | 2 => x < 0 | 3 => 0 ≤ x | 4 => 0 < x | _ => x ≤ 0

/-- The comparison codes of CMPP (R219): EQ, NE, LT, GE signed, LTU, GEU unsigned. -/
def cmpWord (cmp : Nat) (a b : Word) : Bool :=
  match cmp with
  | 0 => a = b | 1 => a ≠ b | 2 => a.slt b | 3 => !a.slt b | 4 => a.ult b | _ => !a.ult b

/-- The comparison codes of a condition bit (R157, R249): GT, GE, LT, LE, EQ, NE by an order. -/
def cmpBy (cmp : Nat) (lt eq gt : Bool) : Bool :=
  match cmp with
  | 0 => gt | 1 => gt || eq | 2 => lt | 3 => lt || eq | 4 => eq | _ => !eq

/-- FP32 comparison of a condition bit, with +0 above -0; a NaN satisfies NE only (log entry 25). -/
def cmpFloat (cmp : Nat) (a b : Num) : Bool :=
  if a = .nan ∨ b = .nan then cmp = 5 else cmpBy cmp (a.lt b) (!a.lt b && !b.lt a) (b.lt a)

/-- Signed comparison of a condition bit. -/
def cmpInt (cmp : Nat) (a b : Int) : Bool := cmpBy cmp (decide (a < b)) (decide (a = b)) (decide (b < a))

end Sys2Proof.Machine
end

