-- ==== Sys2Proof/Machine/Sched.lean ====
section
/-! DEFINITION. Bank cycles of a domain: slice accesses of engines with staging, SECDED and bank ports (R59 to R62, R74 to
R78, R260 to R264), operations under way, and the compute registers' changes (R92 to R99, R121). -/

namespace Sys2Proof.Machine

/-! ## Corrected errors -/

/-- The entry of a slice's corrected-error log that a row uses: the one that names it, else a free one (R78). -/
def State.ceEntry (s : State) (ash slice row : Nat) : Option Nat :=
  let p := partOf ash
  let i := idxOf ash
  let e (n : Nat) := slice * 4 + n
  let valid (n : Nat) : Bool := s.get (Reg.TILE_CE_LOG.VALID p i (e n)) = 1
  match [0, 1, 2, 3].find? fun n => valid n && s.get (Reg.TILE_CE_LOG.ROW p i (e n)) = row with
  | some n => some (e n)
  | none => ([0, 1, 2, 3].find? fun n => !valid n).map e

/-- One corrected error in a row (R76, R78). -/
def State.logCE (s : State) (ash slice row : Nat) : State :=
  let p := partOf ash
  let i := idxOf ash
  let s := s.inc (Reg.TILE_ECC_CE_COUNT.COUNT p i)
  match s.ceEntry ash slice row with
  | none => s.put (Reg.TILE_STATUS.CE_LOG_FULL p i) 1
  | some e =>
    let s := if s.get (Reg.TILE_CE_LOG.VALID p i e) = 1 then s.incSat (Reg.TILE_CE_LOG.COUNT p i e)
      else ((s.put (Reg.TILE_CE_LOG.VALID p i e) 1).put (Reg.TILE_CE_LOG.ROW p i e) row).put (Reg.TILE_CE_LOG.COUNT p i e) 1
    if s.get (Reg.TILE_CE_LOG.COUNT p i e) = s.get (Reg.TILE_CE_THRESHOLD.THRESHOLD p i) then
      let s := s.put (Reg.TILE_STATUS.CE_EVENT p i) 1
      { s with mgmt := { s.mgmt with eventsWaiting := s.mgmt.eventsWaiting ++ [(ash, slice)] } }
    else s

/-- The state of a stored word: 0 clean, 1 single-bit error, 2 uncorrectable. -/
def State.upsetAt (s : State) (ash slice row col : Nat) : Nat := mapGet 0 s.bulk.upset (s.physWord ash slice row col)
/-- The uncorrectable word found among columns of a row: the spec leaves open which of several a read records, and the model
takes the lowest column (R77; log entry 88, DESIGN CHOICE). -/
def State.ueOf (s : State) (ash slice row : Nat) (cols : List Nat) : Option Nat :=
  if s.bulk.upset = [] then none else cols.find? fun c => decide (s.upsetAt ash slice row c = 2)
/-- The corrected errors among columns of a row are counted (R76). -/
def State.ceOf (s : State) (ash slice row : Nat) (cols : List Nat) : State :=
  if s.bulk.upset = [] then s
  else forAll (cols.filter fun c => decide (s.upsetAt ash slice row c = 1)) (fun s _ => s.logCE ash slice row) s
/-- The same of columns `lo` to `lo + n - 1`. -/
def State.ueIn (s : State) (ash slice row lo n : Nat) : Option Nat := s.ueOf ash slice row ((List.range n).map (lo + ·))
def State.ceIn (s : State) (ash slice row lo n : Nat) : State := s.ceOf ash slice row ((List.range n).map (lo + ·))

/-! ## Results due later -/

/-- Key of column `n` of accumulator set `k` of an array. -/
def accKey (ash arr k n : Nat) : Nat := ((ash * 4 + arr) * 16 + k) * 64 + n

/-- Add one column sum to an accumulator (R121). -/
def accStep (ash arr k : Nat) (b : Bulk) (c : Nat × Int × Bool) : Bulk :=
  let key := accKey ash arr k c.1
  let r := accAdd (mapGet 0 b.acc key).toInt c.2.1 c.2.2 (mapGet false b.satm key)
  { b with acc := mapSet 0 b.acc key (BitVec.ofInt 96 r.1), satm := mapSet false b.satm key r.2 }

/-- Add one step's column sums into a set, and the checksum column's total into its checksum accumulator (R99, R121). -/
def accCols (b : Bulk) (ash arr k : Nat) (vals : List (Int × Bool)) (tot : Int) : Bulk :=
  let b := (vals.zipIdx.map fun v => (v.2, v.1.1, v.1.2)).foldl (accStep ash arr k) b
  let key := (ash * 4 + arr) * 16 + k
  { b with chk := mapSet 0 b.chk key (BitVec.ofInt 104 ((mapGet 0 b.chk key).toInt + tot)) }

/-- An operation flushes elements in cycle `t`: FLUSHED is set at the flush (R104), whatever clears it in that cycle. -/
def State.flushSeen (s : State) (d t ash : Nat) (ty : Tally) : State :=
  if ty.flush = 0 then s
  else (s.put (Reg.SEQ_NUM_FLAGS.FLUSHED (partOf ash) (idxOf ash)) 1).addDue d (t + 1) (.sticky ash 4)

/-- Zero a set in the arrays of a mask (R93). -/
def acczCols (b : Bulk) (ash mask k : Nat) : Bulk :=
  ((List.range 4).filter fun a => bitOf mask a).foldl (fun b a =>
    let key := (ash * 4 + a) * 16 + k
    { b with acc := mapClear b.acc (key * 64) (key * 64 + 64), satm := mapClear b.satm (key * 64) (key * 64 + 64),
             chk := mapErase b.chk key }) b

/-- The effect of a register action on the compute registers (R92, R93, R147). -/
def actBulk (b : Bulk) : DueAct → Bulk
  | .accz ash mask k => acczCols b ash mask k
  | .window ash k w => { b with window := mapSet 0 b.window (ash * 16 + k) w }
  | .vreg ash r lanes => { b with vreg := (lanes.zipIdx).foldl (fun m l => mapSet 0 m ((ash * 8 + r) * 64 + l.2) l.1) b.vreg }
  | _ => b

/-- Record an array mismatch (R101): of a row check with the cell row that it selected (KIND 0), of a CHK (KIND 1). -/
def State.mismatch (s : State) (d ash arr k ia c : Nat) (row : Option Nat) : State :=
  let p := partOf ash
  let s := s.inc (Reg.ARR_MISMATCH_COUNT.COUNT p)
  let first := s.get (Reg.ARR_CHK_STATUS.ROW_MISMATCH p) = 0 ∧ s.get (Reg.ARR_CHK_STATUS.SET_MISMATCH p) = 0
  let w := idxOf ash + arr <<< 6 + k <<< 8 + (match row with | some r => r <<< 13 | none => 1 <<< 12)
  let s := if first then
      ((s.ww (Reg.ARR_CHK_INFO.addr p) (BitVec.ofNat 32 w)).put (Reg.ARR_CHK_CYCLE.CYCLE p) c).put
        (if row.isSome then Reg.ARR_CHK_STATUS.ROW_MISMATCH p else Reg.ARR_CHK_STATUS.SET_MISMATCH p) 1
    else s
  s.halt d { code := 0x40, source := 1, part := p, ash := idxOf ash, pc := some ia,
             detail := (s.rw (Reg.ARR_CHK_INFO.addr p)).toNat }

/-- A slice access faults in its bank cycle (R62, R74, R77). -/
def State.accessFault (s : State) (d code ash addr : Nat) (ia : Option Nat) (info : Nat) : State :=
  let p := partOf ash
  let i := idxOf ash
  let s :=
    if code = 0x24 then
      ((s.put (Reg.TILE_ECC_UE_ADDR.ADDR p i) addr).put (Reg.TILE_ECC_UE_ADDR.VALID p i) 1).put (Reg.TILE_STATUS.UE p i) 1
    else if code = 0x26 then
      (s.ww (Reg.TILE_CONFLICT_INFO.addr p i) (BitVec.ofNat 32 info)).put (Reg.TILE_STATUS.BANK_CONFLICT p i) 1
    else if code = 0x21 then s.put (Reg.TILE_STATUS.PWR_ACCESS p i) 1
    else s
  s.halt d { code := code, source := if ia.isSome then 1 else 3, part := p, ash := i, pc := ia,
             detail := detailAsh ash addr (bitsOf addr 24 22), detail2 := if code = 0x26 then info else 0 }

/-- Schedule time has come to cycle `t`, and an action of cycle `t` may take place (R30). -/
def State.canRun (s : State) (d t : Nat) : Bool :=
  s.running d && !s.halted d && !(s.dom d).undef && (decide (t < (s.dom d).cyc) || (decide (t = (s.dom d).cyc) && !s.frozen d))

/-- The timing of an operation differs between the ashlars: the domain's cycles and results are undefined from here to its
reset (R548). The model's domain stands still; the rest of the module goes on. -/
def State.makeUndef (s : State) (d : Nat) : State := s.modDom d fun x => { x with undef := true }

/-! ## Operations under way -/

/-- An operation under way in an ashlar. -/
def State.runAt (s : State) (d id ash : Nat) : Option Run := (s.dom d).runs.find? fun r => r.id = id && r.ash = ash
/-- Change it. -/
def State.modRun (s : State) (d id ash : Nat) (f : Run → Run) : State :=
  s.modDom d fun x => { x with runs := x.runs.map fun r => if r.id = id && r.ash = ash then f r else r }
/-- It has come to its end. -/
def State.endRun (s : State) (d id ash : Nat) : State :=
  s.modDom d fun x => { x with runs := x.runs.filter fun r => ¬ (r.id = id ∧ r.ash = ash) }

/-- The bytes of a row vector among those read; a row that a fault kept from being read is zero. -/
def rowOf (m : List ((Nat × Nat) × List Byte)) (slice row : Nat) : List Byte :=
  match m.find? fun e => e.1 = (slice, row) with | some e => e.2 | none => List.replicate 512 0
/-- Bytes of a region from the row vectors read. -/
def rowBytes (m : List ((Nat × Nat) × List Byte)) (addr n : Nat) : List Byte :=
  let r0 := addr / 512
  let rows := (List.range ((addr + n - 1) / 512 - r0 + 1)).flatMap fun i => rowOf m ((r0 + i) / 8192) ((r0 + i) % 8192)
  (rows.drop (addr % 512)).take n
/-- The row vectors that a region touches: slice and row. -/
def spanRows (addr n : Nat) : List (Nat × Nat) :=
  if n = 0 then []
  else (List.range ((addr + n - 1) / 512 - addr / 512 + 1)).map fun i => ((addr / 512 + i) / 8192, (addr / 512 + i) % 8192)

/-- An operation issues reads of row vectors in cycle `c`: each is performed in its bank cycle (R59). -/
def State.issueReads (s : State) (d id ash c : Nat) (rows : List (Nat × Nat)) : State :=
  forAll rows (fun s r => s.addDue d (c + sliceLat r.1 + 1) (.rd id ash r.1 r.2)) s

/-- An engine issues a write within one row in cycle `c`: it discards copies of the row (R264) and is performed in its bank
cycle (R59). -/
def State.issueRow (s : State) (d eng ash addr : Nat) (bs : List Byte) (c ia : Nat) (vec : Option Nat) : State :=
  (s.addDue d c (.dropRow ash (bitsOf addr 24 22) (bitsOf addr 21 9))).addDue d (c + sliceLat (bitsOf addr 24 22) + 1)
    (.wr eng ash addr bs ia vec)

/-- An engine issues a slice write of at most a row in cycle `c`: what lies past the end of a row is a write to the next. -/
def State.issueWrite (s : State) (d eng ash addr : Nat) (bs : List Byte) (c ia : Nat) (vec : Option Nat) : State :=
  let n := 512 - addr % 512
  let s := s.issueRow d eng ash addr (bs.take n) c ia vec
  if bs.length ≤ n then s else s.issueRow d eng ash (addr + n) (bs.drop n) c ia vec

/-! ## Bank ports -/

/-- An access is performed in a bank: `n` banks from its first, modulo 64 (R55), but for those that did not (R62). -/
def BankAcc.touches (a : BankAcc) (bank : Nat) : Bool :=
  decide ((bank + 64 - a.bank % 64) % 64 < a.n) && !a.skip.contains bank

/-- The banks that an access asks too much of, given those already made, lowest first (R60, R62). -/
def portConflicts (log : List BankAcc) (a : BankAcc) : List Nat :=
  let near := log.filter fun b => b.ash = a.ash && b.slice = a.slice && b.cycle = a.cycle
  if near = [] then []
  else
    (List.range 64).filter fun k =>
      let l := near.filter fun b => b.touches k
      a.touches k && (decide (2 ≤ l.length) || (a.wr && l.any fun b => b.wr))

/-- Something went wrong in a bank cycle: its code, the place, the instruction (none: the overlay loader). -/
structure BankFault where
  code : Nat
  ash : Nat
  slice : Nat
  bank : Nat
  addr : Nat
  ia : Option Nat
  /-- Of a report: the schedule cycles of the earlier and the later access. -/
  two : Nat × Nat := (0, 0)

/-- Make a bank access at an address (R60): the banks that do not perform it, with the conflict's fault (R62). -/
def State.access (s : State) (d addr : Nat) (ia : Option Nat) (a : BankAcc) : State × List Nat × List BankFault :=
  let skip := portConflicts (s.dom d).bankLog a
  (s.modDom d fun x => { x with bankLog := { a with skip } :: x.bankLog }, skip,
   (skip.take 1).map fun k => { code := 0x26, ash := a.ash, slice := a.slice, bank := k, addr, ia })

/-- Bytes of one row from a column on, with zeros for the banks that did not perform their part (R62). -/
def maskBanks (row col : Nat) (skip : List Nat) (bs : List Byte) : List Byte :=
  if skip = [] then bs else bs.zipIdx.map fun b => if skip.contains ((row + col + b.2 / 8) % 64) then 0 else b.1

/-! ## Reads and writes in their bank cycle -/

/-- Staging capacities of the array, vector and transfer engines (R262). -/
def stageCap (eng : Nat) : Nat := if eng = 0 then 32 else if eng = 1 then 16 else 8

/-- Take a row into a staging, least recently read first (R262). -/
def stageInsert (cap : Nat) (l : List (Nat × Nat × List Byte)) (e : Nat × Nat × List Byte) : List (Nat × Nat × List Byte) :=
  let l := l.filter fun r => ¬ (r.1 = e.1 ∧ r.2.1 = e.2.1)
  (if cap ≤ l.length then l.drop 1 else l) ++ [e]

/-- A row vector enters an engine's staging, or is read there again (R262). -/
def State.stageRow (s : State) (ash eng : Nat) (e : Nat × Nat × List Byte) : State :=
  let key := ash * 3 + eng
  { s with bulk := { s.bulk with stage := mapSet [] s.bulk.stage key (stageInsert (stageCap eng) (mapGet [] s.bulk.stage key) e) } }

/-- `n` words of a row are read at the bank in bank cycle `b`: what the access found, and the bytes it returns (R60 to R62,
R74, R76, R77). A bank that does not perform its part finds nothing in its word (R62). -/
def State.bankRead (s : State) (d eng ash slice row col n b : Nat) (ia : Option Nat) : State × List Byte × List BankFault :=
  let addr := slice <<< 22 + row <<< 9
  let zero := List.replicate (8 * n) (0 : Byte)
  if s.sliceReady ash slice = false then (s, zero, [{ code := 0x21, ash, slice, bank := 0, addr := addr + col <<< 3, ia }])
  else
    let (s, skip, fs) := s.access d (addr + col <<< 3) ia { ash, slice, cycle := b, bank := row + col, n, wr := false, eng }
    let cols := ((List.range n).map (col + ·)).filter fun k => !skip.contains ((row + k) % 64)
    let found := s.ueOf ash slice row cols
    let s := s.ceOf ash slice row cols
    match found with
    | some k => (s, zero, fs ++ [{ code := 0x24, ash, slice, bank := 0, addr := addr + k <<< 3, ia }])
    | none => (s, maskBanks row col skip (s.rdBytes ash (addr + col <<< 3) (8 * n)), fs)

/-- An operation reads a row vector in bank cycle `b`: from its own copy (R91, R264), from the staging copies it keeps
(R236), from its engine's staging (R263), or from the slice, from where it enters the staging (R262). -/
def State.readTurn (s : State) (d b : Nat) (r : Run) (slice row : Nat) : State × List BankFault :=
  let take (s : State) (bs : List Byte) : State :=
    s.modRun d r.id r.ash fun x => { x with rows := x.rows ++ [((slice, row), bs)] }
  let here (e : Nat × Nat × List Byte) : Bool := e.1 = slice && e.2.1 = row
  if r.rows.any fun e => e.1 = (slice, row) then (s, [])
  else match r.kept.find? here with
    | some e => (take s e.2.2, [])
    | none =>
      match (mapGet [] s.bulk.stage (r.ash * 3 + r.eng)).find? here with
      | some e => (take (s.stageRow r.ash r.eng e) e.2.2, [])
      | none =>
        let (s, bs, fs) := s.bankRead d r.eng r.ash slice row 0 64 b (some r.q.ia)
        (take (if fs.isEmpty then s.stageRow r.ash r.eng (slice, row, bs) else s) bs, fs)

/-- One row of the load in progress is read (R180): what it holds goes to 64 words of the target bank. -/
def State.loadTurn (s : State) (d b i : Nat) : State × List BankFault :=
  match (s.dom d).ovLoad with
  | none => (s, [])
  | some (o, _) =>
    let (s, bs, fs) := s.bankRead d 4 o.ash o.slice (o.row + i) 0 64 b none
    match s.bankPlace d o.bank with
    | none => (s, fs)
    | some (p, k) =>
      (forAll (List.range 64) (fun s j =>
        s.setCornice p (k * 512 + i * 64 + j) (BitVec.ofNat 64 (leNat ((bs.drop (8 * j)).take 8)))) s, fs)

/-- The accesses of one bank cycle as they go: state, writes performed, faults. -/
abbrev Turn := State × List (Nat × Nat × List Byte) × List BankFault

/-- A write takes its ports; its bytes are stored after the reads of the bank cycle (R61). A bank that does not perform its
part keeps what it holds. -/
def State.writeTurn (s : State) (d b eng ash addr ia : Nat) (bs : List Byte) :
    State × List (Nat × Nat × List Byte) × List BankFault :=
  let slice := bitsOf addr 24 22
  let row := bitsOf addr 21 9
  let col := bitsOf addr 8 3
  if s.sliceReady ash slice = false then (s, [], [{ code := 0x21, ash, slice, bank := 0, addr, ia := some ia }])
  else
    let (s, skip, fs) := s.access d addr (some ia) { ash, slice, cycle := b, bank := row + col, n := max 1 (bs.length / 8), wr := true, eng }
    let ws := if skip = [] then [(ash, addr, bs)]
      else (bs.zipIdx.filter fun x => !skip.contains ((row + col + (addr % 8 + x.2) / 8) % 64)).map fun x => (ash, addr + x.2, [x.1])
    (s, ws, fs)

/-- A rescale table's entries. -/
def tableOf (bs : List Byte) : List Nat := (List.range 64).map fun n => leNat ((bs.drop (2 * n)).take 2)
/-- An entry with a nonzero reserved field (R124, R125). -/
def tableBad (es : List Nat) : Bool := es.any fun e => bitsOf e 14 9 != 0
/-- Place of an operation's rescale table, if it has one; its entries as they were read. -/
def Run.tableAt (r : Run) : Option Nat :=
  match r.v with | some v => v.tab.map fun a => (coreGet r.q.core r.ash (32 + a)).toNat | none => none
def Run.table (r : Run) : List Nat := match r.tableAt with | some x => tableOf (rowBytes r.rows x 128) | none => []

/-- The detector's reports of a read of `n` bytes in bank cycle `b` (R273, R278, R498). -/
def State.readRace (s : State) (ash addr n eng issued st b : Nat) (ia : Option Nat) : List BankFault :=
  let f (code : Nat) (two : Nat × Nat) : BankFault := { code, ash, slice := bitsOf addr 24 22, bank := 0, addr, ia, two }
  if s.debug then
    ((s.rowRace ash addr n eng issued st b true).map (f 0xF0)).toList
      ++ ((s.scopeRace ash addr n eng issued st).map fun l => f 0xF2 (l.cyc, b)).toList
  else []

/-- One access of bank cycle `b`. -/
def doAccess (d b : Nat) (u : Turn) (a : DueAct) : Turn :=
  let (s, ws, fs) := u
  match a with
  | .rd id ash slice row =>
    match s.runAt d id ash with
    | none => u
    | some r =>
      let own := r.rows.any fun e => e.1 = (slice, row)
      let race := if own then [] else s.readRace ash (slice <<< 22 + row <<< 9) 512 r.eng r.q.issued r.st b (some r.q.ia)
      let (s, g) := s.readTurn d b r slice row
      (s, ws, fs ++ g ++ race)
  | .ld ash addr sel ia issued =>
    let (s, bs, g) := s.bankRead d 3 ash (bitsOf addr 24 22) (bitsOf addr 21 9) (bitsOf addr 8 3) 1 b (some ia)
    let v := BitVec.ofNat 32 (leNat ((bs.drop (addr % 8)).take 4))
    let race := s.readRace ash addr 4 3 issued issued b (some ia)
    ((s.addDue d (issued + 13) (.core ash sel v)).hazSeen ash addr, ws, fs ++ g ++ race)
  | .wr eng ash addr bs ia _ =>
    let (s, w, g) := (s.hazWrote ash addr bs.length eng b).writeTurn d b eng ash addr ia bs
    (s, ws ++ w, fs ++ g)
  | .ovl i =>
    let race := match (s.dom d).ovLoad with
      | some (o, st) => s.readRace o.ash (o.slice <<< 22 + (o.row + i) <<< 9) 512 4 o.issued st b none
      | none => []
    let (s, g) := s.loadTurn d b i
    (s, ws, fs ++ g ++ race)
  | .run id ash .table _ =>
    match s.runAt d id ash with
    | none => u
    | some r =>
      if tableBad r.table then (s, ws, fs ++ [{ code := 0x03, ash, slice := 0, bank := 0, addr := r.tableAt.getD 0, ia := some r.q.ia }]) else u
  | _ => u

/-- The engine that makes an access, in the order in which a bank serves them (R62); a table is looked at when it has been
read (R124). -/
def State.accessEng (s : State) (d : Nat) : DueAct → Option Nat
  | .rd id ash _ _ => some (match s.runAt d id ash with | some r => r.eng | none => 0)
  | .wr eng .. => some eng
  | .ld .. => some 3
  | .ovl _ => some 4
  | .run _ _ .table _ => some 5
  | _ => none

/-- The fault of an ashlar's bank cycle that is recorded: of its conflicts, the lowest slice and bank (R62). -/
def worstConflict (l : List BankFault) : Option BankFault :=
  l.foldl (fun m f => match m with
    | none => some f
    | some g => if f.slice * 64 + f.bank < g.slice * 64 + g.bank then some f else m) none

/-- The faults that a bank cycle raises: one conflict for each ashlar, and the others (R62, R74, R77). -/
def bankFaults (l : List BankFault) : List BankFault :=
  let con := l.filter fun f => f.code = 0x26
  ((con.map (·.ash)).eraseDups.flatMap fun a => (worstConflict (con.filter fun f => f.ash = a)).toList)
    ++ l.filter fun f => f.code != 0x26

/-- A slice access faults in its bank cycle (R62, R74, R77), or the detector reports it (R498). -/
def State.bankFault (s : State) (d b : Nat) (f : BankFault) : State :=
  if 0xF0 ≤ f.code then s.hazard (f.code - 0xF0) f.ash f.addr f.ia f.two
  else s.accessFault d f.code f.ash f.addr f.ia (if f.code = 0x26 then f.slice + f.bank <<< 3 + (b % 2 ^ 23) <<< 9 else 0)

/-- Bytes are written in the bank cycle of wall cycle `w`; what they held is kept for the reads of that bank cycle that are still
to come (R61). -/
def State.wrBank (s : State) (ash addr w : Nat) (bs : List Byte) : State :=
  let d := s.domOf ash
  let s := if s.running d then
      s.modDom d fun x => { x with under := { wall := w, ash, addr, data := s.rdBytes ash addr bs.length } :: x.under }
    else s
  s.wrBytes ash addr bs

/-- Bytes as a read in the bank cycle of wall cycle `w` finds them: without the writes of that cycle or a later one (R61, R260). -/
def State.rdBank (s : State) (ash addr n w : Nat) : List Byte :=
  let l := ((s.dom (s.domOf ash)).under.filter fun u => decide (w ≤ u.wall) && u.ash = ash).reverse
  if l = [] then s.rdBytes ash addr n
  else (List.range n).map fun i =>
    match l.find? fun u => decide (u.addr ≤ addr + i) && decide (addr + i < u.addr + u.data.length) with
    | some u => u.data[addr + i - u.addr]?.getD 0
    | none => s.rdByte ash (addr + i)

/-- A write of an engine is performed: what its ashlar's stagings have taken of the row since it was issued is discarded too, so
that no engine reads an older value than the slice holds (R264, R270; DEDUCED, log entry 9). -/
def State.performWrite (s : State) (d ash addr : Nat) (bs : List Byte) : State :=
  (s.wrBank ash addr (s.dom d).wall bs).dropRows ash (bitsOf addr 24 22) (bitsOf addr 21 9)

/-- The accesses of bank cycle `b`: each engine's in turn, then the writes are stored, then the faults are raised. -/
def State.bankTurn (s : State) (d b : Nat) (l : List DueAct) : State :=
  let by_ (e : Nat) : List DueAct := l.filter fun a => s.accessEng d a = some e
  let u := forAll ([0, 1, 2, 3, 4, 5].flatMap by_) (doAccess d b) ((s, [], []) : Turn)
  let s := forAll u.2.1 (fun (s : State) w => s.performWrite d w.1 w.2.1 w.2.2) u.1
  forAll (bankFaults u.2.2) (fun (s : State) f => s.bankFault d b f) s

end Sys2Proof.Machine
end

