-- ==== Sys2Proof/Machine/Operands.lean ====
section
/-! DEFINITION. The words of the instruction stream: fields, layouts, the lead's checks of the word (R211, R212, R214,
R238, R239, R247, R253), predicates (R545) and scalar operands (R214). -/

namespace Sys2Proof.Machine

/-- Bits [hi:lo] of an instruction word. -/
def fld (w : Quad) (hi lo : Nat) : Nat := bitsOf w.toNat hi lo
/-- A signed field. -/
def sfld (w : Quad) (hi lo : Nat) : Int := signedOf (hi - lo + 1) (fld w hi lo)
def clsOf (w : Quad) : Nat := fld w 63 60
def opOf (w : Quad) : Nat := fld w 59 52

/-- Number of assigned operation codes of each class, codes from 0 up (R211, R238). -/
def assignedOps : List Nat := [10, 6, 6, 6, 5, 3, 4, 2]
/-- The class and operation code are assigned. -/
def assigned (w : Quad) : Bool := decide (opOf w < assignedOps[clsOf w]?.getD 0)

/-- Operand fields that a word's layout defines, as bit ranges of [47:0] (R212). -/
def layout (w : Quad) : List (Nat × Nat) :=
  let b (i : Nat) : Bool := fld w i i = 1
  let srcB : Nat × Nat := if b 31 then (19, 0) else (29, 24)
  match clsOf w, opOf w with
  | 0, 1 => [(47, 35), if b 35 then (3, 0) else (15, 0)]
  | 0, 2 => [(16, 0)]
  | 0, 3 => if fld w 47 46 < 2 then [(47, 39), (16, 0)] else if fld w 47 46 = 2 then [(47, 46), (43, 40), (38, 36), (16, 0)]
      else [(47, 46), (16, 0)]
  | 0, 4 => [(47, 40), (37, 32)]
  | 0, 5 => if b 47 then [(47, 47), (16, 0)] else []
  | 0, 6 => [(47, 0)]
  | 0, 7 | 0, 8 => [(35, 0)]
  | 0, 9 => [(15, 0)]
  | 1, 0 => [(43, 38), (31, 0)]
  | 1, 1 => [(47, 31), srcB]
  | 1, 2 => [(47, 40), (37, 31), srcB]
  | 1, 3 => [(43, 38), (8, 0)]
  | 1, 4 => [(43, 38), (0, 0)]
  | 1, 5 => [(43, 38), (33, 32), (15, 0)]
  | 2, 0 | 2, 1 | 2, 2 => [(43, 34), (23, 0)]
  | 2, 3 => [(47, 9)]
  | 2, 4 => [(47, 10)]
  | 2, 5 => [(47, 21), (19, 0)]
  | 3, 0 => if b 23 then [(41, 37), (31, 19)] else [(41, 37), (31, 23)]
  | 3, 1 => [(41, 37), (31, 24)]
  | 3, 2 => if b 39 then [(45, 39), (36, 32)] else [(45, 39), (23, 0)]
  | 3, 3 => [(35, 32)]
  | 3, 4 => [(33, 32), (2, 0)]
  | 3, 5 => [(3, 0)]
  | 4, 0 | 4, 1 => [(47, 0)]
  | 4, 2 | 4, 4 => [(43, 36)]
  | 4, 3 => [(39, 36), (9, 0)]
  | 5, 0 => [(47, 11)]
  | 5, 1 => [(47, 17)]
  | 5, 2 => [(47, 0)]
  | 6, o => [(47, 40), (35, 8)] ++ (if fld w 43 42 = 0 then [(39, 36)] else []) ++ (if o = 3 then [(7, 4)] else [])
  | 7, 0 => if b 34 then [(43, 24), (15, 0)] else [(43, 30), (15, 0)]
  | 7, 1 => [(43, 24), (22, 9)]
  | _, _ => []

/-- A bit that the layout leaves unlisted is set, or a class 0x0 predicate is nonzero (R164, R212 step 2). -/
def reservedSet (w : Quad) : Bool :=
  let x := fld w 47 0
  (layout w).foldl (fun n r => n - bitsOf x r.1 r.2 <<< r.2) x != 0 || (clsOf w = 0 && fld w 51 48 != 0)

/-! ## Register selectors -/

/-- A selector that may be a destination, a source of any kind (R214). -/
def dstOk (n : Nat) : Bool := decide (n < 48)
def srcOk (n : Nat) : Bool := decide (n < 52)

/-- The RDF fields that exist (R219). -/
def rdfField (f : Nat) : Bool := decide (f ≤ 9) || (decide (0x10 ≤ f) && decide (f ≤ 0x24))

/-! ## Formats and selectors of the engines -/

/-- The format pairings of a pass (R85, R86). -/
def pairOk (wf xf : Nat) : Bool := (isMx wf && isMx xf) || (wf = 1 && xf = 1)
/-- Depth K of a step (R85). -/
def depthK (wf : Nat) : Nat := if wf = 0xA ∨ wf = 0xB ∨ wf = 0xC then 128 else 64
/-- Step period P (R85). -/
def period (wf : Nat) : Nat := if wf = 1 then 4 else 1
/-- Weight tile size in bytes, without scales (R243). -/
def tileBytes (wf : Nat) : Nat := if wf = 1 then 8192 else if wf = 0xA ∨ wf = 0xB then 6144 else 4096

/-- A source or sink selector is well formed for its kind, format and N (R247): 0 SLICE, 1 ACC, 2 ACC4, 3 VREG; a sink's
VREG is passed as kind 3. -/
def selOk (kind fmt sel n : Nat) : Bool :=
  match kind with
  | 0 => decide (sel % 8 = 0) && (!isMx fmt || decide (sel / 4 ≤ 12))
  | 1 => decide (sel % 16 + n ≤ 16)
  | 2 => decide (sel < 16) && decide (n ≤ 4)
  | _ => decide (sel < 8) && decide (n = 1)

/-- FP32, BF16, FP16 or a plain integer. -/
def plainFmt (f : Nat) : Bool := decide (f < 6)

/-- The sources and sinks that a conversion accepts (R253): operation 0 CVT, 1 MXP, 2 MXU, 3 RSC. -/
def convOk (o sk nk sf df : Nat) : Bool :=
  let acc := sk = 1 || sk = 2
  match o with
  | 0 => (sk != 0 || plainFmt sf) && ((nk = 0 && (plainFmt df || (df = 6 && acc))) || (nk = 1 && df = 0))
  | 1 => (sk != 0 || plainFmt sf) && nk = 0 && isMx df
  | 2 => sk = 0 && isMx sf && ((nk = 0 && (df = 0 || df = 1)) || (nk = 1 && df = 0))
  | _ => acc && nk = 0 && plainFmt df

/-- An immediate field has a reserved or out-of-range value (R212 step 3), by what depends on the word alone. A pairing of
formats that R85 does not list faults here, at issue and by the lead, as R109 and R241 have it, where R86 says when the pass
starts (log entry 87, DESIGN CHOICE). -/
def rangeBad (w : Quad) : Bool :=
  let bsel := fld w 31 31
  match clsOf w, opOf w with
  | 0, 3 => fld w 47 46 = 3 || (fld w 47 46 = 2 && decide (6 ≤ fld w 38 36))
  | 1, 0 => !dstOk (fld w 43 38)
  | 1, 1 => decide (0xD ≤ fld w 47 44) || !dstOk (fld w 43 38) || !srcOk (fld w 37 32) || (bsel = 0 && !srcOk (fld w 29 24))
  | 1, 2 => decide (6 ≤ fld w 44 42) || fld w 41 40 = 3 || !srcOk (fld w 37 32) || (bsel = 0 && !srcOk (fld w 29 24))
  | 1, 3 => !dstOk (fld w 43 38) || !rdfField (fld w 7 0) || (fld w 8 8 = 1 && fld w 7 0 != 6)
  | 1, 4 => decide (32 ≤ fld w 43 38) || fld w 38 38 = 1
  | 1, 5 => decide (32 ≤ fld w 43 38)
  | 2, 0 => decide (32 ≤ fld w 43 38)
  | 2, 1 => decide (fld w 43 38 < 32) || decide (48 ≤ fld w 43 38)
  | 2, 2 => !srcOk (fld w 43 38)
  | 2, 3 | 2, 4 => fld w 35 24 = 0
  | 2, 5 => fld w 39 28 = 0
  | 3, 0 => fld w 31 24 = 0
  | 3, 4 => fld w 2 0 = 0
  | 3, 5 => fld w 3 0 = 0
  | 4, 0 => fld w 43 40 = 0 || !pairOk (fld w 35 32) (fld w 31 28)
  | 4, 1 => !pairOk (fld w 35 32) (fld w 31 28) || decide (15 < fld w 39 36 + fld w 43 40)
  | 4, 2 | 4, 4 => fld w 43 40 = 0
  | 5, 2 => (fld w 27 27 = 1 && fld w 26 26 = 1) || (fld w 26 26 = 1 && !plainFmt (fld w 25 22))
      || fld w 18 18 = 1 || fld w 14 14 = 1
  | 6, o =>
    let n := fld w 31 20 + 1
    let sk := fld w 43 42
    let nk := fld w 41 40
    decide (2 ≤ nk) || !convOk o sk nk (fld w 39 36) (fld w 35 32)
      || !selOk sk (fld w 39 36) (fld w 19 14) n || !selOk (if nk = 0 then 0 else 3) (fld w 35 32) (fld w 13 8) n
  | 7, 1 => decide (2 ≤ fld w 25 24) || fld w 26 26 = 1 || fld w 9 9 = 1
  | _, _ => false

/-- The fault of the lead's checks of a word, if any (R212). -/
def wordFault (w : Quad) : Option Nat :=
  if !assigned w then some 0x01 else if reservedSet w then some 0x02 else if rangeBad w then some 0x03 else none

/-! ## Predicates and scalar operands -/

/-- The predicate of a word in an ashlar (R545), by the control-core registers given. -/
def predOf (core : SMap Word) (w : Quad) (ash : Nat) : Bool :=
  (coreGet core ash (48 + fld w 50 48) != 0) != (fld w 51 51 = 1)

/-- The ashlars of a domain in which a word's predicate is true, in domain order (R165). -/
def State.live (s : State) (d : Nat) (core : SMap Word) (w : Quad) : List Nat := (s.domAsh d).filter (predOf core w)

/-- The iteration number of a loop level, 0 if it is not active (R192, R214). -/
def Dom.iter (x : Dom) (l : Nat) : Nat := match x.loops[l]? with | some v => v.latched - v.remaining | none => 0

/-- Read a scalar source selector (R214). -/
def State.src (s : State) (d ash sel : Nat) : Word :=
  if sel < 48 then s.coreGet ash sel else BitVec.ofNat 32 ((s.dom d).iter (sel - 48))

/-- An a-register of the register values given. -/
def aReg (core : SMap Word) (ash n : Nat) : Nat := (coreGet core ash (32 + n)).toNat
/-- An s-register of the register values given. -/
def sReg (core : SMap Word) (ash n : Nat) : Nat := (coreGet core ash n).toNat
/-- Sign-extend the low bits of a field to 32 bits. -/
def sext32 (w x : Nat) : Word := BitVec.ofInt 32 (signedOf w x)

/-- A signed register value. -/
def sgn (x : Nat) : Int := signedOf 32 x

end Sys2Proof.Machine
end

