-- ==== Sys2Proof/Machine/Array.lean ====
section
/-! DEFINITION. The matrix arrays: passes, ACCZ, WIN, CHK and REL of the array queue, from their start to their effects
(R85 to R101, R243 to R246, R546). -/

namespace Sys2Proof.Machine

/-- A pass: the fields of MMA and MMW (R239, R243). -/
structure Pass where
  wide : Bool
  /-- MASK of MMA, R_M1 of MMW. -/
  n : Nat
  set_ : Nat
  wf : Nat
  xf : Nat
  aw : Nat
  aws : Nat
  ax : Nat
  axs : Nat
  t : Nat
  fz : Bool
  xk : Option Nat
  deriving DecidableEq, Repr

/-- The excursion field of a word: zk, if enabled (R239). -/
def excursionOf (w : Quad) : Option Nat := if fld w 46 46 = 1 then some (fld w 45 44) else none

/-- The pass that a word of MMA or MMW names. -/
def passOf (w : Quad) : Pass :=
  { wide := decide (opOf w = 1), n := fld w 43 40, set_ := fld w 39 36, wf := fld w 35 32, xf := fld w 31 28,
    aw := fld w 27 24, aws := fld w 23 20, ax := fld w 19 16, axs := fld w 15 12, t := fld w 11 0,
    fz := decide (fld w 47 47 = 1), xk := excursionOf w }

/-- Arrays that take part. -/
def Pass.arrays (p : Pass) : List Nat := if p.wide then [0, 1, 2, 3] else (List.range 4).filter fun a => bitOf p.n a
/-- U of R244. -/
def Pass.u (p : Pass) : Nat := if p.wide then p.n + 1 else p.arrays.length
/-- K, G, P, TB of R243. -/
def Pass.k (p : Pass) : Nat := depthK p.wf
def Pass.g (p : Pass) : Nat := p.k / 32
def Pass.per (p : Pass) : Nat := period p.wf
/-- Vector steps of a block of MMW: S of R96. -/
def Pass.s (p : Pass) : Nat := max 4 (p.n + 1)
def Pass.tiles (p : Pass) : Nat := if p.wide then 4 * p.t else p.t
/-- Bytes of one activation vector, without scales. -/
def Pass.vecBytes (p : Pass) : Nat := p.k * fmtBits p.xf / 8

/-- Occupancy (R96). -/
def Pass.occ (p : Pass) : Nat :=
  if p.t = 0 then 1 else if p.wide then (4 + (p.t - 1) * p.s + p.n + 1) * p.per else p.t * p.per
/-- Offsets of the first and the last effect (R96); L_max is 6 (R546). -/
def Pass.first (p : Pass) : Nat := (if p.wide then 4 * p.per else 0) + 19
def Pass.last (p : Pass) : Nat := (if p.wide then (4 + (p.t - 1) * p.s + p.n) * p.per else (p.t - 1) * p.per) + 19

/-- A region of `len` bytes starts aligned and lies below 2^25 within one slice (R112, R244). -/
def regionOk (start : Int) (len align : Nat) : Bool :=
  let e : Int := start + max 1 len - 1
  decide (0 ≤ start) && decide (e < 2 ^ 25) && decide (start % align = 0) && decide (start / 2 ^ 22 = e / 2 ^ 22)

/-- The areas of a pass in an ashlar keep R244 and R546. A BF16 activation region in slice 6 or 7 is accepted, with the timing of
every other (R546 names slices 0 to 5 and no outcome elsewhere; log entry 111, DESIGN CHOICE). -/
def Pass.areasOk (p : Pass) (core : SMap Word) (ash : Nat) : Bool :=
  let w := aReg core ash p.aw
  let x := aReg core ash p.ax
  let bytes := p.tiles * tileBytes p.wf
  decide (w < 2 ^ 22) && decide (w % 512 = 0) && decide (w / 512 + ceilDiv bytes 4096 ≤ 8192)
    && regionOk x (p.u * p.t * p.vecBytes) 512
    && (!isMx p.wf || (regionOk (w + sgn (aReg core ash p.aws)) (p.tiles * 64 * p.g) 8
        && regionOk (x + sgn (aReg core ash p.axs)) (p.u * p.t * p.g) 8))

/-! ## Steps and reads -/

/-- Bytes of the striped region from offset `o`, among the rows read (R546). -/
def stripedBytes (m : List ((Nat × Nat) × List Byte)) (row0 o n : Nat) : List Byte :=
  let q0 := o / 512
  let rows := (List.range ((o + n - 1) / 512 - q0 + 1)).flatMap fun i => rowOf m ((q0 + i) % 8) (row0 + (q0 + i) / 8)
  (rows.drop (o % 512)).take n

/-- Rows of a striped span: slice, row. -/
def stripedRows (row0 o n : Nat) : List (Nat × Nat) :=
  (List.range ((o + n - 1) / 512 - o / 512 + 1)).map fun i => ((o / 512 + i) % 8, row0 + (o / 512 + i) / 8)

/-- The four places of a pass in an ashlar: weights, activations, and their scales (R243). -/
def Pass.wAt (p : Pass) (core : SMap Word) (ash : Nat) : Nat := aReg core ash p.aw
def Pass.xAt (p : Pass) (core : SMap Word) (ash : Nat) : Nat := aReg core ash p.ax
def Pass.wsAt (p : Pass) (core : SMap Word) (ash : Nat) : Nat := ((aReg core ash p.aw : Int) + sgn (aReg core ash p.aws)).toNat
def Pass.xsAt (p : Pass) (core : SMap Word) (ash : Nat) : Nat := ((aReg core ash p.ax : Int) + sgn (aReg core ash p.axs)).toNat

/-- The weight rows of tile `i` and its scale rows (R243). -/
def Pass.tileRows (p : Pass) (core : SMap Word) (ash i : Nat) : List (Nat × Nat) :=
  stripedRows (p.wAt core ash / 512) (i * tileBytes p.wf) (tileBytes p.wf)
    ++ (if isMx p.wf then spanRows (p.wsAt core ash + i * 64 * p.g) (64 * p.g) else [])
/-- The rows of activation vector `v`, and those of its scales. -/
def Pass.vecRows (p : Pass) (core : SMap Word) (ash v : Nat) : List (Nat × Nat) := spanRows (p.xAt core ash + v * p.vecBytes) p.vecBytes
def Pass.vecScaleRows (p : Pass) (core : SMap Word) (ash v : Nat) : List (Nat × Nat) :=
  if isMx p.wf then spanRows (p.xsAt core ash + v * p.g) p.g else []

/-- Issue cycle of tile `i`, from the start (R97). -/
def Pass.tileAt (p : Pass) (i : Nat) : Nat :=
  if p.wide then (if i < 4 then i else 4 + (i / 4 - 1) * p.s + i % 4) * p.per else i * p.per
/-- Number of vector steps; block and vector of step `j`; its issue cycle, from the start. -/
def Pass.stepCount (p : Pass) : Nat := if p.wide then p.t * (p.n + 1) else p.t
def Pass.stepOf (p : Pass) (j : Nat) : Nat × Nat := if p.wide then (j / (p.n + 1), j % (p.n + 1)) else (j, 0)
def Pass.stepAt (p : Pass) (j : Nat) : Nat :=
  let x := p.stepOf j
  if p.wide then (4 + x.1 * p.s + x.2) * p.per else j * p.per
/-- Activation vectors that a step uses, in order of the arrays they go to (R243). -/
def Pass.stepVecs (p : Pass) (j : Nat) : List Nat :=
  let x := p.stepOf j
  if p.wide then [x.2 * p.t + x.1] else (List.range p.u).map (x.1 * p.u + ·)

/-- A pass issues the reads of tile `i`, and has its next one before it (R97). -/
def State.tileStep (s : State) (d c : Nat) (r : Run) (i : Nat) : State :=
  let p := passOf r.q.word
  let s := s.issueReads d r.id r.ash c (p.tileRows r.q.core r.ash i)
  if i + 1 < p.tiles then s.addDue d (r.st + p.tileAt (i + 1)) (.run r.id r.ash .tile (i + 1)) else s

/-- A pass issues the reads of the activation vectors of step `j`; BF16 elements are read a cycle later (R546). -/
def State.vecStep (s : State) (d c : Nat) (r : Run) (j : Nat) : State :=
  let p := passOf r.q.word
  let vs := p.stepVecs j
  let s := s.issueReads d r.id r.ash (if p.wf = 1 then c + 1 else c) (vs.flatMap (p.vecRows r.q.core r.ash))
  let s := s.issueReads d r.id r.ash c (vs.flatMap (p.vecScaleRows r.q.core r.ash))
  if j + 1 < p.stepCount then s.addDue d (r.st + p.stepAt (j + 1)) (.run r.id r.ash .vec (j + 1)) else s

/-! ## Arithmetic -/

/-- An element of a vector or tile of a pass: its value after the flush, its scale byte (BF16: 127), and whether it was
flushed (R111, R115, R120). -/
structure PElem where
  val : Num
  scale : Nat
  flushed : Bool := false
  deriving DecidableEq, Repr

/-- A product of the element is dropped as NaN before either element is flushed (R120). -/
def PElem.nan (e : PElem) : Bool := e.scale = 255 || decide (e.val = .nan)

/-- One element read with its scale byte. -/
def passElem (f : Nat) (fz : Bool) (scale x : Nat) : PElem :=
  let r := flushNum (floatFmt f) fz (decodeElem f x)
  ⟨r.1, scale, decide (r.2.flush ≠ 0)⟩

/-- The elements of a vector of a pass (R111, R113). -/
def passElems (f : Nat) (fz : Bool) (bytes scales : List Byte) : List PElem :=
  if isMx f then
    (List.range (bytes.length / blockBytes f)).flatMap fun g =>
      let x := leNat ((bytes.drop (g * blockBytes f)).take (blockBytes f))
      let sc := (scales[g]?.getD 0).toNat
      (List.range 32).map fun i => passElem f fz sc (blockElem f x i)
  else (List.range (bytes.length / 2)).map fun i => passElem f fz 127 (leNat ((bytes.drop (2 * i)).take 2))

/-- The term of a product (R87, R120). -/
def pairTerm (W : Int) (x w : PElem) : Int × Bool × Tally :=
  productTerm x.val w.val (decide (x.scale = 255 ∨ w.scale = 255)) ((x.scale : Int) + w.scale - 254) W

/-- The terms of a column in one step, by depth. -/
def columnTerms (xs ws : List PElem) (W : Int) : List (Int × Bool × Tally) := (xs.zip ws).map fun e => pairTerm W e.1 e.2

/-- Their sum (R87, R120): sum, a clamped term among it, tally. -/
def columnSum (ts : List (Int × Bool × Tally)) : Int × Bool × Tally :=
  ts.foldl (fun (a : Int × Bool × Tally) r => (a.1 + r.1, a.2.1 || r.2.1, tallyAdd a.2.2 r.2.2)) (0, false, {})

/-- The 64 columns of a weight tile (R113). -/
def Pass.columns (p : Pass) (bytes scales : List Byte) : List (List PElem) :=
  let cb := bytes.length / 64
  (List.range 64).map fun n => passElems p.wf p.fz ((bytes.drop (n * cb)).take cb) ((scales.drop (n * p.g)).take p.g)

/-- Depth by depth: does any of the vectors hold an element there that is not NaN? -/
def alive (vs : List (List PElem)) : List Bool :=
  vs.foldl (fun (a : List Bool) v => (List.range (max a.length v.length)).map fun k =>
    (a[k]?.getD false) || (match v[k]? with | some e => !e.nan | none => false)) []

/-- Flushed elements of a vector whose partners at their depth are not all NaN: a product that is dropped as NaN flushes
nothing, and an element counts once each time it is read (R120). -/
def flushedIn (live : List Bool) (v : List PElem) : Nat :=
  ((v.zip live).filter fun e => e.1.flushed && !e.1.nan && e.2).length

/-- The weight tiles and the activation vectors of step `j`, as the pass has read them. -/
def Pass.stepTiles (p : Pass) (r : Run) (j : Nat) : List (List (List PElem)) :=
  let core := r.q.core
  let b := (p.stepOf j).1
  (if p.wide then (List.range 4).map (4 * b + ·) else [b]).map fun i =>
    p.columns (stripedBytes r.rows (p.wAt core r.ash / 512) (i * tileBytes p.wf) (tileBytes p.wf))
      (if isMx p.wf then rowBytes r.rows (p.wsAt core r.ash + i * 64 * p.g) (64 * p.g) else [])
def Pass.stepElems (p : Pass) (r : Run) (j : Nat) : List (List PElem) :=
  let core := r.q.core
  (p.stepVecs j).map fun v => passElems p.xf p.fz (rowBytes r.rows (p.xAt core r.ash + v * p.vecBytes) p.vecBytes)
    (if isMx p.xf then rowBytes r.rows (p.xsAt core r.ash + v * p.g) p.g else [])

/-- Elements that step `j` flushes (R120): those of its activation vectors, and those of its tiles that no earlier step with
the same tiles has flushed. -/
def Pass.stepFlush (p : Pass) (r : Run) (j : Nat) (ts : List (List (List PElem))) (vs : List (List PElem)) : Nat :=
  let earlier := if p.wide then (List.range (p.stepOf j).2).flatMap fun i => p.stepElems r (j - (p.stepOf j).2 + i) else []
  let tiles (live : List Bool) : Nat := ts.foldl (fun n t => t.foldl (fun n c => n + flushedIn live c) n) 0
  let live := alive ts.flatten
  vs.foldl (fun n v => n + flushedIn live v) 0 + (tiles (alive (earlier ++ vs)) - tiles (alive earlier))

/-- Sum of the products of one cell row in a step: at 6 and 4 bits a cell forms two (R85). Which depths share a row shows
nowhere: both sums of R98 take the same. -/
def rowTerms (k : Nat) (cols : List (List (Int × Bool × Tally))) : Int :=
  cols.foldl (fun n q => n + (q[k]?.map (·.1)).getD 0 + (q[k + 64]?.map (·.1)).getD 0) 0

/-- By how much faults at the places that a condition names put a value off (R547). -/
def faultOff (fs : List ArrFault) (at_ : FaultPlace → Bool) : Int := (fs.filter fun f => at_ f.place).foldl (fun n f => n + f.off) 0

def FaultPlace.inCol (c : Nat) : FaultPlace → Bool | .cell _ k => k = c | .column k => k = c | _ => false
def FaultPlace.inRow (k : Nat) : FaultPlace → Bool | .cell r _ => r = k | .checkColumn r => r = k | _ => false
def FaultPlace.inTotal : FaultPlace → Bool | .cell .. | .checkColumn _ | .checkAcc => true | _ => false

/-- What one array forms in a step (R98, R99, R547), and its tally: the faults enter the sums they befall. -/
def formArray (fs : List ArrFault) (arr set_ row : Nat) (x : List PElem) (cols : List (List PElem)) (W : Int) : StepOut × Tally :=
  let ts := cols.map fun c => columnTerms x c W
  let rs := ts.map columnSum
  let shadow := rowTerms row ts
  ({ arr, set_, row
     sums := rs.zipIdx.map fun r => (r.1.1 + faultOff fs (FaultPlace.inCol r.2), r.1.2.1)
     total := rs.foldl (fun n r => n + r.1) 0 + faultOff fs FaultPlace.inTotal
     main := shadow + faultOff fs (FaultPlace.inRow row)
     shadow := shadow + faultOff fs (· = .shadowRow) },
   rs.foldl (fun t r => tallyAdd t r.2.2) {})

/-- What a pass forms in step `j` (R98, R245) with the rotation indices given, and the step's tally without SAT. -/
def Pass.formStep (p : Pass) (r : Run) (rot : Nat → Nat) (j : Nat) : List StepOut × Tally :=
  let win (k : Nat) : Int := match r.regs with | b :: _ => mapGet 0 b.2.window (r.ash * 16 + k) | [] => 0
  let ts := p.stepTiles r j
  let vs := p.stepElems r j
  let set_ := if p.wide then p.set_ + (p.stepOf j).2 else p.set_
  let fs (a : Nat) := r.faults.filter fun f => f.ash = r.ash && f.arr = a && f.step = j
  let es := p.arrays.zipIdx.map fun a =>
    formArray (fs a.1) a.1 set_ (rot a.1) ((if p.wide then vs[0]? else vs[a.2]?).getD []) ((if p.wide then ts[a.1]? else ts[0]?).getD [])
      (win set_)
  (es.map (·.1), es.foldl (fun t e => tallyAdd t e.2) { flush := p.stepFlush r j ts vs })

/-- Stage G of step `j` at cycle `t`: the products are on the grid, the flushed elements show in FLUSHED (R104), and the
rotation indices advance (R98). -/
def State.formStepAt (s : State) (d t : Nat) (r : Run) (j : Nat) : State :=
  let p := passOf r.q.word
  let rot (a : Nat) : Nat := mapGet 0 s.bulk.rot (r.ash * 4 + a)
  let y := p.formStep r rot j
  let s := { s with bulk := { s.bulk with rot := p.arrays.foldl (fun m a => mapSet 0 m (r.ash * 4 + a) ((rot a + 1) % 64)) s.bulk.rot } }
  let s := s.flushSeen d t r.ash y.2
  let s := s.modRun d r.id r.ash fun x => { x with pipe := x.pipe ++ [(j, y.1, y.2)] }
  let s := s.addDue d (r.st + p.stepAt j + 18) (.run r.id r.ash .check j)
  if j + 1 < p.stepCount then s.addDue d (r.st + p.stepAt (j + 1) + 15) (.run r.id r.ash .form (j + 1)) else s

/-- What step `j` of a pass has formed. -/
def Run.formed (r : Run) (j : Nat) : List StepOut × Tally :=
  match r.pipe.find? fun e => e.1 = j with | some e => e.2 | none => ([], {})

/-- The row check compares (R98). -/
def StepOut.rowOk (e : StepOut) : Bool := decide (e.main = e.shadow)

/-- Stage A of step `j`: the row checks of the arrays compare, and the fault is raised, in its last cycle `t`, c + 18 (R98, R101; in
which of its three cycles, the spec does not say: log entry 99, DESIGN CHOICE). Of mismatches in one cycle the first record is that
of the first ashlar in domain order, and there of the lowest array (log entry 99, DESIGN CHOICE). -/
def State.rowCheck (s : State) (d t : Nat) (r : Run) (j : Nat) : State :=
  if s.get (Reg.ARR_CTRL.ROW_CHECK_EN (partOf r.ash)) = 1 then
    forAll ((r.formed j).1.filter fun e => !e.rowOk) (fun s e => s.mismatch d r.ash e.arr e.set_ r.q.ia t (some e.row)) s
  else s

/-- Accumulators of a set newly saturated between two states of the registers (R121). -/
def newSat (b b' : Bulk) (ash arr k : Nat) : Nat :=
  ((List.range 64).filter fun c => !(mapGet false b.satm (accKey ash arr k c)) && mapGet false b'.satm (accKey ash arr k c)).length

/-- Stage C of one array: its sums are added to its set, its total to the checksum accumulator (R99, R121): the state and
the accumulators newly saturated. -/
def State.addSums (s : State) (ash : Nat) (e : StepOut) : State × Nat :=
  let b := accCols s.bulk ash e.arr e.set_ e.sums e.total
  let n := newSat s.bulk b ash e.arr e.set_
  (({ s with bulk := b } : State).inc (Reg.ARR_UTIL.STEPS (partOf ash) (idxOf ash)), n)

/-- The column sums of step `j` of a pass are added; with the last step the tally becomes final in this cycle (R127). -/
def State.sumStep (s : State) (d t : Nat) (r : Run) (j : Nat) : State :=
  let p := passOf r.q.word
  let y := r.formed j
  let (s, n) := y.1.foldl (fun (a : State × Nat) e => let x := a.1.addSums r.ash e; (x.1, a.2 + x.2)) (s, 0)
  let ty := tallyAdd r.tally { y.2 with sat := y.2.sat + n }
  if j + 1 < p.stepCount then
    (s.modRun d r.id r.ash fun x => { x with tally := ty, pipe := x.pipe.filter fun e => e.1 ≠ j }).addDue d
      (r.st + p.stepAt (j + 1) + 20) (.run r.id r.ash .sum (j + 1))
  else (s.endRun d r.id r.ash).addDue d t (.tally false r.ash ty p.xk r.q.ia)

/-! ## Starts -/

/-- Occupancy, offsets of first and last effect of an array queue entry (R90, R95, R96, R235). -/
def arrayTiming (w : Quad) : Nat × Option (Nat × Nat) :=
  if clsOf w = 4 then
    match opOf w with
    | 0 | 1 => let p := passOf w; (p.occ, if p.t = 0 then none else some (p.first, p.last))
    | 4 => (2, some (1, 4))
    | _ => (1, some (1, 1))
  else (1, none)

/-- Cycle in which the head of the array queue starts (R95). -/
def arrayStart (x : Dom) (q : QEnt) : Nat :=
  let st := max (q.issued + 1) x.aOcc
  match (arrayTiming q.word).2, x.aEff with
  | some (f, _), some e => max st (e + 1 - f)
  | _, _ => st

/-- A pass starts in one ashlar at cycle `st`: its windows are those in force, its reads and sums follow. -/
def State.startPass (s : State) (d st id ash : Nat) (q : QEnt) (faults : List ArrFault) : State :=
  let p := passOf q.word
  if p.t = 0 then s
  else
    let b : Bulk := { window := s.bulk.window.filter fun e => e.1 / 16 = ash }
    let s := s.modDom d fun x => { x with runs := x.runs ++ [{ id, eng := 0, ash, st, q, regs := [(0, b)], faults }] }
    let s := s.addDue d (st + p.tileAt 0) (.run id ash .tile 0)
    let s := s.addDue d (st + p.stepAt 0) (.run id ash .vec 0)
    let s := s.addDue d (st + p.stepAt 0 + 15) (.run id ash .form 0)
    s.addDue d (st + p.stepAt 0 + 20) (.run id ash .sum 0)

/-- What a CHK of one array finds at cycle `c` (R100): 0 equal, 1 skipped, 2 a mismatch. -/
def chkResult (b : Bulk) (ash arr k : Nat) : Nat :=
  let cols := List.range 64
  if cols.any fun n => mapGet false b.satm (accKey ash arr k n) then 1
  else
    let tot := cols.foldl (fun (n : Int) c => n + (mapGet 0 b.acc (accKey ash arr k c)).toInt) 0
    if BitVec.ofInt 104 tot = mapGet 0 b.chk ((ash * 4 + arr) * 16 + k) then 0 else 2

/-- An array queue entry starts in one ashlar where its predicate is true (R245, R246). -/
def State.startArrayIn (s : State) (d st id : Nat) (q : QEnt) (faults : List ArrFault) (ash : Nat) : State :=
  let w := q.word
  let k := fld w 39 36
  let mask := fld w 43 40
  if clsOf w ≠ 4 then s
  else
    match opOf w with
    | 0 | 1 => s.startPass d st id ash q faults
    | 2 => s.addDue d (st + 2) (.accz ash mask k)
    | 3 => s.addDue d (st + 1) (.window ash k (sfld w 9 0))
    | _ => forAll ((List.range 4).filter fun a => bitOf mask a) (fun s a => s.addDue d (st + 1) (.chkRead ash a k q.ia)) s

/-- The head of the array queue starts (R95, R201), with the faults that befall its arrays (R547). -/
def State.arrayStartOp (s : State) (d : Nat) (faults : List ArrFault) : State :=
  match (s.dom d).aq with
  | [] => s
  | q :: rest =>
    let st := arrayStart (s.dom d) q
    if s.canRun d st then
      let tm := arrayTiming q.word
      let s := s.modDom d fun x => { x with
        aq := rest
        lastRun := x.lastRun + 1
        aOcc := st + tm.1
        aEff := match tm.2 with | some (_, l) => some (st + l) | none => x.aEff
        aEnd := match tm.2 with | some (_, l) => max x.aEnd (st + l + 1) | none => x.aEnd }
      forAll (s.live d q.core q.word) (fun s a => s.startArrayIn d st (s.dom d).lastRun q faults a) s
    else s

/-- ARRAY_OP_START (R95). -/
def execArrayOpStart (d : Nat) (s : State) (faults : List ArrFault := []) : Host.Outcome State Fault Refusal :=
  s.answer (s.arrayStartOp d faults)

end Sys2Proof.Machine
end

