-- ==== Sys2Proof/Machine/Chain.lean ====
section
/-! DEFINITION. Vector operations: decoding of vector and conversion words and of chain entries, the lead's and the
ashlars' checks, and timing (R133 to R147, R155, R156, R160, R247 to R253, R548). -/

namespace Sys2Proof.Machine

/-! ## Fields of the reduction (R249) -/

def VOp.rop (v : VOp) : Nat := bitsOf v.red 2 0
def VOp.wr (v : VOp) : Int := signedOf 10 (bitsOf v.red 12 3)
def VOp.sdstEn (v : VOp) : Bool := v.kind = .red && bitOf v.red 13
def VOp.sdstSlice (v : VOp) : Bool := bitOf v.red 14
def VOp.sdst (v : VOp) : Nat := bitsOf v.red 19 15
def VOp.cbEn (v : VOp) : Bool := v.kind = .red && bitOf v.red 20
def VOp.cbCmp (v : VOp) : Nat := bitsOf v.red 23 21
def VOp.cbSreg (v : VOp) : Nat := bitsOf v.red 28 24
def VOp.cbK (v : VOp) : Nat := bitsOf v.red2 1 0
def VOp.cbBit (v : VOp) : Nat := bitsOf v.red2 5 2
def VOp.qEn (v : VOp) : Bool := v.kind = .red && bitOf v.red2 6
def VOp.qn (v : VOp) : Nat := bitsOf v.red2 10 7
def VOp.qop (v : VOp) : Nat := bitsOf v.red2 12 11

/-- Unit (0 F, 1 S, 2 L), latency and operand count of a stage code (R142, R249). -/
def stageInfo (op : Nat) : Option (Nat × Nat × Nat) :=
  if op ≤ 2 then some (0, 4, 1) else if op = 3 then some (0, 4, 2) else if op ≤ 5 then some (2, 1, 1)
  else if op = 6 then some (2, 1, 2) else if op ≤ 9 then some (2, 1, 0) else if op = 10 then some (2, 1, 1)
  else if op ≤ 14 then some (1, 8, 0) else none

/-- Decode a stage word; none if its code is reserved or an unused field is set (R249, R250). -/
def stageOf (w : Nat) : Option Stage :=
  match stageInfo (bitsOf w 4 0) with
  | none => none
  | some (_, _, n) =>
    let op := bitsOf w 4 0
    if op = 9 then
      if bitsOf w 6 5 ≠ 0 ∨ bitsOf w 26 15 ≠ 0 then none else some ⟨op, signedOf 8 (bitsOf w 14 7), none, none⟩
    else
      let b : VArg := ⟨bitsOf w 6 5, bitsOf w 11 7, bitsOf w 15 12⟩
      let c : VArg := ⟨bitsOf w 17 16, bitsOf w 22 18, bitsOf w 26 23⟩
      let zero : VArg := ⟨0, 0, 0⟩
      if (n < 1 ∧ b ≠ zero) ∨ (n < 2 ∧ c ≠ zero) then none
      else some ⟨op, 0, if 1 ≤ n then some b else none, if 2 ≤ n then some c else none⟩

/-- Formats a SLICE source or operand may have (R137). -/
def sliceFmt (f : Nat) : Bool := fmtAssigned f && f != 6

/-- A stage operand is well formed (R141, R247). -/
def VArg.ok (a : VArg) : Bool :=
  match a.kind with
  | 0 => sliceFmt a.fmt && decide (a.idx < 16) && selOk 0 a.fmt (a.idx * 4) 1
  | 1 => decide (a.idx < 8)
  | _ => true

/-- The operands of the stages. -/
def VOp.args (v : VOp) : List VArg := v.stages.flatMap fun g => g.b.toList ++ g.c.toList
/-- SLICE operands, source first: format and a-register. -/
def VOp.slices (v : VOp) : List (Nat × Nat) :=
  (if v.sk = 0 then [(v.sf, v.ssel / 4)] else []) ++ (v.args.filter fun a => a.kind = 0).map fun a => (a.fmt, a.idx)
/-- Vector registers that are read. -/
def VOp.vregs (v : VOp) : List Nat :=
  (if v.sk = 3 then [v.ssel % 8] else []) ++ (v.args.filter fun a => a.kind = 1).map fun a => a.idx
/-- Slice reads of one vector (R141, R250). -/
def VOp.sliceReads (v : VOp) : Nat := v.slices.foldl (fun n r => n + if isMx r.1 then 2 else 1) 0

/-- The lead's checks of a chain entry (R137, R143, R250); those of the comparison and the condition bit hold for any entry
that is named. A reserved ROP, a reserved QOP with Q_EN 1, and a GSUM's SDST above 30, which R250 does not list, are out of range
too (log entry 113, DESIGN CHOICE). -/
def VOp.entryOk (v : VOp) : Bool :=
  (if v.sk = 0 then sliceFmt v.sf else true) && selOk v.sk v.sf v.ssel v.n && v.args.all VArg.ok && decide (v.sliceReads ≤ 3)
    && (match v.nk with
        | 0 => (sliceFmt v.nf || (v.nf = 6 && (v.sk = 1 || v.sk = 2) && v.stages.isEmpty)) && selOk 0 v.nf v.nsel v.n
        | 1 => selOk 3 0 v.nsel v.n
        | _ => true)
    && decide (v.cbCmp ≤ 5) && (!bitOf v.red 20 || decide (4 ≤ v.cbBit))
    && (v.kind = .chain || (decide (v.rop ≤ 5)
        && (!v.qEn || decide (v.qop ≤ 2)) && (!v.sdstEn || v.sdstSlice || v.rop != 1 || decide (v.sdst ≤ 30))))

/-- The chain operation a word of VCH or VRED names; none where the lead raises OPERAND_RANGE (R248, R250). -/
def State.chainOp (s : State) (d : Nat) (w : Quad) : Option VOp :=
  let e := fld w 43 35
  match (s.members d)[e / 32]? with
  | none => none
  | some p =>
    let x := e % 32
    let h := (s.rw (Reg.VEC_CH_HDR.addr p x)).toNat
    let ns := bitsOf h 3 0
    let nk := bitsOf h 11 10
    if bitOf h 16 = false ∨ 8 < ns ∨ nk = 3 ∨ (decide (nk = 2)) ≠ decide (opOf w = 1) then none
    else
      let stages := (List.range ns).map fun k => stageOf (s.rw (Reg.VEC_CH_STG.addr p x k)).toNat
      if stages.any Option.isNone then none
      else
        let v : VOp :=
          { kind := if opOf w = 1 then .red else .chain, n := fld w 34 23 + 1, fz := decide (fld w 47 47 = 1),
            xk := excursionOf w, sk := bitsOf h 5 4, sf := bitsOf h 9 6, ssel := fld w 22 17, nk, nf := bitsOf h 15 12,
            nsel := fld w 16 11, stages := stages.flatMap Option.toList,
            red := (s.rw (Reg.VEC_CH_RED.addr p x)).toNat, red2 := (s.rw (Reg.VEC_CH_RED2.addr p x)).toNat }
        if v.entryOk then some v else none

/-- The operation a conversion or VSUM word names; its word has passed R212. -/
def wordOp (w : Quad) : VOp :=
  let fz := decide (fld w 47 47 = 1)
  let xk := excursionOf w
  if clsOf w = 5 then
    let f := fld w 27 27
    let rsc := fld w 26 26 = 1
    { kind := .vsum, n := fld w 43 40 + 1, m := fld w 39 28 + 1, fz, xk, sk := 0, sf := if f = 0 then 6 else 0,
      ssel := fld w 21 18 * 4, nk := 0, nf := if rsc then fld w 25 22 else if f = 0 then 6 else 0, nsel := fld w 17 14 * 4,
      tab := if rsc then some (fld w 13 10) else none, wv := sfld w 9 0 }
  else
    { kind := match opOf w with | 0 => .cvt | 1 => .mxp | 2 => .mxu | _ => .rsc
      n := fld w 31 20 + 1, fz, xk, sk := fld w 43 42, sf := fld w 39 36, ssel := fld w 19 14, nk := fld w 41 40,
      nf := fld w 35 32, nsel := fld w 13 8, tab := if opOf w = 3 then some (fld w 7 4) else none }

/-- The operation of a word of classes 0x5 and 0x6. -/
def State.vopOf (s : State) (d : Nat) (w : Quad) : Option VOp :=
  if clsOf w = 5 ∧ opOf w < 2 then s.chainOp d w else some (wordOp w)

/-! ## Places of lane vectors (R136, R247) -/

/-- Bytes of a lane vector. -/
def laneBytes (f : Nat) : Nat := if f = 6 then 1024 else 8 * fmtBits f
/-- Address of lane vector `j` of the SLICE operand at a[a]. -/
def lanePos (core : SMap Word) (ash a j : Nat) : Int := aReg core ash a + (j : Int) * sgn (aReg core ash (a + 1))
/-- Address of its first scale byte. -/
def scalePos (core : SMap Word) (ash f a j : Nat) : Int :=
  aReg core ash a + sgn (aReg core ash (a + 2)) + (j : Int) * sgn (aReg core ash (a + 1)) / blockBytes f
/-- Slice field of an address. -/
def sliceOf (x : Int) : Nat := (x / 2 ^ 22 % 8).toNat
/-- An address range lies below 2^25. -/
def inRange (x : Int) (n : Nat) : Bool := decide (0 ≤ x) && decide (x + n ≤ 2 ^ 25)

/-- The lane vectors of a SLICE operand keep R136. DESIGN CHOICE: the rule gives an alignment for elements of at most 32 bits
only; an ACC96 lane vector that does not start a row, or whose second row lies in the next slice, fails the check as well (log
entry 83). -/
def laneOk (core : SMap Word) (ash f a n : Nat) : Bool :=
  let b := laneBytes f
  let scale0 := scalePos core ash f a 0
  (List.range n).all (fun j =>
    let x := lanePos core ash a j
    inRange x b && (if f = 6 then decide (x % 512 = 0) && decide (x / 2 ^ 22 = (x + 1023) / 2 ^ 22)
      else decide (x % b = 0) && decide (x / 512 = (x + b - 1) / 512)))
    && (!isMx f || (decide ((aReg core ash a + sgn (aReg core ash (a + 2))) % 8 = 0)
      && (List.range n).all fun j =>
        let y := scalePos core ash f a j
        inRange y 2 && decide (y / 2 ^ 22 = scale0 / 2 ^ 22) && decide ((y + 1) / 2 ^ 22 = scale0 / 2 ^ 22)))

/-- A word-aligned place of `n` bytes within one slice (R124, R251). -/
def placeOk (x n : Nat) : Bool := decide (x % 8 = 0) && decide (x + n ≤ 2 ^ 25) && decide (x / 2 ^ 22 = (x + n - 1) / 2 ^ 22)

/-- Checks of an operation's a-register values in an ashlar (R124, R136, R251). -/
def VOp.regsOk (v : VOp) (core : SMap Word) (ash : Nat) : Bool :=
  v.slices.all (fun r => laneOk core ash r.1 r.2 (v.n * v.m))
    && (v.nk != 0 || laneOk core ash v.nf (v.nsel / 4) (if v.kind = .vsum then v.m else v.n))
    && (match v.tab with | some a => placeOk (aReg core ash a) 128 | none => true)
    && (!(v.sdstEn && v.sdstSlice) || placeOk (aReg core ash (v.sdst % 16)) (if v.rop = 1 then 16 else 8))

/-! ## Timing -/

/-- The largest of a list, 0 for none; the smallest, if any. -/
def maxOf (l : List Nat) : Nat := l.foldl max 0
def minOf? : List Nat → Option Nat
  | [] => none
  | x :: l => some (l.foldl min x)

/-- The value that every element of a list has; 0 for no element, none where they differ. -/
def sameOf : List Nat → Option Nat
  | [] => some 0
  | x :: l => if l.all fun y => y = x then some x else none

/-- Timing of an operation that is the same in every ashlar: its largest read latency (R548); the offsets of its first bank
access and of the bank cycle of its last slice write, if it makes one (R235). -/
structure VTime where
  rd : Nat
  first : Option Nat := none
  lastW : Option Nat := none
  deriving DecidableEq, Repr

/-- Stages that use a unit. -/
def VOp.unitCount (v : VOp) (u : Nat) : Nat := (v.stages.filter fun g => (stageInfo g.op).map (·.1) = some u).length
/-- Lane vectors each input vector sends to the F and to the S unit (R160, R162). -/
def VOp.fIssues (v : VOp) : Nat := if v.kind = .rsc then 1 else v.unitCount 0
def VOp.sIssues (v : VOp) : Nat := v.unitCount 1
/-- Initiation interval (R144). -/
def VOp.ii (v : VOp) : Nat := max (max 1 (v.unitCount 0)) (max (v.unitCount 1) (ceilDiv (v.unitCount 2) 2))
/-- Sum of stage latencies; a conversion is one stage (R142, R160). -/
def VOp.stageLat (v : VOp) : Nat :=
  match v.kind with
  | .cvt | .mxu => 2
  | .mxp => 4
  | .rsc => 3
  | _ => v.stages.foldl (fun n g => n + ((stageInfo g.op).map (·.2.1)).getD 0) 0
/-- S_src (R145). -/
def VOp.sSrc (v : VOp) (t : VTime) : Nat :=
  max (2 * t.rd) (max (if v.sk = 1 ∨ v.sk = 2 then 2 else 0) (if v.vregs = [] then 0 else 1))
/-- Chain delay D (R145). -/
def VOp.delay (v : VOp) (t : VTime) : Nat := v.sSrc t + v.stageLat
/-- Occupancy (R147, R155, R156). -/
def VOp.occ (v : VOp) : Nat := if v.kind = .vsum then v.n * v.m else v.n * v.ii
/-- Lane vectors that an operation reads, one after the other; what lies between two of them. -/
def VOp.readCount (v : VOp) : Nat := if v.kind = .vsum then v.n * v.m else v.n
def VOp.readStep (v : VOp) : Nat := if v.kind = .vsum then 1 else v.ii
/-- Outputs: lane vectors or groups. -/
def VOp.outCount (v : VOp) : Nat := if v.kind = .vsum then v.m else v.n
/-- Offset of the sink write of vector or group `j`. -/
def VOp.sinkAt (v : VOp) (t : VTime) (j : Nat) : Nat :=
  if v.kind = .vsum then (j + 1) * v.n - 1 + 2 * t.rd + 3 else j * v.ii + v.delay t
/-- Offset of the last effect. -/
def VOp.last (v : VOp) (t : VTime) : Nat :=
  if v.kind = .vsum then v.sinkAt t (v.m - 1) else v.sinkAt t (v.n - 1) + (if v.kind = .red then 6 else 0)

/-- The slice reads of an operation in an ashlar, each with its issue cycle from the start and its latency. -/
def VOp.readAccs (v : VOp) (core : SMap Word) (ash : Nat) : List (Nat × Nat) :=
  v.slices.flatMap (fun r => (List.range (v.n * v.m)).flatMap fun j =>
    let at_ := j * v.readStep
    (at_, sliceLat (sliceOf (lanePos core ash r.2 j)))
      :: (if isMx r.1 then [(at_, sliceLat (sliceOf (scalePos core ash r.1 r.2 j)))] else []))
    ++ (match v.tab with | some a => [(0, sliceLat (sliceOf (aReg core ash a)))] | none => [])
/-- Its slice writes, given its read latency. -/
def VOp.writeAccs (v : VOp) (t : VTime) (core : SMap Word) (ash : Nat) : List (Nat × Nat) :=
  (if v.nk = 0 then (List.range v.outCount).flatMap fun j =>
      let at_ := v.sinkAt t j
      let x := lanePos core ash (v.nsel / 4) j
      (at_, sliceLat (sliceOf x))
        :: ((if v.nf = 6 then [(at_ + 1, sliceLat (sliceOf (x + 512)))] else [])
          ++ (if isMx v.nf then [(at_, sliceLat (sliceOf (scalePos core ash v.nf (v.nsel / 4) j)))] else []))
    else [])
    ++ (if v.sdstEn && v.sdstSlice then [(v.last t, sliceLat (sliceOf (aReg core ash (v.sdst % 16))))] else [])

/-- The bank cycles of accesses, from the start. -/
def bankOffs (l : List (Nat × Nat)) : List Nat := l.map fun a => a.1 + a.2

/-- The timing of an operation in a domain; none where the ashlars' read latencies differ (R548). DESIGN CHOICE: one read
latency is taken over all lane vectors of the instruction, where R145 says "of the vector" (log entry 84). -/
def State.vTiming (s : State) (d : Nat) (v : VOp) (core : SMap Word) : Option VTime :=
  let ashs := s.domAsh d
  (sameOf (ashs.map fun a => maxOf ((v.readAccs core a).map (·.2)))).map fun rd =>
    let ws := ashs.flatMap fun a => bankOffs (v.writeAccs { rd } core a)
    { rd, first := minOf? (ashs.flatMap (fun a => bankOffs (v.readAccs core a)) ++ ws)
      lastW := match ws with | [] => none | _ => some (maxOf ws) }

/-! ## SMP (R255, R256) -/

/-- Element bytes of SMP's logits. -/
def smpElem (w : Quad) : Nat := if fld w 25 24 = 0 then 4 else 2
def smpP (w : Quad) : Nat := fld w 22 21 + 1
def smpNv (w : Quad) : Nat := fld w 20 14 + 1
/-- Address of lane vector `v` of position `p`. -/
def smpPos (core : SMap Word) (ash : Nat) (w : Quad) (p v : Nat) : Int :=
  lanePos core ash (fld w 29 26) p + (v * 64 * smpElem w : Nat)
/-- All lane vectors of an SMP, in read order. -/
def smpVecs (w : Quad) : List (Nat × Nat) := (List.range (smpP w)).flatMap fun p => (List.range (smpNv w)).map fun v => (p, v)
/-- The logits' places keep R136. -/
def smpOk (w : Quad) (core : SMap Word) (ash : Nat) : Bool :=
  (smpVecs w).all fun k =>
    let x := smpPos core ash w k.1 k.2
    let b := 64 * smpElem w
    inRange x b && decide (x % b = 0)
def State.smpTiming (s : State) (d : Nat) (w : Quad) (core : SMap Word) : Option VTime :=
  let lats (a : Nat) := (smpVecs w).map fun k => sliceLat (sliceOf (smpPos core a w k.1 k.2))
  (sameOf ((s.domAsh d).map fun a => maxOf (lats a))).map fun rd =>
    { rd, first := minOf? ((s.domAsh d).flatMap fun a => bankOffs ((lats a).zipIdx.map fun x => (x.2, x.1))) }

/-! ## Start (R146, R235) -/

/-- What the start of a vector queue entry needs: occupancy, last effect offset if any, first bank access offset if any,
vector registers read. -/
structure VStart where
  occ : Nat
  last : Option Nat
  bank : Option Nat
  vregs : List Nat
  deriving DecidableEq, Repr

/-- Timing of a vector queue entry; none where the ashlars differ (R548). -/
def State.vStart (s : State) (d : Nat) (q : QEnt) : Option VStart :=
  let w := q.word
  if clsOf w = 3 then some ⟨1, none, none, []⟩
  else if clsOf w = 7 then
    (s.smpTiming d w q.core).map fun t =>
      ⟨smpP w * smpNv w, some (smpP w * smpNv w + 2 * t.rd + Config.smpLat), t.first, []⟩
  else
    match s.vopOf d w with
    | none => some ⟨1, none, none, []⟩
    | some v =>
      (s.vTiming d v q.core).map fun t =>
        ⟨v.occ, some (v.last t), t.first, v.vregs⟩

/-- Cycle in which the head of the vector queue starts. -/
def vecStart (x : Dom) (q : QEnt) (t : VStart) : Nat :=
  let st := max (q.issued + 1) x.vOcc
  let st := t.vregs.foldl (fun st r =>
    x.vWrite.foldl (fun st w => if w.1 = r then max st (w.2 + 1) else st) st) st
  match t.bank with | some b => max st (x.relV - b) | none => st

end Sys2Proof.Machine
end

