-- ==== Sys2Proof/Machine/Transfer.lean ====
section
/-! DEFINITION. The transfer engine: XFER, MCAST, STK, EMIT and REL of the transfer queue, from their start to the
packets, row requests and records they hand on (R226 to R235, R258). -/

namespace Sys2Proof.Machine

/-! ## Fields -/

/-- Granules of an XFER or MCAST; rows of an STK. -/
def xferLen (w : Quad) : Nat := fld w 35 24
def stkLen (w : Quad) : Nat := fld w 39 28
/-- An XFER with GET; a MCAST. -/
def isGet (w : Quad) : Bool := opOf w = 3 && fld w 9 9 = 1
def isMcast (w : Quad) : Bool := opOf w = 4
/-- A scope's code covers an ashlar, seen from another of this module (R269). -/
def scopeCovers (scope from_ dst : Nat) : Bool :=
  match scope with
  | 0 => from_ = dst
  | 1 => partOf from_ = partOf dst
  | _ => true

/-- Granules of an EMIT with MODE 1. -/
def emitLen (w : Quad) : Nat := fld w 29 24 + 1

/-- Occupancy of a transfer queue entry (R226, R235, R258). -/
def transferOcc (w : Quad) : Nat :=
  if clsOf w = 2 then
    if opOf w = 5 then 1 else if isGet w then ceilDiv (xferLen w) 64 else ceilDiv (xferLen w) 2
  else if clsOf w = 7 then (if fld w 34 34 = 1 then 1 + ceilDiv (emitLen w) 2 else 1)
  else 1

/-- Cycle in which the head of the transfer queue starts (R226). -/
def transferStart (x : Dom) (q : QEnt) : Nat := max (q.issued + 1) x.tOcc

/-- Latency of the slice that an XFER, MCAST or EMIT reads in an ashlar. -/
def xferLat (core : SMap Word) (w : Quad) (ash : Nat) : Nat :=
  sliceLat (sliceOf (aReg core ash (if clsOf w = 7 then fld w 33 30 else fld w 47 44)))

/-- Offsets from the start at which packet `i` begins to enter the fabric and is handed off (R227, R228). -/
def enterAt (w : Quad) (lat i : Nat) : Nat := if isGet w then i else 2 * lat + 32 * i
def handAt (w : Quad) (lat i : Nat) : Nat := if isGet w then i else 2 * lat + (min (64 * (i + 1)) (xferLen w) - 1) / 2

/-- Last effect of a transfer queue entry, from its start, in an ashlar (R226, R258). -/
def transferLast (core : SMap Word) (w : Quad) (ash : Nat) : Nat :=
  if clsOf w = 2 then (if opOf w = 5 then 0 else handAt w (xferLat core w ash) (ceilDiv (xferLen w) 64 - 1))
  else if clsOf w = 7 then (if fld w 34 34 = 1 then transferOcc w + 2 * xferLat core w ash else 1)
  else 0

/-! ## Packets -/

/-- Packet `i` of an XFER or MCAST (R227, R228, R328, R330, R342). -/
def State.xferPkt (s : State) (d : Nat) (core : SMap Word) (w : Quad) (ash id i : Nat) (data : List Byte) : Pkt :=
  let a (hi lo : Nat) : Nat := aReg core ash (fld w hi lo)
  let g := min 64 (xferLen w - 64 * i)
  let inc := if fld w 17 17 = 1 then 0 else g
  let last := decide (i + 1 = ceilDiv (xferLen w) 64)
  let tgt := a 39 36
  let base : Pkt := { id, last, srcMod := s.moduleId, srcAsh := ash, hops := s.get Reg.UBN_CTRL.HOP_LIMIT,
                      course := (s.dom d).course % 256 }
  if isGet w then
    { base with
      cls := 2
      typ := 1
      dstMod := bitsOf tgt 21 10
      dst := bitsOf tgt 9 0
      addr := a 43 40 + 4096 * i
      payload := leBytes 64 ((a 47 44 + 4096 * i) % 2 ^ 25 + fld w 23 18 <<< 25 + inc <<< 31 + g <<< 38 + fld w 16 16 <<< 45) }
  else
    { base with
      cls := fld w 16 16
      mc := isMcast w
      dstMod := if isMcast w then 0 else bitsOf tgt 21 10
      dst := if isMcast w then bitsOf tgt 11 0 else bitsOf tgt 9 0
      addr := (if isMcast w then a 47 44 else a 43 40) + 4096 * i
      cairn := fld w 23 18
      inc
      payload := (data.drop (4096 * i)).take (64 * g) }

/-- A check point comes (R34, R203, R230, R235, R339). -/
def State.doCheck (s : State) (d : Nat) : DueAct → State
  | .claim p xfer hand early => s.claimPkt d p xfer hand early
  | .room p enter => s.roomCheck d p enter
  | .relChk pkts hand early => s.relCheck d pkts hand early
  | .stkClaim id start early => s.stkClaim d id start early
  | _ => s

/-- A check H cycles before schedule cycle `t`; the action learns how many wall cycles ago that was, if it has passed (R34). -/
def State.checkAt (s : State) (d t : Nat) (f : Nat → DueAct) : State :=
  let x := s.dom d
  if t ≤ x.cyc + Config.H then s.doCheck d (f (x.early t)) else s.addDue d (t - Config.H) (f 0)

/-- The packets a REL has covered in an ashlar, waiting for the first packet after it (R235). -/
def Dom.covered (x : Dom) (ash : Nat) : List Nat := (x.relT.filter fun r => r.1 = ash).flatMap (·.2)

/-- The region that an XFER, MCAST or EMIT reads in an ashlar, and the cycle of its first read from the start (R227, R258). -/
def xferAddr (core : SMap Word) (w : Quad) (ash : Nat) : Nat := aReg core ash (if clsOf w = 7 then fld w 33 30 else fld w 47 44)
def xferBytes (w : Quad) : Nat := 64 * if clsOf w = 7 then emitLen w else xferLen w

/-- In cycle `c` a transfer operation issues the read of row vector `j` of its region; the next follows 4 cycles later
(R227). -/
def State.xferRead (s : State) (d c : Nat) (r : Run) (j : Nat) : State :=
  let rows := spanRows (xferAddr r.q.core r.q.word r.ash) (xferBytes r.q.word)
  let s := s.issueReads d r.id r.ash c (rows[j]?.toList)
  if j + 1 < rows.length then s.addDue d (c + 4) (.run r.id r.ash .read (j + 1)) else s

/-- Bytes of the region that an operation has read; a row whose bank cycle is still to come is that of the staging copy which
will serve the read (R263), or reads as it stands (DEDUCED, log entry 27). -/
def State.regionBytes (s : State) (r : Run) (addr n : Nat) : List Byte :=
  let staged := r.kept ++ mapGet [] s.bulk.stage (r.ash * 3 + r.eng)
  let rest := (spanRows addr n).filter fun k => !r.rows.any fun e => e.1 = k
  rowBytes (r.rows ++ rest.map fun k => (k, match staged.find? fun e => e.1 = k.1 && e.2.1 = k.2 with
    | some e => e.2.2
    | none => s.rdBytes r.ash (k.1 <<< 22 + k.2 <<< 9) 512)) addr n

/-- Packet `i` of an operation takes the bytes it carries as its last granule enters the fabric (R227). -/
def State.fillPkt (s : State) (r : Run) (i pkt : Nat) : State :=
  let n := min 4096 (xferBytes r.q.word - 4096 * i)
  let bs := s.regionBytes r (xferAddr r.q.core r.q.word r.ash + 4096 * i) n
  s.modFab fun f => { f with
    waits := f.waits.map fun x => if x.pkt.id = pkt then { x with pkt := { x.pkt with payload := bs } } else x }

/-- Granules 2k and 2k + 1 of an operation entered the fabric in wall cycle `w`, the cycle before schedule cycle `t`; with its
last granule a packet was handed over (R227). `first` names the operation's first packet. -/
def State.enterPair (s : State) (d t w id ash k first : Nat) : State :=
  match s.runAt d id ash with
  | none => s
  | some r =>
    let len := xferLen r.q.word
    let i := k / 32
    let s := forAll ((List.range 2).filter fun j => decide (2 * k + j < len)) (fun s j =>
      let n := 2 * k + j
      let hand := handOf (s.dom d).course (r.st + handAt r.q.word (xferLat r.q.core r.q.word ash) i)
      s.enterGran (s.xferPkt d r.q.core r.q.word ash (first + i) i []) (min 64 (len - 64 * i)) (n % 64) w hand
        (s.regionBytes r (xferAddr r.q.core r.q.word ash + 64 * n) 64)) s
    let s := if min len (64 * (i + 1)) ≤ 2 * k + 2 then (s.fillPkt r i (first + i)).handPkt (first + i) w else s
    if 2 * k + 2 < len then s.addDue d (t + 1) (.enter id ash (k + 1) first) else s

/-- An XFER or MCAST starts in an ashlar (R227 to R230, R235, R339). -/
def State.startXfer (s : State) (d st op : Nat) (q : QEnt) (ash : Nat) : State :=
  let w := q.word
  let n := ceilDiv (xferLen w) 64
  let lat := xferLat q.core w ash
  let s := if isGet w then s
    else (s.modDom d fun x => { x with runs := x.runs ++ [{ id := op, eng := 2, ash, st, q }] }).addDue d st (.run op ash .read 0)
  let id := s.fab.nextId
  let blank := List.replicate (64 * xferLen w) (0 : Byte)
  let pkt (i : Nat) : Pkt := s.xferPkt d q.core w ash (id + 1 + i) i blank
  let rel := (s.dom d).covered ash
  let s := s.hazSignal ash (id + 1)
  let s := (s.modDom d fun x => { x with relT := x.relT.filter fun v => v.1 ≠ ash }).modFab fun f => { f with
    nextId := id + 1 + n
    xfers := f.xfers ++ [{ id, ash, pkts := (List.range n).map (id + 1 + ·), sem := if fld w 15 15 = 1 then some (fld w 14 10) else none,
                           mc := isMcast w, dstMod := (pkt 0).dstMod, dst := (pkt 0).dst, get := isGet w, ia := q.ia }] }
  let s := if rel.isEmpty then s
    else s.checkAt d (st + handAt w lat 0) fun e => .relChk rel (st + handAt w lat 0) e
  let s := forAll (List.range n) (fun s i =>
    let e := st + enterAt w lat i
    let t := st + handAt w lat i
    let s := s.checkAt d t fun early => .claim (pkt i) id t early
    let s := s.checkAt d e fun _ => .room (pkt i) e
    if isGet w then s.addDue d (t + 1) (.hand (id + 1 + i)) else s) s
  if isGet w then s else s.addDue d (st + 2 * lat + 1) (.enter op ash 0 (id + 1))

/-- The STK that a transfer queue entry is in an ashlar (R232, R233). -/
def QEnt.stk (q : QEnt) (id ash : Nat) (started : Bool) : StkOp :=
  let w := q.word
  let dl := fld w 19 0
  { id, issued := q.issued, started, ash, dir := decide (fld w 27 27 = 1), addr := aReg q.core ash (fld w 47 44),
    mor := aReg q.core ash (fld w 43 40), left := List.range (stkLen w), cairn := fld w 26 21,
    deadline := if dl = 0 then none else some (q.issued + dl), ia := q.ia }

/-- An STK of a queue entry is listed in an ashlar (R232, R233); it has its number. -/
def State.listStk (s : State) (q : QEnt) (started : Bool) (ash : Nat) : State :=
  let id := s.fab.nextId
  s.modFab fun f => { f with nextId := id + 1, stks := f.stks ++ [q.stk id ash started] }

/-- An STK starts in an ashlar (R230, R232, R233); one whose deadline has come before is listed already. -/
def State.startStk (s : State) (d st : Nat) (q : QEnt) (ash : Nat) : State :=
  let mine (k : StkOp) : Bool := k.ash = ash && k.issued = q.issued && !k.started
  let s := if s.fab.stks.any mine then s else s.listStk q false ash
  match s.fab.stks.find? mine with
  | none => s
  | some k =>
    let s := s.modFab fun f => { f with stks := (f.stks.filter fun x => x.id ≠ k.id) ++ [{ k with started := true }] }
    s.checkAt d st fun early => .stkClaim k.id st early

/-- The packets that a REL with ENG 3 covers in an ashlar (R235): a multicast is covered where one of its leaves is. -/
def State.relPkts (s : State) (ash scope : Nat) : List Nat :=
  (s.fab.xfers.filter fun x => x.ash = ash &&
    (scope = 3 || (if x.mc then
        s.get (Reg.UBN_MC_HI.LOCAL_EN x.dst) = 1
          && scopeCovers scope ash (if s.get (Reg.UBN_MC_HI.SAME_ID x.dst) = 1 then ash else s.get (Reg.UBN_MC_HI.LOCAL_ASH x.dst))
      else x.dstMod = s.moduleId && scopeCovers scope ash x.dst))).flatMap (·.pkts)

/-- Records are taken by present cycle and, within one, in domain order; those of one ashlar in program order (R258). -/
def insertEmit (l : List EmitJob) (j : EmitJob) : List EmitJob :=
  let before (x : EmitJob) : Bool := decide (x.due < j.due) || (x.due = j.due && decide (x.place ≤ j.place))
  l.filter before ++ j :: l.filter fun x => !before x

/-- An EMIT comes to its present cycle `t` in an ashlar, with its data read (R258). -/
def State.emitFin (s : State) (d t : Nat) (r : Run) : State :=
  let w := r.q.word
  let data := fld w 34 34 = 1
  let job : EmitJob :=
    { due := t, place := (s.domAsh d).idxOf r.ash, rank := fld w 43 40, ctx := sReg r.q.core r.ash (fld w 39 35), data := decide data,
      payload := if data then s.regionBytes r (xferAddr r.q.core w r.ash) (xferBytes w) else [], tag := fld w 15 0 }
  s.modDom d fun x => { x with emits := insertEmit x.emits job }

/-- An EMIT starts in an ashlar (R258): its record is presented in its present cycle. -/
def State.startEmit (s : State) (d st op : Nat) (q : QEnt) (ash : Nat) : State :=
  let w := q.word
  let s := s.modDom d fun x => { x with runs := x.runs ++ [{ id := op, eng := 2, ash, st, q }] }
  let s := if fld w 34 34 = 1 then s.addDue d (st + 1) (.run op ash .read 0) else s
  s.addDue d (st + transferLast q.core w ash) (.run op ash .fin 0)

/-- A transfer queue entry starts in an ashlar where its predicate is true. -/
def State.startTransferIn (s : State) (d st op : Nat) (q : QEnt) (ash : Nat) : State :=
  let w := q.word
  if clsOf w = 2 then (if opOf w = 5 then s.startStk d st q ash else s.startXfer d st op q ash)
  else if clsOf w = 7 then s.startEmit d st op q ash
  else
    let s := s.hazRel ash (fld w 33 32)
    let ps := s.relPkts ash (fld w 33 32)
    if ps.isEmpty then s else s.modDom d fun x => { x with relT := x.relT ++ [(ash, ps)] }

/-- The present cycle of an EMIT with MODE 1 is the same in every ashlar (R548). -/
def emitTimingOk (ashs : List Nat) (q : QEnt) : Bool :=
  clsOf q.word != 7 || (match ashs.map (transferLast q.core q.word) with | [] => true | x :: l => l.all fun y => y = x)

/-- The head of the transfer queue starts (R201, R226). Where its timing differs between the ashlars, the domain's cycles and
results are undefined from here on (R548). -/
def State.transferStartOp (s : State) (d : Nat) : State :=
  match (s.dom d).tq with
  | [] => s
  | q :: rest =>
    let st := transferStart (s.dom d) q
    if s.canRun d st then
      if emitTimingOk (s.domAsh d) q then
        let last := maxOf ((s.domAsh d).map (transferLast q.core q.word))
        let s := s.modDom d fun x => { x with
          tq := rest, tOcc := st + transferOcc q.word, tEnd := max x.tEnd (st + last + 1), lastRun := x.lastRun + 1 }
        forAll (s.live d q.core q.word) (fun s a => s.startTransferIn d st (s.dom d).lastRun q a) s
      else s.makeUndef d
    else s

/-- TRANSFER_OP_START (R226). -/
def execTransferOpStart (d : Nat) (s : State) : Host.Outcome State Fault Refusal := s.answer (s.transferStartOp d)

end Sys2Proof.Machine
end

