-- ==== Sys2Proof/Machine/Vector.lean ====
section
/-! DEFINITION. The vector engine: reads, stages, sinks, reductions, conversions and the reading side of SMP, from their
start to their effects (R133 to R160, R247 to R256). -/

namespace Sys2Proof.Machine

/-! ## Lane vectors -/

/-- The 64 values of a lane vector, each with what its element flush counted (R105 to R111, R115). -/
def decodeLane (f : Nat) (fz : Bool) (bytes scales : List Byte) : List (Num × Tally) :=
  if isMx f then
    [0, 1].flatMap fun h =>
      let x := leNat ((bytes.drop (h * blockBytes f)).take (blockBytes f))
      let sc := (scales[h]?.getD 0).toNat
      (List.range 32).map fun i => mxValue f (blockElem f x i) sc fz
  else if f = 6 then (List.range 64).map fun i => (.ofInt (acc96Of ((bytes.drop (16 * i)).take 16)), {})
  else
    let nb := fmtBits f / 8
    (List.range 64).map fun i => (decodeElem f (leNat ((bytes.drop (nb * i)).take nb)), {})

/-- Source format of a conversion from format `f` (R114, R115). -/
def srcFmt (f : Nat) : Option FloatFmt := if isMx f then none else floatFmt f

/-- Sum of tallies. -/
def tallySum (l : List Tally) : Tally := l.foldl tallyAdd {}

/-- A lane vector converted to FP32 (R137). -/
def laneWords (f : Nat) (fz : Bool) (bytes scales : List Byte) : List Word × Tally :=
  let r := (decodeLane f fz bytes scales).map fun x => let c := toF32 (srcFmt f) fz x.1; (c.1, tallyAdd x.2 c.2)
  (r.map (·.1), tallySum (r.map (·.2)))

/-- Bytes of a word list. -/
def wordBytes (nb : Nat) (l : List Nat) : List Byte := l.flatMap (leBytes nb)

/-- A vector of exact values as a plain or an MX sink holds it: elements, scale bytes, tally (R143, R254). -/
def encodeLane (f : Nat) (src : Option FloatFmt) (fz : Bool) (xs : List Num) (sats : List Bool) :
    List Byte × List Byte × Tally :=
  if isMx f then
    let hs := [0, 32].map fun h => mxpBlock f src fz ((sats.drop h).take 32) ((xs.drop h).take 32)
    (hs.flatMap fun h => packBlock f h.2.1, hs.map fun h => BitVec.ofNat 8 h.1, tallySum (hs.map fun h => h.2.2))
  else
    let es := (xs.zip sats).map fun x =>
      let r := storeElem f src fz x.1
      (r.1, if x.2 then { r.2 with sat := 1 } else r.2)
    (wordBytes (fmtBits f / 8) (es.map (·.1)), [], tallySum (es.map (·.2)))

/-- Words of little-endian FP32 bytes. -/
def bytesWords (bs : List Byte) : List Word := (List.range (bs.length / 4)).map fun i => BitVec.ofNat 32 (leNat ((bs.drop (4 * i)).take 4))

/-! ## Stages -/

/-- One stage on one lane (R135, R142, R149 to R151). DESIGN CHOICE: an exact result that is no FP32 encoding has no source
format of its own for the first flush of R114; it is taken as FP32 (log entry 82). -/
def stageLane (fz : Bool) (g : Stage) (x b c : Word) : Word × Tally :=
  let st (r : Num) := toF32 (some fp32) fz r
  let v := f32 x
  match g.op with
  | 0 => st (v.add (f32 b))
  | 1 => st (v.add (f32 b).negate)
  | 2 => st (v.mul (f32 b))
  | 3 => st ((v.mul (f32 b)).add (f32 c))
  | 4 => st (v.max (f32 b))
  | 5 => st (v.min (f32 b))
  | 6 => st ((v.max (f32 b)).min (f32 c))
  | 7 => st v.mag
  | 8 => st v.negate
  | 9 => st (v.scale g.k)
  | 10 => st (if v ≠ .nan ∧ (Num.fin false 0 0).lt v ∧ v.isZero = false then f32 b else .fin false 0 0)
  | 11 => exp2Fx fz v
  | 12 => log2Fx fz v
  | 13 => rcpFx fz v
  | _ => rsqrtFx fz v

/-- What an ashlar's vector operation has read for one input vector: bytes and scale bytes of each SLICE operand, source
first; its compute registers. -/
structure VIn where
  core : SMap Word
  bulk : Bulk
  ash : Nat
  j : Nat
  lanes : List (List Byte × List Byte)

/-- A vector register's lanes. -/
def Bulk.vregOf (b : Bulk) (ash r : Nat) : List Word := (List.range 64).map fun n => mapGet 0 b.vreg ((ash * 8 + r) * 64 + n)

/-- The accumulator set a vector reads (R137): array, set. -/
def VOp.accAt (v : VOp) (j : Nat) : Nat × Nat := if v.sk = 1 then (v.ssel / 16, v.ssel % 16 + j) else (j, v.ssel % 16)

/-- Exact source values of one vector with saturation marks and what reading counted (R137, R138, R254). -/
def VOp.source (v : VOp) (i : VIn) : List (Num × Bool × Tally) :=
  match v.sk with
  | 0 =>
    let l := i.lanes[0]?.getD ([], [])
    (decodeLane v.sf v.fz l.1 l.2).map fun x => (x.1, false, x.2)
  | 3 => (i.bulk.vregOf i.ash (v.ssel % 8)).map fun w => (f32 w, false, {})
  | _ =>
    let (a, k) := v.accAt i.j
    let win : Int := mapGet 0 i.bulk.window (i.ash * 16 + k)
    (List.range 64).map fun n =>
      (.ofInt (mapGet 0 i.bulk.acc (accKey i.ash a k n)).toInt win, mapGet false i.bulk.satm (accKey i.ash a k n), {})

/-- The accumulators of a set, unchanged, as an ACC96 sink writes them (R143). -/
def VOp.accBytes (v : VOp) (i : VIn) : List Byte :=
  let (a, k) := v.accAt i.j
  (List.range 64).flatMap fun n => acc96Bytes (mapGet 0 i.bulk.acc (accKey i.ash a k n)).toInt

/-- Source format for the conversion of source values. -/
def VOp.srcFmt (v : VOp) : Option FloatFmt :=
  match v.sk with | 0 => Sys2Proof.Machine.srcFmt v.sf | 3 => some fp32 | _ => none

/-- A stage operand's 64 values and what they counted (R141, R251); `k` is its place among the SLICE operands. -/
def VOp.operand (v : VOp) (i : VIn) (x0 : List Word) (k : Nat) (a : Option VArg) : List Word × Tally :=
  match a with
  | none => (List.replicate 64 0, {})
  | some a =>
    match a.kind with
    | 0 => let l := i.lanes[k]?.getD ([], []); laneWords a.fmt v.fz l.1 l.2
    | 1 => (i.bulk.vregOf i.ash a.idx, {})
    | 2 =>
      let c := toF32 (some fp32) v.fz (f32 (coreGet i.core i.ash a.idx))
      (List.replicate 64 c.1, tallySum (List.replicate 64 c.2))
    | _ => (x0, {})

/-- One input vector through the chain: 64 lanes and tally (R251). -/
def VOp.chain (v : VOp) (i : VIn) : List Word × Tally :=
  let src := (v.source i).map fun x =>
    let c := toF32 v.srcFmt v.fz x.1
    (c.1, tallyAdd x.2.2 (if x.2.1 then { c.2 with sat := 1 } else c.2))
  let x0 := src.map (·.1)
  let r := v.stages.foldl (fun (a : List Word × Tally × Nat) g =>
    let isSlice (o : Option VArg) : Nat := match o with | some x => if x.kind = 0 then 1 else 0 | none => 0
    let b := v.operand i x0 a.2.2 g.b
    let c := v.operand i x0 (a.2.2 + isSlice g.b) g.c
    let ys := (a.1.zip (b.1.zip c.1)).map fun x => stageLane v.fz g x.1 x.2.1 x.2.2
    (ys.map (·.1), tallyAdd a.2.1 (tallyAdd (tallyAdd b.2 c.2) (tallySum (ys.map (·.2)))), a.2.2 + isSlice g.b + isSlice g.c))
    (x0, tallySum (src.map (·.2)), if v.sk = 0 then 1 else 0)
  (r.1, r.2.1)

/-- What one vector sends to its sink: bytes, scale bytes, lanes for a register or a reduction. -/
structure VOut where
  bytes : List Byte := []
  scales : List Byte := []
  lanes : List Word := []

/-- The output of one vector of a chain or a conversion (R143, R251, R254). -/
def VOp.out (v : VOp) (i : VIn) (table : List Nat) : VOut × Tally :=
  let none64 := List.replicate 64 false
  match v.kind with
  | .chain =>
    if v.nf = 6 ∧ v.nk = 0 then ({ bytes := v.accBytes i }, (v.chain i).2)
    else
      let c := v.chain i
      if v.nk = 1 then ({ lanes := c.1 }, c.2)
      else let r := encodeLane v.nf (some fp32) v.fz (c.1.map f32) none64; ({ bytes := r.1, scales := r.2.1 }, tallyAdd c.2 r.2.2)
  | .red => let c := v.chain i; ({ lanes := c.1 }, c.2)
  | .rsc =>
    let (a, k) := v.accAt i.j
    let win : Int := mapGet 0 i.bulk.window (i.ash * 16 + k)
    let es := (List.range 64).map fun n =>
      rescale v.nf v.fz (mapGet 0 i.bulk.acc (accKey i.ash a k n)).toInt (mapGet false i.bulk.satm (accKey i.ash a k n)) win
        (table[n]?.getD 0)
    ({ bytes := wordBytes (fmtBits v.nf / 8) (es.map (·.1)) }, tallySum (es.map (·.2)))
  | _ =>
    if v.nf = 6 then ({ bytes := v.accBytes i }, { sat := ((v.source i).filter fun x => x.2.1).length })
    else
      let xs := v.source i
      let src := if v.kind = .mxu then none else v.srcFmt
      let r := encodeLane v.nf src v.fz (xs.map (·.1)) (xs.map fun x => x.2.1)
      let t := tallyAdd (tallySum (xs.map fun x => x.2.2)) r.2.2
      if v.nk = 1 then ({ lanes := bytesWords r.1 }, t) else ({ bytes := r.1, scales := r.2.1 }, t)

/-- One group of VSUM from its addends (R156, R252). A sum that leaves the 96-bit range saturates. -/
def VOp.sumGroup (v : VOp) (adds : List (List Byte)) (table : List Nat) : List Byte × Tally :=
  if v.sf = 6 then
    let sums := (List.range 64).map fun n =>
      let t := adds.foldl (fun (x : Int) a => x + acc96Of ((a.drop (16 * n)).take 16)) 0
      if accMax < t then (accMax, true) else if t < -accMax - 1 then (-accMax - 1, true) else (t, false)
    if v.tab.isNone then
      (sums.flatMap fun x => acc96Bytes x.1, { sat := (sums.filter fun x => x.2).length })
    else
      let es := sums.zipIdx.map fun x => rescale v.nf v.fz x.1.1 x.1.2 v.wv (table[x.2]?.getD 0)
      (wordBytes (fmtBits v.nf / 8) (es.map (·.1)), tallySum (es.map (·.2)))
  else
    let es := (List.range 64).map fun n =>
      let xs := adds.map fun a => decodeElem 0 (leNat ((a.drop (4 * n)).take 4))
      toF32 (some fp32) v.fz (match xs with | [] => .fin false 0 0 | x :: l => l.foldl Num.add x)
    (wordBytes 4 (es.map fun e => e.1.toNat), tallySum (es.map (·.2)))

/-! ## Reductions -/

/-- The result of a VRED over all its lanes: value, only NaN lanes met, tally (R152, R153). DESIGN CHOICE: a GSUM over NaN
lanes alone is 0 and does not count as having met only NaN lanes (log entry 85). -/
def reduceLanes (rop : Nat) (wr : Int) (fz : Bool) (lanes : List Word) : Int × Bool × Tally :=
  let xs := (lanes.map f32).zipIdx
  if rop = 1 then
    let es := xs.map fun x => match x.1 with
      | .fin s m e =>
        let i := roundGrid s m e wr
        (max (-accMax) (min i accMax), ({ under := if i = 0 ∧ m ≠ 0 then 1 else 0 } : Tally))
      | .nan => (0, { nan := 1 })
      | .inf s => (if s then -accMax else accMax, {})
    let t := es.foldl (fun (n : Int) e => n + e.1) 0
    let ty := tallySum (es.map (·.2))
    if accMax < t then (accMax, false, { ty with sat := 1 })
    else if t < -accMax - 1 then (-accMax - 1, false, { ty with sat := 1 }) else (t, false, ty)
  else
    let ok := xs.filter fun x => decide (x.1 ≠ .nan)
    let t : Tally := { nan := xs.length - ok.length }
    match ok with
    | [] => (if 4 ≤ rop then 0xFFFFFFFF else 0x7FC00000, true, t)
    | x :: l =>
      if rop = 0 then
        let r := toF32 (some fp32) fz (l.foldl (fun a b => a.add b.1) x.1)
        (r.1.toNat, false, tallyAdd t r.2)
      else
        let up := rop = 2 ∨ rop = 4
        let best := l.foldl (fun (a : Num × Nat) b => if (if up then a.1.lt b.1 else b.1.lt a.1) then b else a) x
        if 4 ≤ rop then (best.2, false, t) else (((toF32 (some fp32) false best.1).1.toNat : Nat), false, t)

/-- Results compared as FP32 (R157, R158). -/
def ropFloat (rop : Nat) : Bool := rop = 0 || rop = 2 || rop = 3

/-- The condition of a VRED (R157). -/
def VOp.condition (v : VOp) (y : Int) (s : Word) : Bool :=
  if ropFloat v.rop then cmpFloat v.cbCmp (f32 (BitVec.ofInt 32 y)) (f32 s)
  else cmpInt v.cbCmp (if v.rop = 1 then y else signedOf 32 (wrapInt 32 y)) s.toInt

/-- The combined value of the ashlars whose predicate is true, and whether a SUM wrapped (R158). DESIGN CHOICE: a SUM wraps when
the exact total of the signed values leaves 32 bits, not when a partial sum does (log entry 86). -/
def VOp.combine (v : VOp) (ys : List Word) : Word × Bool :=
  let fp := ropFloat v.rop
  if v.qop = 0 then
    let t := ys.foldl (fun (n : Int) y => n + y.toInt) 0
    (BitVec.ofInt 32 t, decide (t < -2 ^ 31 ∨ 2 ^ 31 ≤ t))
  else
    match ys with
    | [] => (if v.qop = 1 then (if fp then 0xFF800000 else 0x80000000) else (if fp then 0x7F800000 else 0x7FFFFFFF), false)
    | y :: l =>
      if fp then
        if ys.any fun w => decide (f32 w = .nan) then (0x7FC00000, false)
        else (l.foldl (fun a b => if (if v.qop = 1 then (f32 a).lt (f32 b) else (f32 b).lt (f32 a)) then b else a) y, false)
      else (l.foldl (fun a b => if (if v.qop = 1 then a.slt b else b.slt a) then b else a) y, false)

/-! ## Reads -/

/-- Row vectors of a lane vector and of its scale bytes (R59, R140). -/
def laneRows (core : SMap Word) (ash f a j : Nat) : List (Nat × Nat) :=
  spanRows (lanePos core ash a j).toNat (laneBytes f)
    ++ (if isMx f then spanRows (scalePos core ash f a j).toNat 2 else [])
/-- Its element bytes and scale bytes, among the rows read. -/
def laneData (m : List ((Nat × Nat) × List Byte)) (core : SMap Word) (ash f a j : Nat) : List Byte × List Byte :=
  (rowBytes m (lanePos core ash a j).toNat (laneBytes f),
   if isMx f then rowBytes m (scalePos core ash f a j).toNat 2 else [])

/-- The compute registers that lane vector `j` reads (R94, R137, R141). -/
def VOp.regsFor (v : VOp) (b : Bulk) (ash j : Nat) : Bulk :=
  let set_ : Bool := v.kind != .vsum && (v.sk = 1 || v.sk = 2)
  let ak := v.accAt j
  let acc (k : Nat) : Bool := set_ && decide (k / 64 = (ash * 4 + ak.1) * 16 + ak.2)
  let reg (k : Nat) : Bool := decide (k / 512 = ash) && v.vregs.contains (k / 64 % 8)
  { acc := if set_ then b.acc.filter fun e => acc e.1 else []
    satm := if set_ then b.satm.filter fun e => acc e.1 else []
    window := if set_ then b.window.filter fun e => e.1 = ash * 16 + ak.2 else []
    vreg := if v.vregs = [] then [] else b.vreg.filter fun e => reg e.1 }

/-- Count the lane vectors that one input vector sends to the F and S units (R162). -/
def State.unitUse (s : State) (v : VOp) (ash : Nat) : State :=
  let p := partOf ash
  let s := if v.fIssues = 0 then s else s.inc (Reg.VEC_UTIL.F_ISSUES p (idxOf ash)) v.fIssues
  if v.sIssues = 0 then s else s.inc (Reg.VEC_SFU_UTIL.S_ISSUES p (idxOf ash)) v.sIssues

/-- In cycle `c` an operation issues the reads of lane vector `j` (R140) and reads its compute registers. -/
def State.vecRead (s : State) (d c : Nat) (r : Run) (v : VOp) (j : Nat) : State :=
  let s := s.issueReads d r.id r.ash c (v.slices.flatMap fun f => laneRows r.q.core r.ash f.1 f.2 j)
  let s := s.unitUse v r.ash
  let g := v.regsFor s.bulk r.ash j
  let s := s.modRun d r.id r.ash fun x => { x with regs := if g = {} then x.regs else x.regs ++ [(j, g)] }
  if j + 1 < v.readCount then s.addDue d (c + v.readStep) (.run r.id r.ash .read (j + 1)) else s

/-! ## Sinks -/

/-- Write one output to its sink, issued in cycle `c` (R143, R147). The second row of an ACC96 vector is written in the
bank cycle after the first (DEDUCED, log entry 26). -/
def State.sinkOut (s : State) (d c : Nat) (r : Run) (v : VOp) (j : Nat) (o : VOut) : State :=
  let core := r.q.core
  if v.nk = 1 then s.addDue d (c + 1) (.vreg r.ash (v.nsel % 8) o.lanes)
  else
    let x := (lanePos core r.ash (v.nsel / 4) j).toNat
    if v.nf = 6 then
      (s.issueWrite d 1 r.ash x (o.bytes.take 512) c r.q.ia (some c)).issueWrite d 1 r.ash (x + 512) (o.bytes.drop 512) (c + 1) r.q.ia
        (some c)
    else
      let s := s.issueWrite d 1 r.ash x o.bytes c r.q.ia (some c)
      if isMx v.nf then
        s.issueWrite d 1 r.ash (scalePos core r.ash v.nf (v.nsel / 4) j).toNat o.scales c r.q.ia (some c)
      else s

/-- In cycle `c` lane vector or group `j` leaves for its sink, or for the reduction (R147, R155, R156). -/
def State.vecOut (s : State) (d c : Nat) (r : Run) (v : VOp) (j : Nat) : State :=
  let core := r.q.core
  let table := r.table
  let (o, ty) :=
    if v.kind = .vsum then
      let adds := (List.range v.n).map fun i => (laneData r.rows core r.ash v.sf (v.ssel / 4) (j * v.n + i)).1
      let g := v.sumGroup adds table
      (({ bytes := g.1 } : VOut), g.2)
    else
      let bulk := match r.regs.find? fun g => g.1 = j with | some g => g.2 | none => {}
      v.out { core, bulk, ash := r.ash, j, lanes := v.slices.map fun f => laneData r.rows core r.ash f.1 f.2 j } table
  let s := s.flushSeen d c r.ash ty
  let s := s.modRun d r.id r.ash fun x => { x with
    tally := tallyAdd x.tally ty
    lanes := if v.kind = .red then x.lanes ++ o.lanes else []
    regs := x.regs.filter fun g => g.1 ≠ j }
  let s := if v.kind = .red then s else s.sinkOut d c r v j o
  if j + 1 < v.outCount then
    let next := if v.kind = .vsum then v.n else v.ii
    s.addDue d (c + next) (.run r.id r.ash .out (j + 1))
  else s

/-- The results of a VRED in one ashlar (R157, R251), at its last effect `t`. -/
def State.redOut (s : State) (d t : Nat) (r : Run) (v : VOp) (y : Int) (nan : Bool) : State :=
  let ash := r.ash
  let core := r.q.core
  let w : Word := BitVec.ofInt 32 y
  let s := s.addDue d (t + 1) (.lastRed ash w nan)
  let s :=
    if v.sdstEn then
      if v.sdstSlice then
        s.issueWrite d 1 ash (aReg core ash (v.sdst % 16)) (if v.rop = 1 then acc96Bytes y else leBytes 8 w.toNat) t r.q.ia (some t)
      else
        let s := s.addDue d (t + 1) (.core ash v.sdst w)
        if v.rop = 1 then s.addDue d (t + 1) (.core ash (v.sdst + 1) (BitVec.ofNat 32 (wrapInt 64 y / 2 ^ 32))) else s
    else s
  if v.cbEn && v.condition y (Sys2Proof.Machine.coreGet core ash v.cbSreg) then s.addDue d (t + 1) (.zbits ash v.cbK (2 ^ v.cbBit)) else s

/-- A tally waits for its turn (R127): it becomes final in the cycle after its operation's last effect, and not before those
of the operations that precede it in the queue. -/
def insertTal : List HeldTally → HeldTally → List HeldTally
  | [], h => [h]
  | x :: l, h => if h.id < x.id then h :: x :: l else x :: insertTal l h

/-- The tallies whose turn has come in cycle `t` become final in the next: no earlier operation of the ashlar is under way. -/
def State.talliesFinal (s : State) (d t ash : Nat) : State :=
  let first (h : HeldTally) : Bool :=
    h.ash = ash && !(s.dom d).runs.any fun r => r.eng = 1 && r.v.isSome && r.ash = ash && decide (r.id < h.id)
  let now := (s.dom d).tal.filter first
  forAll now (fun s h => s.addDue d (t + 1) (.tally true h.ash h.tally h.xk h.ia))
    (s.modDom d fun x => { x with tal := x.tal.filter fun h => !first h })

/-- A vector operation has had its last effect in an ashlar in cycle `t`: its tally takes its turn. -/
def State.vecTally (s : State) (d t : Nat) (r : Run) (v : VOp) (ty : Tally) : State :=
  ((s.endRun d r.id r.ash).modDom d fun x => { x with
    tal := insertTal x.tal { id := r.id, ash := r.ash, tally := ty, xk := v.xk, ia := r.q.ia } }).talliesFinal d t r.ash

/-- One ashlar's operation has its last effect in cycle `t`; the result of a VRED. -/
def vecEnd (d t : Nat) (v : VOp) (a : State × List Word) (r : Run) : State × List Word :=
  if v.kind = .red then
    let y := reduceLanes v.rop v.wr v.fz r.lanes
    (((a.1.redOut d t r v y.1 y.2.1).flushSeen d t r.ash y.2.2).vecTally d t r v (tallyAdd r.tally y.2.2),
     a.2 ++ [BitVec.ofInt 32 y.1])
  else (a.1.vecTally d t r v r.tally, a.2)

/-- A combined value leaves for the sequencer at the last effect (R158). -/
def State.sendQ (s : State) (d t : Nat) (v : VOp) (ys : List Word) : State :=
  if v.qEn then
    let c := v.combine ys
    s.modDom d fun x => { x with sums := insertSum x.sums (t + Config.summaryLat) (.q v.qn c.1 c.2) }
  else s

/-- An operation has its last effect in cycle `t`, in every ashlar it runs in (R147, R155, R158). -/
def State.vecFin (s : State) (d t id : Nat) (v : VOp) : State :=
  let x := ((s.dom d).runs.filter fun r => r.id = id).foldl (vecEnd d t v) (s, ([] : List Word))
  x.1.sendQ d t v x.2

/-! ## Starts -/

/-- The latest write of a vector register: its cycle only grows (R146). -/
def noteWrite (l : List (Nat × Nat)) (r t : Nat) : List (Nat × Nat) :=
  (r, maxOf (t :: (l.filter fun w => w.1 = r).map (·.2))) :: l.filter fun w => w.1 ≠ r

/-- A VRED, chain or conversion starts in the domain (R146, R158). -/
def State.startVector (s : State) (d st : Nat) (q : QEnt) (v : VOp) (t : VTime) : State :=
  let live := s.live d q.core q.word
  let last := st + v.last t
  let id := (s.dom d).lastRun
  let s := s.modDom d fun x => { x with
    runs := x.runs ++ live.map fun ash => { id, eng := 1, ash, st, q, v := some v }
    vEnd := max x.vEnd (last + 1)
    wVec := match t.lastW with | some b => max x.wVec (st + b) | none => x.wVec
    vWrite := if v.nk = 1 then noteWrite x.vWrite (v.nsel % 8) last else x.vWrite
    busy := x.busy ++ (if v.sdstEn && !v.sdstSlice then
      (v.sdst, last + 1) :: (if v.rop = 1 then [(v.sdst + 1, last + 1)] else []) else []) }
  match live with
  | [] => s.sendQ d last v []
  | a :: _ =>
    let s := forAll live (fun s ash =>
      let s := match v.tab with
        | some a =>
          let rows := spanRows (aReg q.core ash a) 128
          (s.issueReads d id ash st rows).addDue d (st + sliceLat (sliceOf (aReg q.core ash a)) + 1) (.run id ash .table 0)
        | none => s
      let s := s.addDue d st (.run id ash .read 0)
      s.addDue d (st + v.sinkAt t 0) (.run id ash .out 0)) s
    s.addDue d last (.run id a .fin 0)

/-- The FP32 bits of a logit: a BF16 logit enters as its exact FP32. -/
def logitWord (eb : Nat) (bs : List Byte) : Word := BitVec.ofNat 32 (if eb = 4 then leNat bs else leNat bs <<< 16)

/-- In cycle `c` an SMP issues the read of its lane vector `j` (R255, R256). -/
def State.smpRead (s : State) (d c : Nat) (r : Run) (j : Nat) : State :=
  let w := r.q.word
  let x := (smpPos r.q.core r.ash w (j / smpNv w) (j % smpNv w)).toNat
  let s := s.issueReads d r.id r.ash c (spanRows x (64 * smpElem w))
  if j + 1 < smpP w * smpNv w then s.addDue d (c + 1) (.run r.id r.ash .read (j + 1)) else s

/-- The logits of one position that an ashlar has read, with their tokens. -/
def Run.logits (r : Run) (p : Nat) : List (Nat × Word) :=
  let w := r.q.word
  let eb := smpElem w
  let tb := sReg r.q.core r.ash (fld w 34 30)
  (List.range (smpNv w)).flatMap fun v =>
    let bs := rowBytes r.rows (smpPos r.q.core r.ash w p v).toNat (64 * eb)
    (List.range 64).map fun n => ((tb + 64 * v + n) % 2 ^ 32, logitWord eb ((bs.drop (n * eb)).take eb))

/-- An SMP comes to its result cycle `t` with its logits read (R256). -/
def State.smpFin (s : State) (d t id : Nat) : State :=
  let l := (s.dom d).runs.filter fun r => r.id = id
  match l with
  | [] => s
  | r :: _ =>
    let w := r.q.word
    let job : SmpJob :=
      { due := t, rank := fld w 43 40, ctx := sReg r.q.core r.ash (fld w 39 35),
        logits := (List.range (smpP w)).map fun p => l.flatMap fun x => x.logits p,
        dst := fld w 13 9, ash := l.map (·.ash) }
    s.modDom d fun x => { x with runs := x.runs.filter fun r => r.id ≠ id, smps := x.smps ++ [job] }

/-- SMP starts (R255, R256). -/
def State.startSmp (s : State) (d st : Nat) (q : QEnt) (t : VTime) : State :=
  let w := q.word
  let live := s.live d q.core w
  let id := (s.dom d).lastRun
  let rc := st + smpP w * smpNv w + 2 * t.rd + Config.smpLat
  let dst := fld w 13 9
  let s := s.modDom d fun x => { x with
    runs := x.runs ++ live.map fun ash => { id, eng := 1, ash, st, q }
    vEnd := max x.vEnd (rc + 1), busy := x.busy ++ [(dst, rc + 1), (dst + 1, rc + 1)] }
  match live with
  | [] => s
  | a :: _ => (forAll live (fun s ash => s.addDue d st (.run id ash .read 0)) s).addDue d rc (.run id a .fin 0)

/-- The head of the vector queue starts (R146, R201); where its timing differs between the ashlars, the domain is undefined
from then on (R548). -/
def State.vectorStartOp (s : State) (d : Nat) : State :=
  match (s.dom d).vq with
  | [] => s
  | q :: rest =>
    match s.vStart d q with
    | none => if s.canRun d (max (q.issued + 1) (s.dom d).vOcc) then s.makeUndef d else s
    | some t =>
      let st := vecStart (s.dom d) q t
      if s.canRun d st then
        let s := s.modDom d fun x => { x with vq := rest, vOcc := st + t.occ, lastRun := x.lastRun + 1 }
        let w := q.word
        if clsOf w = 3 then
          (forAll (s.live d q.core q.word) (fun s a => s.hazReleased a 1) s).modDom d fun x => { x with relV := x.wVec + 1 }
        else if clsOf w = 7 then (match s.smpTiming d w q.core with | some t => s.startSmp d st q t | none => s)
        else
          match s.vopOf d w with
          | none => s
          | some v => (match s.vTiming d v q.core with | some t => s.startVector d st q v t | none => s)
      else s

/-- VECTOR_OP_START (R146). -/
def execVectorOpStart (d : Nat) (s : State) : Host.Outcome State Fault Refusal :=
  s.answer (s.vectorStartOp d)

end Sys2Proof.Machine
end

