-- ==== Sys2Proof/Machine/Hazard.lean ====
section
/-! DEFINITION. What the hazard detector of a debug image finds in the engines: accumulator sets read too early or overwritten
too early, summaries read too early (R94, R159, R197, R497, R498). -/

namespace Sys2Proof.Machine

/-- A pass adds into a set of an array. -/
def Pass.writes (p : Pass) (arr k : Nat) : Bool :=
  p.t != 0 && p.arrays.contains arr && (if p.wide then decide (p.set_ ≤ k) && decide (k ≤ p.set_ + p.n) else k = p.set_)

/-- An array queue entry is a pass that adds into a set. -/
def QEnt.adds (q : QEnt) (arr k : Nat) : Bool := clsOf q.word = 4 && decide (opOf q.word < 2) && (passOf q.word).writes arr k

/-- A vector operation reads accumulator sets. -/
def VOp.readsAcc (v : VOp) : Bool := v.kind != .vsum && (v.sk = 1 || v.sk = 2)

/-- Lane vector `j` reads a set whose pass, issued before the operation, has not ended (R94). -/
def State.accRace (s : State) (d : Nat) (r : Run) (v : VOp) (j : Nat) : Bool :=
  let x := s.dom d
  let k := v.accAt j
  v.readsAcc &&
    ((x.runs.any fun p => p.eng = 0 && p.ash = r.ash && decide (p.q.issued < r.q.issued) && p.q.adds k.1 k.2)
      || x.aq.any fun q => decide (q.issued < r.q.issued) && q.adds k.1 k.2 && (s.live d q.core q.word).contains r.ash)

/-- It is reported (R498). -/
def State.accLook (s : State) (d : Nat) (r : Run) (v : VOp) (j : Nat) : State :=
  if s.debug && s.accRace d r v j then s.hazard 0 r.ash 0 (some r.q.ia) ((s.dom d).cyc, (s.dom d).cyc) else s

/-- A vector operation from lane vector `j` on reads a set that a pass adds into. -/
def VOp.readsFrom (v : VOp) (p : Pass) (j : Nat) : Bool :=
  v.readsAcc && (List.range v.n).any fun i => decide (j ≤ i) && p.writes (v.accAt i).1 (v.accAt i).2

/-- The lane vectors that an operation has read when cycle `t` ends. -/
def Run.readBy (r : Run) (v : VOp) (t : Nat) : Nat := if t < r.st then 0 else (t - r.st) / v.readStep + 1

/-- A pass starts in cycle `t` into a set that an operation issued before it has still to read (R94). -/
def State.passRace (s : State) (d t : Nat) (r : Run) : Bool :=
  let x := s.dom d
  let p := passOf r.q.word
  (x.runs.any fun u => u.eng = 1 && u.ash = r.ash && decide (u.q.issued < r.q.issued)
      && (match u.v with | some v => v.readsFrom p (u.readBy v t) | none => false))
    || x.vq.any fun q => decide (q.issued < r.q.issued) && (clsOf q.word = 5 || clsOf q.word = 6)
        && (s.live d q.core q.word).contains r.ash && (match s.vopOf d q.word with | some v => v.readsFrom p 0 | none => false)

/-- It is reported (R498). -/
def State.passLook (s : State) (d t : Nat) (r : Run) : State :=
  if s.debug && s.passRace d t r then s.hazard 1 r.ash 0 (some r.q.ia) (t, t) else s

/-- A VRED sends to zk, or to qn. -/
def VOp.feeds (v : VOp) (z : Bool) (n : Nat) : Bool := if z then v.cbEn && v.cbK = n else v.qEn && v.qn = n

/-- A change of zk, or a combine for qn, is still to reach the lead: on the summary tree, at an operation's end, or from an
operation that has not ended (R159, R197). -/
def State.sumRace (s : State) (d : Nat) (z : Bool) (n : Nat) : Bool :=
  let x := s.dom d
  (x.sums.any fun a => decide (x.cyc < a.1) && (match a.2 with | .z k _ _ => z && k = n | .q m _ _ => !z && m = n))
    || (x.due.any fun a => match a.2 with | .zbits _ k _ => z && k = n | _ => false)
    || (x.runs.any fun r => match r.v with | some v => v.feeds z n | none => false)
    || x.vq.any fun q => clsOf q.word = 5 && (match s.vopOf d q.word with | some v => v.feeds z n | none => false)

end Sys2Proof.Machine
end

