-- ==== Sys2Proof/Machine/Run.lean ====
section
/-! DEFINITION. What happens as schedule cycles pass: the bank accesses of each cycle, the actions due in it, and the cycles
of the operations under way (R33, R59 to R62, R204). -/

namespace Sys2Proof.Machine

/-! ## Operations under way -/

/-- A cycle of a vector operation. -/
def State.vectorCycle (s : State) (d t : Nat) (r : Run) (v : VOp) (w : RunStep) (j : Nat) : State :=
  match w with
  | .read => (s.vecRead d t r v j).accLook d r v j
  | .out => s.vecOut d t r v j
  | .fin => s.vecFin d t r.id v
  | _ => s

/-- A cycle of an operation under way. -/
def State.runCycle (s : State) (d t : Nat) (r : Run) (w : RunStep) (j : Nat) : State :=
  if r.eng = 0 then
    match w with
    | .tile => if j = 0 then (s.tileStep d t r j).passLook d t r else s.tileStep d t r j
    | .vec => s.vecStep d t r j
    | .form => s.formStepAt d t r j
    | .check => s.rowCheck d t r j
    | .sum => s.sumStep d t r j
    | _ => s
  else if r.eng = 1 then
    match r.v with
    | some v => s.vectorCycle d t r v w j
    | none => match w with | .read => s.smpRead d t r j | .fin => s.smpFin d t r.id | _ => s
  else match w with | .read => s.xferRead d t r j | .fin => s.emitFin d t r | _ => s

/-! ## Actions due -/

/-- Before the halt of R130, the slice writes that vector operations have issued before cycle `t` are performed. -/
def State.writeResults (s : State) (d t : Nat) : State :=
  let mine (a : Nat × DueAct) : Bool := match a.2 with | .wr _ _ _ _ _ (some c) => decide (c < t) | _ => false
  let s := forAll ((s.dom d).due.filter mine) (fun s a => match a.2 with | .wr _ ash addr bs _ _ => s.wrBytes ash addr bs | _ => s) s
  s.modDom d fun x => { x with due := x.due.filter fun a => !mine a }

/-- A tally becomes final (R127 to R130): its excursion bits stand at the end of the cycle, and before the halt if it halts
(R242). Where another fault of the same cycle has halted the domain, they stand all the same. -/
def State.doTally (s : State) (d t : Nat) (vec : Bool) (ash : Nat) (ty : Tally) (xk : Option Nat) (ia : Nat) : State :=
  let halts := s.satHalts ash ty
  let s := match xk with
    | some k =>
      if ty.excursion = 0 then s
      else if s.halted d then (s.zSet d ash k ty.excursion t).settleZ d
      else if halts then s.zSet d ash k ty.excursion t else s.addDue d (t + 1) (.zbits ash k ty.excursion)
    | none => s
  let s := if ty.sticky = 0 then s else s.addDue d (t + 1) (.sticky ash ty.sticky)
  let s := if halts then s.writeResults d t else s
  s.finalTally d vec ash ty ia t

/-- Perform one due action at its schedule cycle `t`; bank accesses have had their turn before. -/
def State.doAct (s : State) (d t : Nat) (a : DueAct) : State :=
  match a with
  | .core ash sel v => s.coreSet ash sel v
  | .lastRed ash v nan =>
    let s := s.put (Reg.VEC_LAST_RED.RESULT (partOf ash) (idxOf ash)) v.toNat
    if nan then s.put (Reg.VEC_STATUS.NAN_REDUCE (partOf ash)) 1 else s
  | .zbits ash k bits => s.zSet d ash k bits (t - 1)
  | .tally vec ash ty xk ia => s.doTally d t vec ash ty xk ia
  | .post ash sem inc ia => s.semPost ash sem inc (s.dom d).wall 1 (some ia)
  | .sticky ash bits =>
    let a := Reg.SEQ_NUM_FLAGS.addr (partOf ash) (idxOf ash)
    s.ww a (s.rw a ||| BitVec.ofNat 32 bits)
  | .dropRow ash slice row => s.dropRows ash slice row
  | .chkRead ash arr k ia => s.addDue d (t + 3) (.chk ash arr k ia (chkResult s.bulk ash arr k))
  | .chk ash arr k ia res =>
    let p := partOf ash
    if res = 0 then s.inc (Reg.ARR_CHK_PASS_COUNT.COUNT p)
    else if res = 1 then (s.put (Reg.ARR_CHK_STATUS.CHK_SKIPPED p) 1).inc (Reg.ARR_CHK_SKIP_COUNT.COUNT p)
    else s.mismatch d ash arr k ia t none
  | .claim .. | .room .. | .relChk .. | .stkClaim .. => s.doCheck d a
  | .enter id ash k pkt => s.enterPair d t (s.dom d).wall id ash k pkt
  | .hand pkt => s.handPkt pkt (s.dom d).wall
  | .accz .. | .window .. | .vreg .. => { s with bulk := actBulk s.bulk a }
  | .run id ash w j => match s.runAt d id ash with | some r => s.runCycle d t r w j | none => s
  | .rd .. | .wr .. | .ld .. | .ovl .. => s

/-- Schedule time reaches cycle `t` (R33). -/
def Dom.reach (x : Dom) (t : Nat) : Dom := { x with wall := x.wall + (t - x.cyc), cyc := max x.cyc t }

/-- An action due at a cycle that is an effect of the cycle before: bits set at its end, granules and packets that entered the
fabric in it. -/
def DueAct.ofBefore : DueAct → Bool
  | .zbits .. => true
  | .sticky .. => true
  | .enter .. => true
  | .hand .. => true
  | _ => false

/-- Transfer operations of which nothing is still to come are over. -/
def Dom.sweep (x : Dom) : Dom :=
  let named (r : Run) : Bool := x.due.any fun a => match a.2 with
    | .rd id ash _ _ => id = r.id && ash = r.ash
    | .enter id ash _ _ => id = r.id && ash = r.ash
    | .run id ash _ _ => id = r.id && ash = r.ash
    | _ => false
  { x with runs := x.runs.filter fun r => r.eng ≠ 2 || named r }

/-- Perform what is due by cycle `c`, cycle by cycle; after the cycle of a halt the rest is dropped, and a fault of a bank
cycle halts before what is due in the next (R204). -/
def State.runDue (s : State) (d c : Nat) : Nat → State
  | 0 => s
  | fuel + 1 =>
    match (s.dom d).due with
    | [] => s
    | (t, _) :: _ =>
      if t ≤ c then
        let now := ((s.dom d).due.filter fun a => decide (a.1 ≤ t)).map (·.2)
        let s := s.modDom d fun x => { x with due := x.due.filter fun a => decide (t < a.1) }
        let s := s.modDom d fun x => x.reach (t - 1)
        let s := (forAll (now.filter DueAct.ofBefore) (fun s a => s.doAct d t a) s).bankTurn d (t - 1) now
        if s.halted d then s.modDom d fun x => { x with due := [], runs := [] }
        else
          let s := s.modDom d fun x => x.reach t
          let s := forAll (now.filter fun a => !a.ofBefore) (fun s a => s.doAct d t a) s
          if s.halted d then s.modDom d fun x => { x with due := [], runs := [] } else s.runDue d c fuel
      else s

/-- The schedule state once `c` cycles have been reached: what can no longer be asked for is dropped. -/
def Dom.passTo (x : Dom) (c : Nat) : Dom :=
  let y := (x.reach c).catchUp.sweep
  { y with
    under := y.under.filter fun u => decide (y.wall ≤ u.wall + 1)
    claims := y.claims.filter fun v => decide (c < v.eff)
    bankLog := y.bankLog.filter fun b => decide (c ≤ b.cycle + 1)
    busy := y.busy.filter fun b => decide (c < b.2)
    lastQ := y.lastQ.filter fun q => decide (c ≤ q.2 + 225) }

/-- `k` schedule cycles pass in a domain (R33). -/
def State.pass (s : State) (d k : Nat) : State :=
  let c := (s.dom d).cyc + k
  let s := s.runDue d c (4 * k + (s.dom d).due.length + 4)
  if s.halted d then s else s.modDom d fun x => x.passTo c

end Sys2Proof.Machine
end

