-- ==== Sys2Proof/Machine/Arrive.lean ====
section
/-! DEFINITION. When what arrives takes place beside a running domain's cycles: turns of wall cycles, bank ports that engines
leave free, the order of landings, and what a domain's next cycle must wait for (R63, R228, R232, R268, R289, R290). -/

namespace Sys2Proof.Machine

/-- Wall cycle `at_` is at hand for what arrives in a domain: a running domain has just made it, or stands still in it. -/
def State.turn (s : State) (d at_ : Nat) : Bool :=
  let x := s.dom d
  !s.running d || s.halted d || x.undef || decide (x.wall = at_ + 1)
    || (decide (x.wall ≤ at_) && s.frozen d && (match x.resume with | some r => decide (at_ < r) | none => true))

/-- The engine accesses that a slice has seen in bank cycle `at_`. -/
def State.accesses (s : State) (ash slice at_ : Nat) : List BankAcc :=
  let x := s.dom (s.domOf ash)
  if s.running (s.domOf ash) && decide (x.wall = at_ + 1) then
    x.bankLog.filter fun b => b.ash = ash && b.slice = slice && b.cycle + 1 = x.cyc
  else []

/-- A bank has a free write port after the engine accesses (R60, R63). -/
def writeFree (l : List BankAcc) (bank : Nat) : Bool :=
  let t := l.filter fun b => b.touches bank
  decide (t.length < 2) && !t.any fun b => b.wr

/-! ## Granules -/

/-- First of the eight banks of a granule (R55). -/
def granBank (addr : Nat) : Nat := (bitsOf addr 21 9 + bitsOf addr 8 3) % 64
/-- Two granules share a bank, by their first banks. -/
def meetBanks (a b : Nat) : Bool := decide ((a + 64 - b) % 64 < 8) || decide ((b + 64 - a) % 64 < 8)
/-- The slice of an address, as a key. -/
def sliceKey (ash addr : Nat) : Nat := ash * 8 + bitsOf addr 24 22
/-- The slice a granule is for, as a key. -/
def landKey (g : Gran) : Nat := sliceKey g.ash g.addr

/-- The first banks of what a log of accesses outside the schedule holds for a slice and bank cycle `at_`. -/
def loggedAt (m : SMap (Nat × List Nat)) (ash slice at_ : Nat) : List Nat :=
  match mapGet? m (ash * 8 + slice) with | some (t, banks) => if t = at_ then banks else [] | none => []
/-- How many of such accesses a bank makes. -/
def loggedIn (l : List Nat) (bank : Nat) : Nat := (l.filter fun b => decide ((bank + 64 - b) % 64 < 8)).length

/-- A landing at an address takes a bank port that is not free in bank cycle `at_` (R60, R63). -/
def State.portsTaken (s : State) (ash addr at_ : Nat) : Bool :=
  let l := s.accesses ash (bitsOf addr 24 22) at_
  let q := loggedAt s.fab.readLog ash (bitsOf addr 24 22) at_
  (List.range 8).any fun i =>
    let k := (granBank addr + i) % 64
    !writeFree l k || decide (2 ≤ (l.filter fun b => b.touches k).length + loggedIn q k)

/-- A granule's eight banks are free for a read outside the schedule in bank cycle `at_` (R60, R228). -/
def State.readFree (s : State) (ash addr at_ : Nat) : Bool :=
  let slice := bitsOf addr 24 22
  let l := s.accesses ash slice at_
  let q := loggedAt s.fab.readLog ash slice at_ ++ loggedAt s.fab.landLog ash slice at_
  (List.range 8).all fun i =>
    let k := (granBank addr + i) % 64
    decide ((l.filter fun b => b.touches k).length + loggedIn q k < 2)

/-- Such a read is noted, with those of the same bank cycle. -/
def State.noteRead (s : State) (ash addr at_ : Nat) : State :=
  let key := sliceKey ash addr
  let old := loggedAt s.fab.readLog ash (bitsOf addr 24 22) at_
  s.modFab fun f => { f with readLog := mapInsert f.readLog key (at_, granBank addr :: old) }

/-- What has landed in the slice later, or in the same bank cycle with one of these banks (R63). -/
def State.landAfter (s : State) (ash addr at_ : Nat) : Bool :=
  match mapGet? s.fab.landLog (sliceKey ash addr) with
  | none => false
  | some (t, banks) => decide (at_ < t) || (decide (at_ = t) && banks.any fun b => meetBanks b (granBank addr))

/-- A landing is noted, with those of the same bank cycle. -/
def State.noteLanding (s : State) (ash addr at_ : Nat) : State :=
  let key := sliceKey ash addr
  let old := match mapGet? s.fab.landLog key with | some (t, banks) => if t = at_ then banks else [] | none => []
  s.modFab fun f => { f with landLog := mapInsert f.landLog key (at_, granBank addr :: old) }

/-- An earlier packet of the same stream for the same ashlar has still to land (R268, R335). -/
def State.outOfOrder (s : State) (g : Gran) : Bool :=
  let first (x : Gran) : Bool :=
    x.stream = g.stream && x.ash = g.ash && (decide (x.hand < g.hand) || (x.hand = g.hand && decide (x.pkt < g.pkt)))
  g.stream.isSome && (s.fab.land.any first || s.fab.held.any fun h => first h.2.1)

/-- A row of an STK is partly landed in the slice: it came to the landing buffer first (R63, R232). -/
def State.rowInHand (s : State) (ash addr : Nat) : Bool :=
  s.fab.stks.any fun k => !k.part.isEmpty && k.ash = ash && bitsOf k.addr 24 22 = bitsOf addr 24 22

/-- A granule can be written in bank cycle `at_` (R63, R268). -/
def State.canLand (s : State) (g : Gran) (at_ : Nat) : Bool :=
  decide (g.ready ≤ at_) && s.turn (s.domOf g.ash) at_ && !s.portsTaken g.ash g.addr at_ && !s.landAfter g.ash g.addr at_
    && !s.outOfOrder g && !s.rowInHand g.ash g.addr

/-- The granule that a slice writes next: of those on their way to it, the one that arrives first; of two that arrive in one cycle
the one that entered the fabric first, which the spec leaves open (R63; log entry 30, DESIGN CHOICE). -/
def earlier (b : Option Gran) (g : Gran) : Option Gran :=
  match b with
  | none => some g
  | some x => if g.ready < x.ready then some g else some x
def State.nextGran (s : State) (ash slice : Nat) : Option Gran :=
  (s.fab.land.filter fun g => landKey g = ash * 8 + slice).foldl earlier none

/-- A granule must be written in bank cycle `at_` if not before: nothing can keep it longer (R63, R290). -/
def State.mustLand (s : State) (at_ : Nat) (g : Gran) : Bool :=
  (match g.slack with | some k => decide (g.ready + k ≤ at_) | none => false) && s.canLand g at_

/-! ## What comes before a domain's next cycle -/

/-- Something is to happen in the domain before wall cycle `w`: a landing in the bank cycle before (R63), a post due in it
(R71, R234), a COMPLETION of this module's mesh (R231). -/
def State.arrivals (s : State) (d w : Nat) : Bool :=
  (s.fab.land.any fun g => s.domOf g.ash = d && s.nextGran g.ash (bitsOf g.addr 24 22) = some g && s.mustLand (w - 1) g)
    || (s.fab.semps.any fun m => s.domOf m.ash = d && decide (m.ready ≤ w))
    || s.fab.compl.any fun c => s.domOf c.ash = d && decide (c.pkt ≠ 0) && decide (c.ready < w)

end Sys2Proof.Machine
end

