-- ==== Sys2Proof/Machine/Issue.lean ====
section
/-! DEFINITION. Issue: what the lead does in its next cycle (R163 to R176, R182, R192, R201, R202, R211 to R214, R222). -/

namespace Sys2Proof.Machine

/-! ## Leases and the overlay loader -/

/-- A domain bank is leased (R176). A fetch pointer that waits to enter a bank with queued overlays is not in it (R174,
R182). -/
def State.leased (s : State) (d bank : Nat) : Bool :=
  let x := s.dom d
  s.running d && !s.halted d &&
    ((decide (x.pc / 512 = bank) && (x.bank = some bank || s.bankState d bank = 1))
      || (x.loops.any fun l => decide (l.first / 512 ≤ bank) && decide (bank ≤ l.last / 512))
      || (match x.call with | some c => decide (c.ret / 512 = bank) | none => false))

/-- The loader can start the OVL at the head of its queue now (R180). -/
def State.loadCan (s : State) (d : Nat) : Bool :=
  let x := s.dom d
  match x.ovq, x.ovLoad with
  | o :: _, none => decide (o.issued < x.cyc) && !s.leased d o.bank
  | _, _ => false

/-- The load in progress has lasted OVL_LAT cycles (R180). -/
def State.loadEnds (s : State) (d : Nat) : Bool :=
  match (s.dom d).ovLoad with | some (_, st) => decide (st + Config.ovlLat ≤ (s.dom d).cyc) | none => false

/-! ## Work that comes before the next instruction -/

/-- The first value on the summary tree can be taken: a zk change before the cycle it arrives in issues, a combine after
it (R189, R194, R195). -/
def sumReady (x : Dom) : Bool :=
  match x.sums with
  | (t, .z ..) :: _ => decide (t ≤ x.cyc)
  | (t, .q ..) :: _ => decide (t < x.cyc)
  | [] => false

/-- An STK still waits in the transfer queue when its deadline has come: its entry, and its ashlars (R233). -/
def State.queuedLate (s : State) (d : Nat) : List (QEnt × Nat) :=
  let x := s.dom d
  (x.tq.filter fun q => clsOf q.word = 2 && opOf q.word = 5 && fld q.word 19 0 != 0 && decide (q.issued + fld q.word 19 0 ≤ x.cyc)).flatMap
    fun q => ((s.live d q.core q.word).filter fun a => !s.fab.stks.any fun k => k.ash = a && k.issued = q.issued && !k.started).map (q, ·)

/-- The STKs of a domain whose deadline has come (R233). -/
def State.lateStks (s : State) (d : Nat) : List StkOp :=
  s.fab.stks.filter fun k => !k.late && s.domOf k.ash = d && (match k.deadline with | some t => decide (t ≤ (s.dom d).cyc) | none => false)

/-- An engine start, a load, a summary, a result or a deadline of the domain is due at or before its next cycle. -/
def State.workDue (s : State) (d : Nat) : Bool :=
  let x := s.dom d
  (match x.aq with | q :: _ => decide (arrayStart x q ≤ x.cyc) | [] => false)
    || (match x.vq with
        | q :: _ => (match s.vStart d q with
          | some t => decide (vecStart x q t ≤ x.cyc)
          | none => decide (max (q.issued + 1) x.vOcc ≤ x.cyc))
        | [] => false)
    || (match x.tq with | q :: _ => decide (transferStart x q ≤ x.cyc) | [] => false)
    || s.loadCan d || s.loadEnds d || sumReady x
    || (x.smps.any fun j => decide (j.due < x.cyc)) || (x.emits.any fun j => decide (j.due < x.cyc))
    || !(s.lateStks d).isEmpty || !(s.queuedLate d).isEmpty

/-- The lead of a running domain may act in its next cycle: nothing is frozen, nothing else is due first. -/
def State.canIssue (s : State) (d : Nat) : Bool :=
  decide (d < 12) && s.leadOf d = d && s.running d && !s.halted d && !(s.dom d).undef && (s.dom d).retire.isNone && !s.frozen d
    && !s.workDue d && !s.arrivals d (s.dom d).wall && !s.replayHolds d

/-! ## Fetch -/

/-- What fetch finds at the fetch pointer. -/
inductive Fetch where
  | bad (bank : Nat)
  | wait (bank : Nat)
  | word (w : Quad)
  deriving DecidableEq, Repr

/-- Fetch from the bank of the fetch pointer (R173, R174). -/
def State.fetch (s : State) (d : Nat) : Fetch :=
  let x := s.dom d
  let b := x.pc / 512
  if 12 * (s.members d).length ≤ b then .bad b
  else match s.bankState d b with
    | 0 => .bad b
    | 1 => .word (s.fetchWord d x.pc)
    | 2 => if x.bank = some b then .word (s.fetchWord d x.pc) else .wait b
    | _ => .wait b

/-- A fault of the lead itself (R205, SOURCE 0). -/
def State.seqHalt (s : State) (d code ia : Nat) (arg : Nat := 0) : State := s.halt d { code := code, pc := some ia, arg := arg }

/-- One cycle of a fetch wait (R182). -/
def State.fetchWait (s : State) (d bank : Nat) : State :=
  let n := (s.dom d).fetchWait + 1
  let s := s.inc (Reg.SEQ_STALL_OVL.CYCLES d)
  let s := s.modDom d fun x => { x with fetchWait := n }
  if 65536 ≤ n then s.seqHalt d 0x06 (s.dom d).pc bank else s.pass d 1

/-! ## The next fetch address -/

/-- Loop ends after the instruction at `pc`, innermost level first (R192): next address and remaining levels. -/
def loopNext (pc : Nat) : List LoopLevel → Nat × List LoopLevel
  | [] => (pc + 1, [])
  | l :: ls =>
    if pc = l.last then
      if 1 < l.remaining then (l.first, { l with remaining := l.remaining - 1 } :: ls) else loopNext pc ls
    else (pc + 1, l :: ls)

/-- Where fetch goes after an instruction. -/
inductive Next where
  | seq
  | skip (a : Nat)
  | jump (a : Nat)
  deriving DecidableEq, Repr

/-- Set the fetch pointer after the instruction at `ia` has issued in this cycle (R172, R190, R192). -/
def Dom.advance (x : Dom) (ia : Nat) : Next → Dom
  | .skip a => { x with pc := a }
  | .jump a => { x with pc := a, hold := x.cyc + 3 }
  | .seq =>
    let r := loopNext ia x.loops.reverse
    match x.call with
    | some c =>
      if r.1 = ia + 1 ∧ ia = c.last then { x with loops := r.2.reverse, call := none, pc := c.ret, hold := x.cyc + 3 }
      else { x with loops := r.2.reverse, pc := r.1 }
    | none => { x with loops := r.2.reverse, pc := r.1 }

/-! ## Issue -/

/-- What an instruction does in the cycle it would issue in: wait in it, on a full queue or for a FENCE or quietly
(R202), or issue. -/
inductive IssueRes where
  | wait (queue fence : Bool)
  | done (s : State) (n : Next)

/-- The instruction of class `cls`, operation `op` issues, waits one cycle, or is not the one at the fetch pointer. -/
def State.issueOp (s : State) (d cls op : Nat) (act : State → Quad → Nat → IssueRes) : State :=
  if s.canIssue d then
    let x := s.dom d
    let ia := x.pc
    if x.cyc < x.hold then s.pass d 1
    else match s.fetch d with
      | .bad b => s.seqHalt d 0x07 ia b
      | .wait b => s.fetchWait d b
      | .word w =>
        if assigned w = false then (s.put (Reg.SEQ_PC.PC d) ia).seqHalt d 0x01 ia
        else if clsOf w ≠ cls ∨ opOf w ≠ op then s
        else match wordFault w with
          | some code => (s.put (Reg.SEQ_PC.PC d) ia).seqHalt d code ia
          | none =>
            match act (s.put (Reg.SEQ_PC.PC d) ia) w ia with
            | .wait queue fence =>
              let s := if queue || fence then s.inc (Reg.SEQ_STALL_QUEUE.CYCLES d) else s
              (s.modDom d fun x => { x with fetchWait := 0, queueStall := queue, bank := some (ia / 512) }).pass d 1
            | .done s n =>
              if s.halted d then s
              else (s.modDom d fun x => { x with fetchWait := 0, queueStall := false, bank := some (ia / 512) }.advance ia n).pass d 1
  else s

/-! ## Register waits (R157, R202, R222, R256) -/

/-- A control-core register will be written by an engine operation that has not yet delivered it: it waits in the vector
queue, or its first free cycle is still to come. -/
def State.regBusy (s : State) (d sel : Nat) : Bool :=
  let x := s.dom d
  (x.busy.any fun b => b.1 = sel && decide (x.cyc < b.2))
    || x.vq.any fun q =>
      let w := q.word
      if clsOf w = 7 then sel = fld w 13 9 || sel = fld w 13 9 + 1
      else if clsOf w = 5 ∧ opOf w = 1 then
        match s.chainOp d w with
        | some v => v.sdstEn && !v.sdstSlice && (sel = v.sdst || (v.rop = 1 && sel = v.sdst + 1))
        | none => false
      else false

/-- An instruction that reads the registers given waits for them, then acts. -/
def State.reading (s : State) (d : Nat) (sels : List Nat) (k : Unit → IssueRes) : IssueRes :=
  if sels.any fun r => s.regBusy d r then .wait false false else k ()

/-! ## Reads of the summary (R159, R197, R498) -/

/-- An instruction that reads qn, or branches on zk, is reported if that value is still to change; then it acts on the value
as it stands. -/
def State.sumLook (s : State) (d : Nat) (z : Bool) (n ia : Nat) (k : State → IssueRes) : IssueRes :=
  let x := s.dom d
  let next := x.sums.find? fun a => decide (x.cyc < a.1) && (match a.2 with | .z k _ _ => z && k = n | .q m _ _ => !z && m = n)
  let s := if s.debug && s.sumRace d z n then
      s.hazard 0 (ashOf d 0) 0 (some ia) (x.cyc, match next with | some a => a.1 | none => x.cyc) else s
  if s.halted d then .done s .seq else k s

/-! ## Engine queues (R165, R201, R202, R225, R241) -/

/-- Which engine queue. -/
inductive Eng where
  | array | vector | transfer
  deriving DecidableEq, Repr

def Dom.queue (x : Dom) : Eng → List QEnt
  | .array => x.aq
  | .vector => x.vq
  | .transfer => x.tq

def Dom.push (x : Dom) (e : Eng) (q : QEnt) : Dom :=
  match e with
  | .array => { x with aq := x.aq ++ [q] }
  | .vector => { x with vq := x.vq ++ [q] }
  | .transfer => { x with tq := x.tq ++ [q] }

/-- Take an entry of an engine queue at issue, or wait for one (R202). -/
def State.enqueue (s : State) (d ia : Nat) (w : Quad) (e : Eng) : IssueRes :=
  let x := s.dom d
  if Config.queueDepth ≤ (x.queue e).length then .wait true false
  else .done (s.modDom d fun x => x.push e { word := w, ia, issued := x.cyc, core := s.bulk.core }) .seq

/-- A fault of an ashlar's control core at issue (R213, SOURCE 1); `place` is the address and the counter or semaphore it
concerns (R489). -/
def State.coreHalt (s : State) (d code ash ia : Nat) (place : Nat × Nat) : State :=
  s.halt d { code := code, source := 1, part := partOf ash, ash := idxOf ash, pc := some ia,
             detail := detailAsh ash place.1 place.2 }

/-- The first ashlar whose predicate is true and whose check fails, with its fault (R213). In a bonded domain the lowest-indexed is
taken by ascending rank first, then by index (log entry 112, DESIGN CHOICE). -/
def State.coreCheck (s : State) (d : Nat) (w : Quad) (chk : Nat → Option Nat) : Option (Nat × Nat) :=
  (s.live d s.bulk.core w).findSome? fun a => (chk a).map fun c => (a, c)

/-- An instruction with per-ashlar checks acts, or the first ashlar that faults is recorded. -/
def State.checked (s : State) (d ia : Nat) (w : Quad) (chk : Nat → Option Nat) (k : Unit → IssueRes)
    (place : Nat → Nat × Nat := fun _ => (0, 0)) : IssueRes :=
  match s.coreCheck d w chk with
  | some (a, c) => .done (s.coreHalt d c a ia (place a)) .seq
  | none => k ()

/-- Apply an effect in every ashlar whose predicate is true (R165). -/
def State.eachLive (s : State) (d : Nat) (w : Quad) (f : State → Nat → State) : State :=
  forAll (s.live d s.bulk.core w) f s

/-- A check that raises OPERAND_RANGE. -/
def rangeIf (bad : Bool) : Option Nat := if bad then some 0x03 else none

end Sys2Proof.Machine
end

