-- ==== Sys2Proof/Machine/Access.lean ====
section
/-! DEFINITION. Register writes by access code and requester (R10, R441 to R451), and where an address lies. -/

namespace Sys2Proof.Machine

/-! ## Where an address lies -/

/-- The partition whose window, ashlar page or doorbell page holds an address. -/
def addrPart (a : Nat) : Option Nat :=
  match (spaceOf a).1 with
  | .module => none
  | .doorbell => some ((a - 0x02000000) / 0x1000)
  | _ => some ((a - 0x01000000) / 0x100000)

/-- The logical ashlar whose page holds an address. -/
def addrAsh (a : Nat) : Nat := ashOf ((a - 0x01000000) / 0x100000) (((a - 0x01000000) % 0x100000 - 0x40000) / 0x1000)

/-- A register that only the management complex writes whatever its code: the groups of R444 and the grout (R81). -/
def fwOnly (a : Nat) : Bool :=
  match spaceOf a with
  | (.module, o) =>
    !((decide (0x80004 ≤ o) && decide (o < 0x8000C)) || (decide (0x80100 ≤ o) && decide (o < 0x80120))
      || (decide (0x81000 ≤ o) && decide (o < 0x83008)) || (decide (0x40200 ≤ o) && decide (o < 0x40228))
      || (decide (0x60000 ≤ o) && decide (o < 0x80000)) || (decide (0x200000 ≤ o) && decide (o < 0x230000))
      || (decide (0x20100 ≤ o) && decide (o < 0x20108)))
  | (.tile, o) => (decide (0x40 ≤ o) && decide (o < 0x60)) || (decide (0x400 ≤ o) && decide (o < 0x800))
  | _ => false

/-- The address lies in the window of a partition that is not available: it reads as zero and discards writes (R2, R430). -/
def State.absent (s : State) (a : Nat) : Bool := match addrPart a with | some p => !s.avail p | none => false

/-- The register space is open to a requester at an address (R2, R451): to the host everything once the module is READY;
before that the identity registers and the management block; during a partition reset that partition's mailbox and
MGT_PART_STATUS. -/
def State.hostOpen (s : State) (w : Who) (a : Nat) : Bool :=
  if s.absent a || !s.mgmt.powered then false
  else if w = .fw then true
  else
    let o := (spaceOf a).2
    let inWindow := (spaceOf a).1 = .partition
    (s.get Reg.MGT_BOOT_STATUS.STAGE = 6
      || (addrPart a = none && ((decide (0x100 ≤ o) && decide (o < 0x200)) || (decide (0x80000 ≤ o) && decide (o < 0x84000)))))
      && (match addrPart a with
          | some p => !s.resetting p || (inWindow && ((decide (0x10000 ≤ o) && decide (o < 0x13000)) || decide (o = 0x1F80)))
          | none => true)

/-- A requester can reach an address (R444, R448): a virtual function its own partition, but for the grout. -/
def whoReaches (w : Who) (a : Nat) : Bool :=
  match w with
  | .vf n => decide (addrPart a = some n) && !fwOnly a
  | _ => true

/-- The seal that covers an address is set (R442). -/
def State.sealedAt (s : State) (a : Nat) : Bool :=
  match addrPart a with | some p => s.partSealed p | none => s.moduleSealed

/-- A requester may write a field of an access code at an address (R443, R444). -/
def State.mayField (s : State) (w : Who) (a : Nat) (c : Access) : Bool :=
  match c with
  | .ro | .rc => false
  | .rws => w = .fw && !s.sealedAt a
  | _ => w = .fw || (whoReaches w a && !fwOnly a)

/-- One field after a write. -/
def fieldAfter (f : FieldRow) (old v : Word) : Word :=
  match f.acc with
  | .rw | .rws => setBits old f.hi f.lo (bitsOf v.toNat f.hi f.lo)
  | .w1c => setBits old f.hi f.lo (bitsOf (old &&& ~~~v).toNat f.hi f.lo)
  | _ => old

/-- The low bits of a register that are zero, whatever is written: those of the serving engine's bases (R399) and of the bases of
the memory regions for RDMA writes (R544). -/
def zeroBits (a : Nat) : Nat :=
  match spaceOf a with
  | (.module, o) => if 0x20C000 ≤ o ∧ o < 0x20E000 ∧ o % 32 = 4 then 6 else 0
  | (.partition, o) =>
    if o = 0x2008 ∨ o = 0x2010 then 16
    else if o = 0x2014 then 20
    else if 0x2040 ≤ o ∧ o < 0x20C0 ∧ o % 32 = 0 then 12
    else 0
  | _ => 0

/-- The word after a write by a requester: each field by its own code (R10). -/
def State.afterWrite (s : State) (w : Who) (a : Nat) (fs : List FieldRow) (v : Word) : Word :=
  ((fs.filter fun f => s.mayField w a f.acc).foldl (fun old f => fieldAfter f old v) (s.rw a)) >>> zeroBits a <<< zeroBits a

/-- A host write that is not permitted is counted (R444). -/
def State.denied (s : State) (w : Who) : State :=
  match w with
  | .vf n => s.inc (Reg.MGT_PART_HOST_DENIED.COUNT n)
  | _ => s.inc Reg.MGT_HOST_DENIED.COUNT

/-- A write under a seal (R443). -/
def State.sealedWrite (s : State) (part : Nat) : State := s.logEvent { code := 0x25, effect := 1, source := 3, part := part }

/-- A word written to a register writes an RWS field of it: where the register has other fields to write, it does so only if it
brings the field another value (log entry 121, DESIGN CHOICE). -/
def State.writesRws (s : State) (a : Nat) (v : Word) : Bool :=
  match findRow a with
  | none => false
  | some r =>
    let l := r.fields.filter fun f => f.acc = .rws
    !l.isEmpty && (r.fields.all (fun f => f.acc = .rws || f.acc = .ro || f.acc = .rc)
      || l.any fun f => decide (bitsOf (s.rw a).toNat f.hi f.lo ≠ bitsOf v.toNat f.hi f.lo))

/-- What a seal has kept out is logged, whoever wrote it (R443). -/
def State.noteSealed (s : State) (a : Nat) (v : Word) : State :=
  if s.sealedAt a && s.writesRws a v then s.sealedWrite ((addrPart a).getD 15) else s

/-- A host write is turned away: nothing at the address is open to it. -/
def State.writeDenied (s : State) (w : Who) (a : Nat) : Bool :=
  w ≠ .fw && (!whoReaches w a ||
    (match findRow a with
     | some r => r.fields.any (fun f => f.acc ≠ .ro && f.acc ≠ .rc) && r.fields.all fun f => !s.mayField w a f.acc
     | none => false))

/-- The stored fields of a register take a write, by their codes; RWS fields do not take a host's, which is counted, and under their
seal none, which is logged. -/
def State.storeReg (s : State) (w : Who) (a : Nat) (v : Word) : State :=
  match findRow a with
  | none => s
  | some r =>
    let s' := s.ww a (s.afterWrite w a r.fields v)
    (if w ≠ .fw ∧ s.writesRws a v then s'.denied w else s').noteSealed a v

/-- A write by a requester to a register without an effect of its own. One to a register of R21 at a member that is not the
lead goes to the member's own storage, which nothing reads: what it does is the model's choice (log entry 91, DESIGN CHOICE). -/
def State.plainWrite (s : State) (w : Who) (a : Nat) (v : Word) : State :=
  if !s.hostOpen w a then s
  else if s.writeDenied w a then (if whoReaches w a then (s.denied w).noteSealed a v else s.denied w)
  else s.storeReg w a v

/-- A write with an effect of its own acts only for a requester that may write the field. -/
def State.gated (s : State) (w : Who) (a : Nat) (c : Access) (k : State → State) : State :=
  if !s.hostOpen w a then s
  else if w ≠ .fw ∧ s.mayField w a c = false then s.denied w
  else if s.mayField w a c then k s
  else s

/-! ## Posted host writes (R282) -/

/-- A host write waits for a full pending queue, or behind one that does: the link's posted-write credit is withheld. -/
def State.hostWaits (s : State) : Bool :=
  !s.posted.isEmpty || (List.range 12).any fun p => (s.pendAt p).waiting.any fun h => h.who ≠ .fw

/-- A requester's write can be accepted now: the management complex's, or a host's that finds the link free. -/
def State.postFree (s : State) (w : Who) : Bool := w = .fw || !s.hostWaits

/-- A posted write takes place, or waits behind the one that is held. -/
def State.posting (s : State) (w : Who) (x : PostWhat) (k : State → State) : State :=
  if s.postFree w then k s else { s with posted := s.posted ++ [(w, x)] }

end Sys2Proof.Machine
end

