-- ==== Sys2Proof/Machine/Pending.lean ====
section
/-! DEFINITION. Pending writes and the boundary window (R26, R70, R72, R73, R81, R209, R210, R249, R279 to R284, R503, R505),
the cornice access registers (R210), the domain reset (R207). -/

namespace Sys2Proof.Machine

/-! ## Slices -/

/-- First physical word of a slice, spare rows and spare bank included, and how many words it has. -/
def slicePhys (ash slice : Nat) : Nat := (ash * 8 + slice) * 8224 * 65
def slicePhysLen : Nat := 8224 * 65

/-- A slice loses its contents (R73). -/
def State.wipeSlice (s : State) (ash slice : Nat) : State :=
  let lo := slicePhys ash slice
  let hi := lo + slicePhysLen
  { s with bulk := { s.bulk with scratch := mapClear s.bulk.scratch (lo * 8) (hi * 8), upset := mapClear s.bulk.upset lo hi } }

/-- PWR_EN takes a value (R73): a slice that it powers down is not READY and loses its contents; one that it powers up
becomes READY when SLICE_READY says so. -/
def State.setSlicePower (s : State) (ash v : Nat) : State :=
  let p := partOf ash
  let i := idxOf ash
  let old := s.get (Reg.TILE_SLICE_PWR.PWR_EN p i)
  let ready := s.get (Reg.TILE_SLICE_PWR.READY p i)
  let s := (s.put (Reg.TILE_SLICE_PWR.PWR_EN p i) v).put (Reg.TILE_SLICE_PWR.READY p i) (ready &&& old &&& v)
  forAll (List.range 8) (fun s k => if bitOf old k && !bitOf v k then s.wipeSlice ash k else s) s

/-! ## Grout -/

/-- Copy one physical word, bytes and check state. -/
def State.copyWord (s : State) (src dst : Nat) : State :=
  let b := forAll (List.range 8) (fun (m : List Host.Cell) i => mapSet 0 m (dst * 8 + i) (mapGet 0 m (src * 8 + i))) s.bulk.scratch
  let u := mapGet 0 s.bulk.upset src
  { s with bulk := { s.bulk with scratch := b, upset := mapSet 0 s.bulk.upset dst (if u = 2 then 2 else 0) } }

/-- The bank cycle of a row copy is taken: no landing is performed in the slice in it (R503). -/
def State.noteCopy (s : State) (ash slice : Nat) : State :=
  { s with fab := { s.fab with
    landLog := mapInsert s.fab.landLog (ash * 8 + slice) (s.wallNow (s.domOf ash), (List.range 8).map (8 * ·)) } }

/-- A row remap takes a value (R80, R503): an entry that becomes valid copies the row, as now mapped and corrected, into its
spare row first; an uncorrectable word keeps its check bits and is logged. -/
def State.setGroutRow (s : State) (ash n : Nat) (v : Word) : State :=
  let p := partOf ash
  let i := idxOf ash
  let a := Reg.TILE_GROUT_ROW.addr p i n
  let slice := n / 32
  let row := v.toNat % 8192
  let s :=
    if bitOf v.toNat 15 then
      let s' := forAll (List.range 64) (fun t c => t.copyWord (s.physWord ash slice row c)
        (((ash * 8 + slice) * 8224 + 8192 + n % 32) * 65 + (s.physWord ash slice row c) % 65)) (s.noteCopy ash slice)
      if (List.range 64).any fun c => mapGet 0 s.bulk.upset (s.physWord ash slice row c) = 2 then
        s'.logEvent { code := 0x24, effect := 1, source := 3, part := p, ash := i, detail := detailAsh ash (slice <<< 22 + row <<< 9) slice }
      else s'
    else s
  s.storeReg .fw a v

/-- A bank remap takes a value (R79, R505): a valid entry is activated when its copy has ended. -/
def State.setGroutBank (s : State) (ash slice : Nat) (v : Word) : State :=
  if bitOf v.toNat 7 then
    { s with mgmt := { s.mgmt with groutCopy := (s.mgmt.groutCopy.filter fun c => ¬ (c.1 = ash ∧ c.2.1 = slice)) ++ [(ash, slice, v)] } }
  else s.storeReg .fw (Reg.TILE_GROUT_BANK.addr (partOf ash) (idxOf ash) slice) v

/-! ## Applying one entry -/

/-- A register whose writes take effect in the boundary window (R84, R209, R249). -/
def deferred (a : Nat) : Bool :=
  match spaceOf a with
  | (.tile, o) =>
    o = 0x10 || (decide (0x40 ≤ o) && decide (o < 0x60)) || (decide (0x200 ≤ o) && decide (o < 0x380))
      || (decide (0x400 ≤ o) && decide (o < 0x800))
  | (.partition, o) =>
    o = 0x8 || (decide (0x60 ≤ o) && decide (o < 0xA0)) ||
      (decide (0x1400 ≤ o) && decide (o < 0x1C00) && decide (o % 64 < 0x2C))
  | _ => false

/-- A deferred register takes its value. -/
def State.applyReg (s : State) (a : Nat) (v : Word) : State :=
  match spaceOf a with
  | (.tile, o) =>
    let ash := addrAsh a
    if o = 0x10 then s.setSlicePower ash (v.toNat % 256)
    else if o < 0x60 then s.setGroutBank ash ((o - 0x40) / 4) v
    else if o < 0x400 then s.storeReg .fw a v
    else s.setGroutRow ash ((o - 0x400) / 4) v
  | (.partition, o) =>
    let p := (addrPart a).getD 0
    if o < 0x1400 ∧ s.leadOf p ≠ p then s else s.storeReg .fw a v
  | _ => s

/-- A cornice commit (R210). -/
def State.applyCommit (s : State) (p ia : Nat) (w : Quad) : State :=
  let b := ia / 512
  if 6144 ≤ ia then s
  else if s.get (Reg.SEQ_BANK.RESIDENT p b) = 1 ∧ s.partSealed p then s.sealedWrite p
  else
    let s :=
      if s.get (Reg.SEQ_BANK.STATE p b) = 0 then
        let lo := p * 6144 + b * 512
        { s with bulk := { s.bulk with cornice := mapClear s.bulk.cornice lo (lo + 512) } }.put (Reg.SEQ_BANK.STATE p b) 1
      else s
    s.setCornice p ia w

/-- A host or firmware write to scratchpad is performed; one to a slice that is not READY is discarded (R73, R264). -/
def State.applyScratch (s : State) (ash addr : Nat) (data : List Byte) : State :=
  if s.sliceReady ash (bitsOf addr 24 22) then s.wrBytes ash addr data else s

/-- The WRITE entry of the record (R512, R513). A cornice commit has its captured address behind its word (log entry 57). -/
def State.recWriteEnt (s : State) (boundary : Bool) (x : PendWhat) : State :=
  match x with
  | .scratch ash addr data => s.recEvent 7 (partOf ash) 0 boundary [addr + ash <<< 25 + data.length <<< 35] data
  | .reg a v =>
    let p := (addrPart a).getD 0
    s.recEvent 7 p 0 boundary [(a - 0x01000000) % 0x100000 + 4 <<< 35 + 1 <<< 63] (leBytes 4 v.toNat)
  | .commit p ia w => s.recEvent 7 p 0 boundary [0x104 + 8 <<< 35 + 1 <<< 63] (leBytes 8 w.toNat ++ leBytes 8 ia)

/-- The partition a pending write belongs to. -/
def pendPart : PendWhat → Nat
  | .scratch ash .. => partOf ash
  | .reg a _ => (addrPart a).getD 0
  | .commit p .. => p

/-- What packets and posts have added in the window to a counter or a semaphore that it has just written comes after the
written value (R70, R72). -/
def State.addLanded (s : State) (a : Nat) : State :=
  match spaceOf a with
  | (.tile, o) =>
    let ash := addrAsh a
    let q := s.pendAt (partOf ash)
    let w := s.wallNow (s.domOf ash)
    if 0x200 ≤ o ∧ o < 0x300 then
      let n := (o - 0x200) / 4
      match mapGet? q.addC (ash * 64 + n) with
      | some k => (s.setPend (partOf ash) { q with addC := mapErase q.addC (ash * 64 + n) }).cairnAdd ash n k w
      | none => s
    else if 0x300 ≤ o ∧ o < 0x380 then
      let n := (o - 0x300) / 4
      match mapGet? q.addS (ash * 64 + n) with
      | some k => (s.setPend (partOf ash) { q with addS := mapErase q.addS (ash * 64 + n) }).semPost ash n k w 2 none
      | none => s
    else s
  | _ => s

/-- Apply one entry (R279, R280). -/
def State.applyPend (s : State) (boundary : Bool) (x : PendWhat) : State :=
  let s := s.recWriteEnt boundary x
  let s := s.inc (Reg.SEQ_PEND_APPLIED.COUNT (pendPart x))
  match x with
  | .scratch ash addr data => s.applyScratch ash addr data
  | .reg a v => (s.applyReg a v).addLanded a
  | .commit p ia w => s.applyCommit p ia w

/-! ## The queue -/

/-- The partition's writes are held for a boundary window: its domain is armed, or a course of it still runs (R26, R281). -/
def State.holdsWrites (s : State) (p : Nat) : Bool := s.armed (s.leadOf p) || s.running (s.leadOf p)

/-- Apply the first `n` entries of a partition's queue, in order. -/
def State.applyHead (s : State) (p n : Nat) : State :=
  let q := s.pendAt p
  let s := s.setPend p { q with queue := q.queue.drop n }
  let s := forAll (q.queue.take n) (fun s x => s.applyPend true x) s
  s.setPend p { s.pendAt p with window := q.window - n, addC := [], addS := [] }

/-- Waiting writes enter the queue as entries free, or are applied where nothing holds them (R281, R282). -/
def State.admitOp (s : State) (p : Nat) : State :=
  let q := s.pendAt p
  match q.waiting with
  | [] => s
  | h :: l =>
    let enter := decide (q.queue.length < Config.pendDepth) && s.holdsWrites p
    let direct := !s.holdsWrites p && q.queue.isEmpty
    if enter || direct then
      let s := s.inc (Reg.SEQ_PEND_HOLD.COUNTS p) (s.now - h.since)
      let l := match l with | n :: l => { n with since := max n.since s.now } :: l | [] => []
      if enter then s.setPend p { q with queue := q.queue ++ [h.what], waiting := l }
      else (s.setPend p { q with waiting := l }).applyPend false h.what
    else s

/-- The boundary window of a partition (R280, R281): the entries it has to apply, or all of them while nothing holds them. -/
def State.windowOp (s : State) (p : Nat) : State :=
  let q := s.pendAt p
  if s.holdsWrites p then s.applyHead p q.window else s.applyHead p q.queue.length

/-- One entry arrives (R279, R281, R282). -/
def State.pendArrive (s : State) (w : Who) (x : PendWhat) : State :=
  let p := pendPart x
  let q := s.pendAt p
  if s.holdsWrites p then
    if q.queue.length < Config.pendDepth ∧ q.waiting = [] then s.setPend p { q with queue := q.queue ++ [x] }
    else
      let s := s.setPend p { q with waiting := q.waiting ++ [{ who := w, what := x, since := s.now }] }
      if w = .fw then s else s.put (Reg.SEQ_PEND_STATUS.HELD p) 1
  else if q.waiting = [] then (s.windowOp p).applyPend false x
  else s.setPend p { q with waiting := q.waiting ++ [{ who := w, what := x, since := s.now }] }

/-- The largest naturally aligned entry that starts at an address (R279). What a write gives of a word of four bytes, where it
does not give all four, is an entry of four bytes that leaves the others as they are (log entry 95, DESIGN CHOICE). -/
def entrySize (addr n : Nat) : Nat :=
  match [64, 32, 16, 8, 4].find? fun k => addr % k = 0 && decide (k ≤ n) with
  | some k => k
  | none => min n (4 - addr % 4)

/-- A longer write is split into entries in address order (R279). -/
def splitEntries (ash : Nat) : Nat → Nat → List Byte → List PendWhat
  | 0, _, _ => []
  | fuel + 1, addr, data =>
    if data = [] then []
    else
      let k := entrySize addr data.length
      .scratch ash addr (data.take k) :: splitEntries ash fuel (addr + k) (data.drop k)

/-- A requester may make a pending write (R431, R444, R450, R451, R455). -/
def pendAllowed (w : Who) (x : PendWhat) : Bool :=
  match w with
  | .vf n => decide (pendPart x = n)
  | _ => true

/-- A host or firmware write that takes effect in the boundary window (R279). -/
def State.pendWrite (s : State) (w : Who) (x : PendWhat) : State :=
  let p := pendPart x
  if w ≠ .fw ∧ s.get Reg.MGT_BOOT_STATUS.STAGE ≠ 6 then s
  else if pendAllowed w x = false then s.denied w
  else if s.avail p = false ∨ (w ≠ .fw ∧ s.resetting p) then s
  else
    match x with
    | .scratch ash addr data => forAll (splitEntries ash (data.length + 1) addr data) (fun s e => s.pendArrive w e) s
    | .reg a v => if w ≠ .fw ∧ s.mayField w a .rw = false then s.denied w else s.pendArrive w (.reg a v)
    | .commit .. => s.pendArrive w x

/-- PENDING_WRITE_APPLY. -/
def execPendingWriteApply (p : Nat) (s : State) : Host.Outcome State Fault Refusal := s.answer (s.windowOp p)

/-- A write to a register whose writes wait for the boundary window. -/
def State.slowWrite (s : State) (w : Who) (a : Nat) (v : Word) : Host.Outcome State Fault Refusal :=
  s.answer (s.posting w (.part (.reg a v)) fun s => s.pendWrite w (.reg a v))

/-- SLICE_POWER_CTRL. -/
def execSlicePowerCtrl (w : Who) (ash : Nat) (v : Word) (s : State) : Host.Outcome State Fault Refusal :=
  s.slowWrite w (Reg.TILE_SLICE_PWR.addr (partOf ash) (idxOf ash)) v

/-- GROUT_ROW_APPLY. -/
def execGroutRowApply (w : Who) (ash n : Nat) (v : Word) (s : State) : Host.Outcome State Fault Refusal :=
  s.slowWrite w (Reg.TILE_GROUT_ROW.addr (partOf ash) (idxOf ash) n) v

/-- GROUT_BANK_WRITE. -/
def execGroutBankWrite (w : Who) (ash slice : Nat) (v : Word) (s : State) : Host.Outcome State Fault Refusal :=
  s.slowWrite w (Reg.TILE_GROUT_BANK.addr (partOf ash) (idxOf ash) slice) v

/-! ## The cornice access registers (R210) -/

/-- The word at LOCAL_IA, zero from 6,144 on. -/
def State.corniceAt (s : State) (p : Nat) : Quad :=
  let ia := s.get (Reg.SEQ_CORNICE_ADDR.LOCAL_IA p)
  if ia < 6144 then s.cornice p ia else 0

/-- LOCAL_IA moves on after an access to SEQ_CORNICE_DATA_HI. -/
def State.corniceInc (s : State) (p : Nat) : State :=
  if s.get (Reg.SEQ_CORNICE_ADDR.AUTO_INC p) = 1 then
    s.put (Reg.SEQ_CORNICE_ADDR.LOCAL_IA p) ((s.get (Reg.SEQ_CORNICE_ADDR.LOCAL_IA p) + 1) % 8192)
  else s

/-- A write of SEQ_CORNICE_DATA_HI captures a commit. -/
def State.corniceHiWrite (s : State) (w : Who) (p : Nat) (v : Word) : State :=
  s.gated w (Reg.SEQ_CORNICE_DATA_HI.addr p) .rw fun s =>
    let ia := s.get (Reg.SEQ_CORNICE_ADDR.LOCAL_IA p)
    let lo := s.rw (Reg.SEQ_CORNICE_DATA_LO.addr p)
    (s.pendWrite w (.commit p ia (v ++ lo))).corniceInc p

/-- CORNICE_DATA_HI_WRITE. -/
def execCorniceDataHiWrite (w : Who) (p : Nat) (v : Word) (s : State) : Host.Outcome State Fault Refusal :=
  s.answer (s.posting w (.reg (Reg.SEQ_CORNICE_DATA_HI.addr p) v) fun s => s.corniceHiWrite w p v)

/-- A requester can read an address now; elsewhere it reads zero. -/
def State.mayRead (s : State) (w : Who) (a : Nat) : Bool := s.hostOpen w a && whoReaches w a

/-- What a read answered. -/
def State.reply (s : State) (v : Word) : State := { s with rdata := .word v }

/-- A read of SEQ_CORNICE_DATA_LO: the low half, the high half latched. -/
def State.corniceLoRead (s : State) (w : Who) (p : Nat) : State :=
  if s.mayRead w (Reg.SEQ_CORNICE_DATA_LO.addr p) then
    let x := s.corniceAt p
    { s.reply (x.extractLsb' 0 32) with
      latches := mapSet 0 s.latches (Reg.SEQ_CORNICE_DATA_HI.addr p) (x.extractLsb' 32 32) }
  else s.reply 0

/-- CORNICE_DATA_LO_READ. -/
def execCorniceDataLoRead (w : Who) (p : Nat) (s : State) : Host.Outcome State Fault Refusal := s.answerCtl (s.corniceLoRead w p)

/-- A read of SEQ_CORNICE_DATA_HI: the latched half; LOCAL_IA moves on. While LOCAL_IA is 6,144 or more it reads as zero. -/
def State.corniceHiRead (s : State) (w : Who) (p : Nat) : State :=
  if s.mayRead w (Reg.SEQ_CORNICE_DATA_HI.addr p) then
    let v := if s.get (Reg.SEQ_CORNICE_ADDR.LOCAL_IA p) < 6144 then mapGet 0 s.latches (Reg.SEQ_CORNICE_DATA_HI.addr p) else 0
    (s.reply v).corniceInc p
  else s.reply 0

/-- CORNICE_DATA_HI_READ. -/
def execCorniceDataHiRead (w : Who) (p : Nat) (s : State) : Host.Outcome State Fault Refusal := s.answerCtl (s.corniceHiRead w p)

/-! ## Domain reset (R207) -/

/-- A write of 1 to SEQ_CTRL.DOMAIN_RESET: discarded for a non-lead member and for an armed domain; a course that still runs
keeps its window closed. -/
def State.domainResetWrite (s : State) (w : Who) (p : Nat) : State :=
  s.gated w (Reg.SEQ_CTRL.addr p) .wo fun s =>
    if s.leadOf p ≠ p ∨ s.armed p then s
    else if s.running p && !(s.dom p).undef then s.modDom p fun x => { x with resetDue := true }
    else s.resetDomain p

/-- DOMAIN_RESET. -/
def execDomainReset (w : Who) (p : Nat) (s : State) : Host.Outcome State Fault Refusal :=
  s.answer (s.posting w (.reg (Reg.SEQ_CTRL.addr p) 1) fun s => s.domainResetWrite w p)

end Sys2Proof.Machine
end

