-- ==== Sys2Proof/Machine/Course.lean ====
section
/-! DEFINITION. Ticks, courses and the freeze (R12 to R48, R184 to R187, R306, R365, R417, R445, R474, R475, R505). -/

namespace Sys2Proof.Machine

/-! ## Steps requested (R300, R303, R306) -/

/-- A domain spans the seam: it has members in both halves (R306). -/
def State.spans (s : State) (d : Nat) : Bool := (s.members d).any (fun p => p < 6) && (s.members d).any fun p => 6 ≤ p

/-- A step is available (R300). -/
def State.stepOk (s : State) (n : Nat) : Bool := bitOf (s.get Reg.CLK_STEP_AVAIL.AVAIL) n

/-- A submitted request is checked: each reason for which it is refused is reported (R303). -/
def State.submitStep (s : State) : State :=
  let w := s.get Reg.CLK_STEP_PLAN.NEXT_W
  let e := s.get Reg.CLK_STEP_PLAN.NEXT_E
  let unavail := !s.stepOk w || !s.stepOk e
  let notice := s.tickEn && decide (s.get2 Reg.CLK_STEP_COURSE_LO.COURSE Reg.CLK_STEP_COURSE_HI.COURSE ≤ s.courseNum + 1)
  let span := decide (w ≠ e) && (List.range 12).any fun d => s.armed d && s.spans d
  let due := if s.tickEn then none else some (s.now + 4)
  let s := if unavail then (s.logEvent { code := 0xC6, effect := 1 }).put Reg.CLK_STEP_STATUS.REFUSED_UNAVAIL 1 else s
  let s := if notice then s.put Reg.CLK_STEP_STATUS.REFUSED_NOTICE 1 else s
  let s := if span then (s.logEvent { code := 0xC2, effect := 1 }).put Reg.CLK_STEP_STATUS.REFUSED_SPAN 1 else s
  let refused := unavail || notice || span
  let s := { s with clk := { s.clk with stepDue := if refused then none else due } }
  s.put Reg.CLK_STEP_PLAN.PENDING (if refused then 0 else 1)

/-- Boluk requests steps for both halves; with ticks, for the first course that R303 lets it name. -/
def State.askStep (s : State) (w e : Nat) : State :=
  let s := (s.put Reg.CLK_STEP_PLAN.NEXT_W w).put Reg.CLK_STEP_PLAN.NEXT_E e
  let s := if s.tickEn then s.put2 Reg.CLK_STEP_COURSE_LO.COURSE Reg.CLK_STEP_COURSE_HI.COURSE ((s.courseNum + 2) % 2 ^ 48) else s
  s.submitStep

/-- One step lower in both halves; a half at step 0 stays there. -/
def State.lowerStep (s : State) : State :=
  let w := s.get Reg.CLK_STEP_CUR.STEP_W
  let e := s.get Reg.CLK_STEP_CUR.STEP_E
  if w = 0 ∧ e = 0 then s else s.askStep (w - 1) (e - 1)

/-- What Boluk does as an overrun episode begins, by its policy then (R46, R460, R461; log entry 73). -/
def State.overrunPolicy (s : State) (d : Nat) : State :=
  if s.mgmt.boluk = false then s
  else if s.mgmt.policy.overrun = 1 then s.disarmNow d
  else if s.mgmt.policy.overrun = 2 then s.lowerStep
  else s

/-- What Boluk does as a freeze passes its limit, by its policy then (R40, R460). -/
def State.freezePolicy (s : State) (d : Nat) : State :=
  if s.mgmt.boluk && s.mgmt.policy.freezeLimit = 1 then s.disarmNow d else s

/-! ## Ticks -/

/-- Ticks are generated (R15): enabled, and the origin is known. -/
def State.ticking (s : State) : Bool := s.tickEn && s.clk.originSet

/-- The next tick comes at a glacier count (R12). -/
def State.nextTick (s : State) : Nat := s.tickTime s.clk.nextK

/-- A step change is due now and has not been applied (R304). A CLK_STEP_COURSE that has been rewritten to a tick already past applies
at once; TICK_EN cleared after a request was accepted under ticks leaves it pending (log entry 114, DESIGN CHOICE). -/
def State.stepWaits (s : State) : Bool :=
  s.get Reg.CLK_STEP_PLAN.PENDING = 1 && s.clk.stepDue.isNone && s.tickEn
    && decide (s.get2 Reg.CLK_STEP_COURSE_LO.COURSE Reg.CLK_STEP_COURSE_HI.COURSE ≤ s.courseNum)

/-- A domain has cycles, or a start, to run before a glacier count: nothing that keeps it waiting is outstanding. -/
def State.behind (s : State) (d g : Nat) : Bool :=
  let x := s.dom d
  (s.running d && !s.halted d && !x.undef
      && (if s.frozen d then (match x.resume with | some r => decide (s.glacierOf d r ≤ g) | none => false)
          else decide (s.glacierOf d (x.wall + 1) ≤ g)))
    || (!s.running d && (match x.launch with | some (t, _) => decide (t ≤ g) | none => false))

/-- A tick that finds a domain armed (R25, R43, R44): it starts the domain's course, or it is owed. A course that overruns after
its domain has been disarmed meets no such tick: it counts in SEQ_OVERRUN_COUNT as its ENDC retires (R42), and begins no
episode and logs no 0xC1 (log entry 92, DESIGN CHOICE). -/
def State.tickDomain (s : State) (d k g : Nat) : State :=
  let x := s.dom d
  if s.armed d = false ∨ k < x.start then s
  else if s.running d ∨ x.launch.isSome then
    let lag := s.get (Reg.SEQ_COURSE_STATUS.LAG d)
    if lag = 65535 then
      ((s.logOnce { code := 0xCB, effect := 2, part := d, cycle := x.cyc, detail := lag }).put
        (Reg.SEQ_COURSE_STATUS.LAG_LIMIT d) 1).disarmNow d
    else
      let s := s.put (Reg.SEQ_COURSE_STATUS.LAG d) (lag + 1)
      if s.running d ∧ x.episode = false then
        ((s.logOnce { code := 0xC1, effect := 1, part := d, cycle := x.cyc, detail := g - x.tickG }).modDom d
          fun x => { x with episode := true }).overrunPolicy d
      else s
  else
    let s := s.modDom d fun x => { x with launch := some (g + 4, k, g) }
    forAll (s.members d) (fun s p => s.setPend p { s.pendAt p with window := (s.pendAt p).queue.length, addC := [], addS := [] }) s

/-- The serving boundary of a partition is due at this tick (R370): at once, unless a course of its armed domain still runs. It then
comes as that course ends: before the course that the domain owes for this tick, or by itself, where the domain was armed anew for
a later course. -/
def State.tickServing (s : State) (p k : Nat) : State :=
  let d := s.leadOf p
  if s.armed d && s.running d && decide (k < (s.dom d).start) then s.modSrv p fun e => { e with ticks := e.ticks ++ [k] }
  else if s.armed d && (s.running d || (match (s.dom d).launch with | some (_, j, _) => decide (j ≠ k) | none => false)) then s
  else s.modSrv p fun e => { e with boundary := some k, ticks := [] }

/-- Tick k (R12, R25, R43). -/
def State.tickOp (s : State) : State :=
  let k := s.clk.nextK
  let g := s.nextTick
  if s.ticking && !s.stepWaits && (List.range 12).all (fun d => !s.behind d g) then
    let s := (s.atLeast g).syncJudge
    let s := s.put2 Reg.CLK_COURSE_NUM_LO.COURSE_NUM Reg.CLK_COURSE_NUM_HI.COURSE_NUM k
    let s := s.put2 Reg.CLK_COURSE_START_LO.START Reg.CLK_COURSE_START_HI.START g
    let s := { s with clk := { s.clk with
      nextK := (k + 1) % 2 ^ 48
      openTicks := if s.clk.edges.contains k ∨ s.get Reg.CLK_COURSE_CTRL.SYNC_CHECK_EN = 0 then s.clk.openTicks else s.clk.openTicks ++ [k]
      edges := s.clk.edges.filter fun e => e ≠ k } }
    let s := forAll (List.range 12) (fun s d => s.tickDomain d k g) s
    forAll (List.range 12) (fun s p => s.tickServing p k) s
  else s

/-- TICK. -/
def execTick (s : State) : Host.Outcome State Fault Refusal := s.answerCtl s.tickOp

/-- The first tick after a glacier count, given the origin (R12). A tick that falls exactly in the count in which TICK_EN rises is
not generated: the first one is the first strictly after it (log entry 89, DESIGN CHOICE). -/
def State.firstTick (s : State) (g : Nat) : Nat :=
  if g < s.origin then s.originCourse else (s.originCourse + (g - s.origin) / max 1 s.period + 1) % 2 ^ 48

/-- A write of CLK_COURSE_CTRL (R15, R18): a rising TICK_EN takes the origin as written, or waits for RACK_SYNC. -/
def State.tickEnableOp (s : State) (w : Who) (v : Word) : State :=
  s.gated w Reg.CLK_COURSE_CTRL.addr .rw fun s =>
    let was := s.tickEn
    let s := s.storeReg w Reg.CLK_COURSE_CTRL.addr v
    if s.tickEn && !was then
      let align := decide (s.get Reg.CLK_COURSE_CTRL.ALIGN_ON_SYNC = 1)
      let s := { s with clk := { s.clk with
        alignPending := align
        originSet := !align
        nextK := s.firstTick s.now
        openTicks := []
        edges := [] } }
      s.put Reg.CLK_SYNC_STATUS.ALIGNED (if align then 0 else 1)
    else if was && !s.tickEn then
      { s with clk := { s.clk with
        alignPending := false
        originSet := false
        openTicks := []
        edges := [] } }.put Reg.CLK_SYNC_STATUS.ALIGNED 0
    else s

/-- TICK_ENABLE. -/
def execTickEnable (w : Who) (v : Word) (s : State) : Host.Outcome State Fault Refusal :=
  s.answerCtl (s.posting w (.reg Reg.CLK_COURSE_CTRL.addr v) fun s => s.tickEnableOp w v)

/-- The tick parameters (R14). -/
def tickParam (a : Nat) : Bool :=
  [Reg.CLK_COURSE_PERIOD.addr, Reg.CLK_TICK_ORIGIN_LO.addr, Reg.CLK_TICK_ORIGIN_HI.addr, Reg.CLK_ORIGIN_COURSE_LO.addr,
   Reg.CLK_ORIGIN_COURSE_HI.addr].contains a

/-- A write of CLK_COURSE_PERIOD, CLK_TICK_ORIGIN or CLK_ORIGIN_COURSE (R13, R14). -/
def State.tickParamOp (s : State) (w : Who) (a : Nat) (v : Word) : State :=
  if tickParam a then
    s.gated w a .rw fun s =>
      let n := v.toNat % 2 ^ 18
      if s.tickEn || (a = Reg.CLK_COURSE_PERIOD.addr && (decide (n < 2000) || decide (200000 < n))) then
        s.put Reg.CLK_SYNC_STATUS.PERIOD_REJECT 1
      else s.storeReg w a v
  else s

/-- TICK_PARAM_WRITE. -/
def execTickParamWrite (w : Who) (addr : Nat) (v : Word) (s : State) : Host.Outcome State Fault Refusal :=
  s.answerCtl (s.posting w (.reg addr v) fun s => s.tickParamOp w addr v)

/-- The tick nearest a glacier count, and the signed deviation from it (R17). -/
def State.nearTick (s : State) (g : Int) : Nat × Int :=
  let p : Int := (max 1 s.period : Nat)
  let n := (2 * (g - s.origin) + p) / (2 * p)
  (wrapInt 48 ((s.originCourse : Int) + n), g - ((s.origin : Int) + n * p))

/-- A rising edge of RACK_SYNC with its glacier time stamp (R15, R17). LAST_DEVIATION takes the deviation of an edge that is more
than 2 counts off, as R17 says, where its field's row in R47 says of the latest pulse; one that 16 bits do not hold is taken
modulo 2^16 (log entry 90, DESIGN CHOICE). -/
def State.syncEdgeOp (s : State) (stamp : Nat) : State :=
  let g : Int := (stamp : Int) + signedOf 16 (s.get Reg.CLK_SYNC_DELAY.DELAY)
  let s := (s.atLeast stamp).syncJudge
  if s.clk.alignPending then
    let s := s.put2 Reg.CLK_TICK_ORIGIN_LO.ORIGIN Reg.CLK_TICK_ORIGIN_HI.ORIGIN (wrapInt 64 g)
    { s with clk := { s.clk with
      alignPending := false
      originSet := true
      nextK := s.originCourse
      edges := [s.originCourse] } }.put Reg.CLK_SYNC_STATUS.ALIGNED 1
  else if s.ticking ∧ s.get Reg.CLK_COURSE_CTRL.SYNC_CHECK_EN = 1 then
    let r := s.nearTick g
    if -2 ≤ r.2 ∧ r.2 ≤ 2 then
      { s with clk := { s.clk with
        openTicks := s.clk.openTicks.filter fun k => k ≠ r.1
        edges := if s.clk.nextK ≤ r.1 then r.1 :: s.clk.edges else s.clk.edges } }
    else
      (s.put Reg.CLK_SYNC_STATUS.SYNC_DEVIATION 1).put Reg.CLK_SYNC_STATUS.LAST_DEVIATION (wrapInt 16 r.2)
  else s

/-- RACK_SYNC_EDGE. -/
def execRackSyncEdge (stamp : Nat) (s : State) : Host.Outcome State Fault Refusal := s.answerCtl (s.syncEdgeOp stamp)

/-! ## The course header (R27, R185, R474) -/

/-- A word that the sequencer can read as a header: in a VALID bank, or a PENDING one that holds an overlay (R185). -/
def State.headWord (s : State) (d ia : Nat) : Option Quad :=
  let b := ia / 512
  if 12 * (s.members d).length ≤ b then none
  else match s.bankState d b with
    | 1 => some (s.fetchWord d ia)
    | 2 => if (s.dom d).ovPrev.contains (b, true) then some (s.fetchWord d ia) else none
    | _ => none

/-- The energy profile at a domain instruction address, if it matches (R474). -/
def State.profileAt (s : State) (d ia : Nat) : Option Profile :=
  match s.headWord d ia, s.headWord d (ia + 1) with
  | some w0, some w1 =>
    if fld w0 63 48 = 0x4550 ∧ fld w0 47 44 = 1 ∧ fld w0 43 13 = 0 ∧ fld w1 63 32 = 0 ∧ fld w1 15 13 = 0 then
      some { mean := fld w0 12 0, lead := fld w1 31 16, forecast := fld w1 12 0 }
    else none
  | _, _ => none

/-- A course header that matches (R27): SCHED_CYCLES, MORTAR_CYCLES, the energy profile. -/
structure Header where
  sched : Nat
  mortar : Nat
  profile : Profile
  deriving DecidableEq, Repr

/-- The header in front of an entry, if it matches. -/
def State.headerAt (s : State) (d entry : Nat) : Option Header :=
  if entry < 3 then none
  else match s.headWord d (entry - 3), s.headWord d (entry - 2), s.headWord d (entry - 1) with
    | some w0, some w1, some w2 =>
      if fld w0 63 48 = 0x4B48 ∧ fld w0 47 44 = 1 ∧ fld w0 43 18 = 0 ∧ fld w0 17 0 = s.period ∧ fld w2 63 17 = 0 then
        (s.profileAt d (fld w2 16 0)).map fun p => { sched := fld w1 63 32, mortar := fld w1 31 0, profile := p }
      else none
    | _, _, _ => none

/-! ## Arming and disarming -/

/-- The steps of the halves keep a domain that spans the seam from being armed (R306). -/
def State.spanBlocked (s : State) (d : Nat) : Bool :=
  s.spans d && (s.get Reg.CLK_STEP_CUR.STEP_W ≠ s.get Reg.CLK_STEP_CUR.STEP_E
    || (s.get Reg.CLK_STEP_PLAN.PENDING = 1 && s.get Reg.CLK_STEP_PLAN.NEXT_W ≠ s.get Reg.CLK_STEP_PLAN.NEXT_E))

/-- A member keeps its domain from being armed (R365, R417, R430, R445, R505). -/
def State.memberBlocks (s : State) (p : Nat) : Bool :=
  !s.used p || !s.partSealed p || !bitOf (s.get Reg.UBN_PART_LINKS_OK.READY) p
    || s.get (Reg.MOR_SWAP_STATUS.BUSY p) = 1 || s.get (Reg.MOR_SWAP_STATUS.ERROR p) = 1
    || s.mgmt.groutCopy.any fun c => partOf c.1 = p

/-- The start course of a domain (R22). -/
def State.startCourse (s : State) (d : Nat) : Nat :=
  s.get2 (Reg.SEQ_START_COURSE_LO.START_COURSE d) (Reg.SEQ_START_COURSE_HI.START_COURSE d)

/-- Arming is refused (R22, R206, R365, R417, R430, R445, R505). -/
def State.armRefused (s : State) (d : Nat) : Bool :=
  decide (s.startCourse d ≤ s.courseNum) || !s.tickEn || s.armed d || s.halted d || (s.members d).isEmpty
    || (s.members d).any fun p => s.memberBlocks p

/-- Arm a domain (R22, R27, R184, R475). -/
def State.armNow (s : State) (d : Nat) (h : Header) : State :=
  let s := s.put (Reg.SEQ_COURSE_STATUS.ARMED d) 1
  let s := s.put (Reg.SEQ_COURSE_STATUS.LAG d) 0
  let s := s.put (Reg.SEQ_NEXT_ENTRY.ENTRY d) (s.get (Reg.SEQ_ENTRY.ENTRY d))
  let s := s.put2 (Reg.SEQ_FREEZE_TOTAL_LO.CYCLES d) (Reg.SEQ_FREEZE_TOTAL_HI.CYCLES d) 0
  let k := s.startCourse d
  let frozen := s.freezeSoFar d (s.wallNow d)
  s.modDom d fun x => { x with
    preArm := frozen
    start := k
    course := if s.running d then x.course else (k + 2 ^ 48 - 1) % 2 ^ 48
    followEntry := true
    episode := false
    launch := none
    profile := some h.profile }

/-- ARM of a domain that the write addresses (R22, R27, R306). -/
def State.armDomain (s : State) (d : Nat) (withDisarm : Bool) : State :=
  let refuse (s : State) : State := s.put (Reg.SEQ_COURSE_STATUS.ARM_REFUSED d) 1
  let s' := if withDisarm && s.armed d then s.disarmNow d else s
  if s.spanBlocked d then refuse ((s'.logEvent { code := 0xC2, effect := 1, part := d }).put Reg.CLK_STEP_STATUS.REFUSED_SPAN 1)
  else if withDisarm || s.armRefused d then refuse s'
  else match s.headerAt d (s.get (Reg.SEQ_ENTRY.ENTRY d)) with
    | none => (s.logOnce { code := 0xC5, effect := 2, part := d }).put (Reg.SEQ_COURSE_STATUS.HEADER_INVALID d) 1
    | some h => s.armNow d h

/-- A write of 1 to ARM (R21, R22), with DISARM in the same write or without. A partition that is not used refuses. -/
def State.armWrite (s : State) (w : Who) (p : Nat) (withDisarm : Bool) : State :=
  s.gated w (Reg.SEQ_COURSE_CTRL.addr p) .wo fun s => if s.leadOf p = p then s.armDomain p withDisarm else s

/-- ARM. -/
def execArm (w : Who) (p : Nat) (withDisarm : Bool) (s : State) : Host.Outcome State Fault Refusal :=
  s.answerCtl (s.posting w (.reg (Reg.window p 0x404) (if withDisarm then 3 else 1)) fun s => s.armWrite w p withDisarm)

/-- A write of 1 to DISARM (R21, R23): a running course still runs to its ENDC. -/
def State.disarmWrite (s : State) (w : Who) (p : Nat) : State :=
  s.gated w (Reg.SEQ_COURSE_CTRL.addr p) .wo fun s => if s.leadOf p = p ∧ s.armed p then s.disarmNow p else s

/-- DISARM. -/
def execDisarm (w : Who) (p : Nat) (s : State) : Host.Outcome State Fault Refusal :=
  s.answerCtl (s.posting w (.reg (Reg.window p 0x404) 2) fun s => s.disarmWrite w p)

/-! ## Course start (R25 to R28, R43, R184, R265) -/

/-- What must come before schedule cycle 0: the boundary windows, the serving boundary, a planned step change. -/
def State.boundaryDone (s : State) (d : Nat) : Bool :=
  !s.stepWaits && (s.members d).all fun p => decide ((s.pendAt p).window = 0) && (s.srvAt p).boundary.isNone

/-- The course budget at the step in force (R28). -/
def State.budget (s : State) (d : Nat) : Nat := (s.period - 4) * s.rate d / 10

/-- Eighths of a cycle that a stretch adds to each cycle (R308). -/
def State.stretchDepth (s : State) : Nat := 2 ^ s.get Reg.CLK_STRETCH_CFG.DEPTH

/-- A region other than the lead's that is at schedule cycle `c` at a time begins to lag behind, stretched since `since` (R296,
R297, R309): `leaf` says that no neighbour uses its entries. -/
def State.lagFrom (s : State) (ash c t since : Nat) (leaf : Bool) : Lag :=
  { ash, slack := if leaf then Config.headroom else Config.guard, cRef := c, tRef := t, parts := [(since, none, s.stretchDepth)] }

/-- The stretches under way as a course of a domain starts in wall cycle `w`: of the lead's region, which began when they did, and
of the others, which the start realigns (R25, R309). -/
def Dom.slowAt (x : Dom) (w : Nat) : List (Nat × Option Nat × Nat) :=
  x.slow.filter fun v => match v.2.1 with | some b => decide (w < b) | none => true
def State.lagsAt (s : State) (d w : Nat) : List Lag :=
  (s.clk.stretching.filter fun a => s.domOf a.1 = d && decide (a.1 ≠ ashOf d 0)).map fun a =>
    s.lagFrom a.1 0 ((s.dom d).timeOf w) a.2.2 a.2.1

/-- The sequencer's state at schedule cycle 0 (R184), in wall cycle `w`; the profile is read again if the window has moved the entry (R475). -/
def Dom.begin (x : Dom) (g k tickG entry : Nat) (h : Header) (late moved : Bool) (w : Nat)
    (lags : List Lag) : Dom :=
  { aq := [], vq := [], tq := [], ovq := [], ovLoad := none, due := [], sums := [], smps := [], emits := []
    start := 0, lastRun := x.lastRun, startG := g, tickG, course := k, sched := h.sched, pc := entry
    wall := w, baseW := w, baseG := g, baseT := x.timeOf w, slow := x.slowAt w, lags, undef := x.undef, relT := x.relT
    late, episode := late && x.episode, followEntry := x.followEntry, profile := if moved then some h.profile else x.profile }

/-- A course starts (R25, R27, R28, R43, R44, R184, R265). -/
def State.beginCourse (s : State) (d g k tickG : Nat) : State :=
  let before := s.get (Reg.SEQ_NEXT_ENTRY.ENTRY d)
  let s := if (s.dom d).followEntry then s.put (Reg.SEQ_NEXT_ENTRY.ENTRY d) (s.get (Reg.SEQ_ENTRY.ENTRY d)) else s
  let entry := s.get (Reg.SEQ_NEXT_ENTRY.ENTRY d)
  match s.headerAt d entry with
  | none =>
    ((s.logOnce { code := 0xC5, effect := 2, part := d }).put (Reg.SEQ_COURSE_STATUS.HEADER_INVALID d) 1).disarmNow d
  | some h =>
    let s := s.atLeast g
    let late := decide (g ≠ tickG + 4)
    let s := if late then
        (s.inc (Reg.SEQ_LATE_COUNT.COUNT d)).put (Reg.SEQ_COURSE_STATUS.LAG d) (s.get (Reg.SEQ_COURSE_STATUS.LAG d) - 1)
      else s
    let s := if s.budget d < h.sched + h.mortar then
        (s.put (Reg.SEQ_COURSE_STATUS.MORTAR_SHORT d) 1).inc (Reg.SEQ_MORTAR_SHORT_COUNT.COUNT d)
      else s
    let w := max (s.dom d).wall (s.wallAt d g)
    let s := s.modDom d fun x => x.begin g k tickG entry h late (decide (entry ≠ before)) w (s.lagsAt d w)
    let s := forAll (s.domAsh d) (fun s a => s.dropStage a 7) s
    (s.hazClear d).put (Reg.SEQ_COURSE_STATUS.RUNNING d) 1

/-- COURSE_START: the domain's launch moment has come. -/
def State.courseStartOp (s : State) (d : Nat) : State :=
  match (s.dom d).launch with
  | some (g, k, tickG) =>
    if s.armed d && !s.running d && !s.halted d && s.boundaryDone d then s.beginCourse d g k tickG else s
  | none => s

/-- COURSE_START. -/
def execCourseStart (d : Nat) (s : State) : Host.Outcome State Fault Refusal := s.answer (s.courseStartOp d)

/-! ## Course end (R29, R42, R44, R48, R186, R187, R475) -/

/-- Everything ENDC waits for has happened by the cycle it would retire in (R187). -/
def Dom.endDrained (x : Dom) : Bool :=
  x.aq.isEmpty && x.vq.isEmpty && x.tq.isEmpty && x.ovq.isEmpty && x.ovLoad.isNone && x.sums.isEmpty && x.smps.isEmpty
    && x.emits.isEmpty && decide (x.aEnd ≤ x.cyc) && decide (x.vEnd ≤ x.cyc) && decide (x.tEnd ≤ x.cyc)
    && (x.busy.all fun b => decide (b.2 ≤ x.cyc))
    && (x.due.all fun a => match a.2 with | .sticky .. => true | _ => false)

/-- Everything of the domain that can happen in its next cycle has its turn before ENDC. -/
def State.atRest (s : State) (d : Nat) : Bool :=
  decide (d < 12) && s.running d && !s.halted d && !(s.dom d).undef && (s.dom d).retire.isSome && !s.frozen d && !s.workDue d
    && !s.arrivals d (s.dom d).wall && !s.replayHolds d

/-- The counters of a course that ends (R38, R48). -/
def State.lastCounters (s : State) (d endG : Nat) : State :=
  let x := s.dom d
  let s := s.put2 (Reg.SEQ_LAST_COURSE_LO.COURSE d) (Reg.SEQ_LAST_COURSE_HI.COURSE d) x.course
  let s := s.put (Reg.SEQ_LAST_SCHED.CYCLES d) (x.cyc + 1)
  let s := s.put (Reg.SEQ_LAST_FREEZE.CYCLES d) (x.fWait + x.fCross + x.fMor + x.fLink + x.fThr)
  let s := s.put (Reg.SEQ_LAST_FRZ_WAIT.CYCLES d) x.fWait
  let s := s.put (Reg.SEQ_LAST_FRZ_CROSS.CYCLES d) x.fCross
  let s := s.put (Reg.SEQ_LAST_FRZ_MORAINE.CYCLES d) x.fMor
  let s := s.put (Reg.SEQ_LAST_FRZ_LINK.CYCLES d) x.fLink
  let s := s.put (Reg.SEQ_LAST_FRZ_THROTTLE.CYCLES d) x.fThr
  let s := s.put (Reg.SEQ_LAST_END.COUNTS d) (endG - x.tickG)
  let s := s.put (Reg.SEQ_LAST_START_SLIP.COUNTS d) (x.startG - (x.tickG + 4))
  let head : Int := (s.period : Int) - ((endG - x.tickG : Nat) : Int)
  let low := min head (signedOf 32 (s.get (Reg.SEQ_MIN_HEADROOM.COUNTS d)))
  s.put (Reg.SEQ_MIN_HEADROOM.COUNTS d) (wrapInt 32 low)

/-- The COURSE entries of the record (R510, R512). -/
def State.recCourse (s : State) (d endG : Nat) : State :=
  if s.get Reg.DBG_CTRL.COURSE_EN = 1 then
    let x := s.dom d
    let two (a b : Nat) : Nat := a % 2 ^ 32 + (b % 2 ^ 32) <<< 32
    let fz := x.fWait + x.fCross + x.fMor + x.fLink + x.fThr
    forAll (s.members d) (fun s p =>
      if bitOf (s.get Reg.REC_CTRL.PARTS) p then
        s.recEnt { kind := 0, part := p, ctx := 0, course := x.course, schedAt := x.cyc, pre := false, boundary := false,
                   body := [two (x.cyc + 1) fz, two x.fWait x.fCross, two x.fMor x.fLink, two x.fThr (endG - x.tickG),
                            two (x.startG - (x.tickG + 4)) (s.heldRecords p)], payload := [] }
      else s) s
  else s

/-- The end of a course decides what follows (R43, R186): the next entry, and the launch of a course that is owed. -/
def State.afterCourse (s : State) (d endG : Nat) : State :=
  let x := s.dom d
  let next := x.retire.join
  let s := s.put (Reg.SEQ_NEXT_ENTRY.ENTRY d) (match next with | some a => a | none => s.get (Reg.SEQ_ENTRY.ENTRY d))
  let s := s.put (Reg.SEQ_COURSE_STATUS.RUNNING d) 0
  let k := max x.start ((x.course + 1) % 2 ^ 48)
  let owed := s.armed d && decide (0 < s.get (Reg.SEQ_COURSE_STATUS.LAG d))
  let p := s.headerAt d (s.get (Reg.SEQ_NEXT_ENTRY.ENTRY d))
  let s := s.modDom d fun x => { x with
    loops := []
    call := none
    retire := none
    frz := []
    followEntry := next.isNone
    launch := if owed then some (endG + 4, k, s.tickTime k) else none
    profile := if s.armed d then (match p with | some h => some h.profile | none => x.profile) else none }
  let s := forAll (s.members d) (fun s p =>
    let s := if owed then s.setPend p { s.pendAt p with window := (s.pendAt p).queue.length, addC := [], addS := [] } else s
    if owed || !(s.srvAt p).ticks.isEmpty then s.modSrv p fun e => e.nextBoundary (if owed then [k] else []) else s) s
  if (s.dom d).resetDue then s.resetDomain d else s

/-- ENDC retires in this cycle (R29, R42, R44, R48). -/
def State.retireNow (s : State) (d endG : Nat) : State :=
  let x := s.dom d
  let late := s.lateNow d
  let overran := decide (x.course ≠ s.courseNum)
  let s := s.atLeast endG
  let s := s.lastCounters d endG
  let s := s.recCourse d endG
  let s := if x.cyc + 1 = x.sched then s else s.put (Reg.SEQ_COURSE_STATUS.SCHED_MISMATCH d) 1
  let s := if overran then (s.put (Reg.SEQ_COURSE_STATUS.OVERRUN d) 1).inc (Reg.SEQ_OVERRUN_COUNT.COUNT d) else s
  let s := s.releaseDom d late
  let s := s.modFab fun f => { f with stks := f.stks.map fun k => if s.domOf k.ash = d then { k with deadline := none } else k }
  s.afterCourse d endG

/-- ENDC retires, or waits one schedule cycle more (R187). A tick that comes before the end of the cycle is taken first. -/
def State.endcRetireOp (s : State) (d : Nat) : State :=
  if s.atRest d then
    let x := s.dom d
    if x.endDrained then
      let endG := s.glacierOf d (x.wall + 1)
      if s.ticking && decide (s.nextTick < endG) then s else s.retireNow d endG
    else s.pass d 1
  else s

/-- ENDC_RETIRE. -/
def execEndcRetire (d : Nat) (s : State) : Host.Outcome State Fault Refusal := s.answer (s.endcRetireOp d)

/-! ## The freeze (R33 to R40) -/

/-- Issue resumes at wall cycle `w` (R35, R38, R298). -/
def State.thaw (s : State) (d w : Nat) : State :=
  let n := w - (s.dom d).wall
  let s := s.countFreeze d n
  (s.modDom d fun x => { x with
    freezeLogged := false
    frz := x.frz.filter fun f => decide (x.cyc < f.eff)
    lags := x.catchUp.lags
    thaws := (x.cyc, n) :: x.thaws.filter fun t => decide (x.cyc < t.1 + Config.H) }).syncTime d

/-- FREEZE_END: the last outstanding cause has cleared. -/
def State.freezeEndOp (s : State) (d : Nat) : State :=
  if s.frozen d && !s.halted d then
    match (s.dom d).resume with
    | some w => if s.arrivals d w then s else s.thaw d w
    | none => s
  else s

/-- FREEZE_END. -/
def execFreezeEnd (d : Nat) (s : State) : Host.Outcome State Fault Refusal := s.answerCtl (s.freezeEndOp d)

/-- A freeze has lasted longer than SEQ_FREEZE_LIMIT (R40). -/
def State.freezeLimitOp (s : State) (d : Nat) : State :=
  let lim := s.get (Reg.SEQ_FREEZE_LIMIT.LIMIT d)
  let x := s.dom d
  let g := s.glacierOf d x.wall + lim + 1
  let past := match x.resume with | some w => decide (g ≤ s.glacierOf d w) | none => true
  if s.frozen d && !s.halted d && decide (lim ≠ 0) && !x.freezeLogged && past then
    let s := s.atLeast g
    (((s.logOnce { code := 0xC4, effect := 1, part := d, cycle := x.cyc, detail := lim }).put
      (Reg.SEQ_COURSE_STATUS.FREEZE_LIMIT d) 1).modDom d fun x => { x with freezeLogged := true }).freezePolicy d
  else s

/-- FREEZE_LIMIT_EXCEEDED. -/
def execFreezeLimitExceeded (d : Nat) (s : State) : Host.Outcome State Fault Refusal := s.answerCtl (s.freezeLimitOp d)

end Sys2Proof.Machine
end

