-- ==== Sys2Proof/Machine/Clock.lean ====
section
/-! DEFINITION. Steps, plumb calibration, stretch and the time base (R299 to R317). -/

namespace Sys2Proof.Machine

/-! ## Frequency steps (R302 to R307, R310, R311) -/

/-- A write of CLK_STEP_PLAN (R303, R305). -/
def State.stepRequestOp (s : State) (w : Who) (v : Word) : State :=
  s.gated w Reg.CLK_STEP_PLAN.addr .rw fun s =>
    let s := s.storeReg w Reg.CLK_STEP_PLAN.addr v
    if bitOf v.toNat 8 then s.submitStep else s

/-- STEP_REQUEST. -/
def execStepRequest (w : Who) (v : Word) (s : State) : Host.Outcome State Fault Refusal :=
  s.answerCtl (s.posting w (.reg Reg.CLK_STEP_PLAN.addr v) fun s => s.stepRequestOp w v)

/-- The wall cycles of a domain are counted on from glacier count `g` (R307). -/
def State.rebaseStep (s : State) (d g : Nat) : State :=
  let w := s.wallAt d g
  s.modDom d fun x => { x with
    baseG := g
    baseW := w
    baseT := x.timeOf w
    slow := x.slowAt w }

/-- Crossing entries of ashlars come late by the cycles given: a late-crossing cause of their domains is due now (R296, R301,
R307). -/
def State.lateEntries (s : State) (late : List (Nat × Nat)) : State :=
  forAll late (fun s v =>
    let d := s.domOf v.1
    let w := s.wallNow d
    s.addFrz d { kind := .cross, ref := .stretch, due := w, eff := s.cycleAt d w + Config.H, clr := some (w + v.2) }) s

/-- Both halves take the planned step at glacier count `g`; in courses that run, it makes the crossing entries of the ashlars
given late (R304, R307, R311). -/
def State.applyStep (s : State) (g : Nat) (late : List (Nat × Nat)) : State :=
  let w := s.get Reg.CLK_STEP_PLAN.NEXT_W
  let e := s.get Reg.CLK_STEP_PLAN.NEXT_E
  let mid := (List.range 12).any s.running
  let s := forAll (List.range 12) (fun s d => s.rebaseStep d g) (s.atLeast g)
  let s := (s.put Reg.CLK_STEP_CUR.STEP_W w).put Reg.CLK_STEP_CUR.STEP_E e
  let s := s.put Reg.CLK_STEP_CUR.MISMATCHED (if w = e then 0 else 1)
  let s := s.put Reg.CLK_BRIDGE_STATUS.RATE_ADAPTED (if w = e then 0 else 1)
  let s := if mid then s.put Reg.CLK_STEP_STATUS.MID_COURSE 1 else s
  let s := s.lateEntries late
  { (s.put Reg.CLK_STEP_STATUS.APPLIED 1).put Reg.CLK_STEP_PLAN.PENDING 0 with clk := { s.clk with stepDue := none } }

/-- The accepted request takes effect when its moment has come (R304). -/
def State.stepChangeOp (s : State) (late : List (Nat × Nat)) : State :=
  if s.get Reg.CLK_STEP_PLAN.PENDING = 1 then
    match s.clk.stepDue with
    | some g => s.applyStep g late
    | none =>
      if s.stepWaits then s.applyStep (s.get2 Reg.CLK_COURSE_START_LO.START Reg.CLK_COURSE_START_HI.START) late else s
  else s

/-- STEP_CHANGE_APPLY: `late` names ashlars whose crossing entries the switch makes late, and by how many cycles (R307). -/
def execStepChangeApply (s : State) (late : List (Nat × Nat) := []) : Host.Outcome State Fault Refusal := s.answerCtl (s.stepChangeOp late)

/-! ## Plumb calibration (R299 to R301) -/

/-- The boot stage that MGT_BOOT_STATUS reports while stages 2 to 5 run (R458). -/
def State.bootStage (s : State) : Nat :=
  if !s.mgmt.dieDone then 2 else if !s.mgmt.calDone then 3 else if s.mgmt.verDone.isNone then 4 else 5

/-- STAGE moves on while the module boots (R458). -/
def State.moveStage (s : State) : State :=
  let g := s.get Reg.MGT_BOOT_STATUS.STAGE
  if 1 ≤ g ∧ g ≤ 5 then s.put Reg.MGT_BOOT_STATUS.STAGE s.bootStage else s

/-- Calibration ends: `avail` are the steps every crossing meets, `margin` the smallest margin in ps, `failed` the crossings that
fail at step 0 (two ashlars, that on whose account it fails first: Boluk records it as dead, R506), `bridge` a crevasse bridge
among them. -/
def State.calibrateOp (s : State) (avail margin : Nat) (failed : List (Nat × Nat)) (bridge : Bool) : State :=
  if s.mgmt.dieDone && !s.mgmt.calDone then
    let parts := if bridge then List.range 12 else (failed.flatMap fun f => [partOf f.1, partOf f.2]).eraseDups
    let dead := (failed.map (·.1)).eraseDups
    let s := s.put Reg.CLK_STEP_AVAIL.AVAIL (avail % 2 ^ (s.fuses.maxStep + 1))
    let s := s.put Reg.CLK_PLUMB_STATUS.CAL_MARGIN margin
    let s := s.put Reg.CLK_PLUMB_MARGIN.MIN_MARGIN (min margin (s.get Reg.CLK_PLUMB_MARGIN.MIN_MARGIN))
    let s := if parts.isEmpty && bitOf avail 0 then s
      else (s.put Reg.CLK_PLUMB_STATUS.FAILED 1).logOnce { code := 0xC7, effect := 2, detail := margin }
    let s := s.put Reg.CLK_PLUMB_STATUS.DONE 1
    { s with mgmt := { s.mgmt with
      calDone := true
      disabled := (s.mgmt.disabled ++ parts).eraseDups
      flash := { s.mgmt.flash with repair := (s.mgmt.flash.repair ++ dead.map s.physPlace).eraseDups } } }.moveStage
  else s

/-- PLUMB_CALIBRATION. -/
def execPlumbCalibration (avail margin : Nat) (failed : List (Nat × Nat)) (bridge : Bool) (s : State) :
    Host.Outcome State Fault Refusal := s.answerCtl (s.calibrateOp avail margin failed bridge)

/-! ## Stretch (R308, R309) -/

/-- A stretch begins (R39, R309): the lead's wall cycles take longer, or in a running domain a region comes to lag. One that lags
already goes on from there. -/
def State.beginStretch (s : State) (ash since : Nat) (leaf : Bool) : State :=
  let d := s.domOf ash
  let x := s.dom d
  if ash = ashOf d 0 then s.modDom d fun x => { x with slow := x.slow ++ [(s.wallNow d, none, s.stretchDepth)] }
  else if !s.running d then s
  else
    let new := match x.lags.find? fun l => l.ash = ash with
      | some l => { l with parts := l.parts ++ [(since, none, s.stretchDepth)] }
      | none => s.lagFrom ash x.cyc (x.timeOf x.wall) since leaf
    s.modDom d fun x => { x with lags := (x.lags.filter fun l => l.ash ≠ ash) ++ [new] }

/-- A supply droop of `mv` below nominal makes an ashlar stretch (R308). -/
def State.droopOp (s : State) (ash mv : Nat) (leaf : Bool) : State :=
  let since := (s.dom (s.domOf ash)).timeOf (s.wallNow (s.domOf ash))
  if s.get Reg.CLK_STRETCH_CFG.DROOP < mv ∧ (s.clk.stretching.any fun a => a.1 = ash) = false then
    State.beginStretch
      { s.inc (Reg.TEL_DROOP.EVENTS ash) with clk := { s.clk with stretching := (ash, leaf, since) :: s.clk.stretching } } ash since leaf
  else s

/-- DROOP_STRETCH: `leaf` says that no neighbour uses the ashlar's crossing entries (R297). -/
def execDroopStretch (ash mv : Nat) (s : State) (leaf : Bool := false) : Host.Outcome State Fault Refusal := s.answerCtl (s.droopOp ash mv leaf)

/-- A stretch of `cycles` cycles has ended in its domain: in the wall cycles of the lead's region, or in the time it took
another. -/
def State.finishStretch (s : State) (ash cycles : Nat) : State :=
  s.modDom (s.domOf ash) fun x =>
    if ash = ashOf (s.domOf ash) 0 then
      { x with slow := x.slow.map fun v => if v.2.1.isNone then (v.1, some (v.1 + cycles), v.2.2) else v }
    else { x with lags := x.lags.map fun l =>
      if l.ash = ash then
        { l with parts := l.parts.map fun v => if v.2.1.isNone then (v.1, some (v.1 + cycles * (8 + v.2.2)), v.2.2) else v }
      else l }

/-- A stretch of `cycles` cycles ends: not before MIN_CYCLES. -/
def State.stretchEndOp (s : State) (ash cycles : Nat) : State :=
  if (s.clk.stretching.any fun a => a.1 = ash) ∧ s.get Reg.CLK_STRETCH_CFG.MIN_CYCLES ≤ cycles then
    let s := s.inc (Reg.TEL_STRETCH.CYCLES ash) cycles
    State.finishStretch { s with clk := { s.clk with stretching := s.clk.stretching.filter fun a => a.1 ≠ ash } } ash cycles
  else s

/-- STRETCH_END. -/
def execStretchEnd (ash cycles : Nat) (s : State) : Host.Outcome State Fault Refusal := s.answerCtl (s.stretchEndOp ash cycles)

/-! ## The time base (R312 to R317) -/

/-- A holdover ends: its length stays readable. -/
def State.holdoverEnds (s : State) : State :=
  match s.clk.lostAt with
  | some g => { s.put Reg.CLK_HOLDOVER_TIME.TIME (((s.now : Int) - g) / 1000).toNat with clk := { s.clk with lostAt := none } }
  | none => s

/-- FREE changes MODE nowhere but here: it keeps FREE_RUN and HOLDOVER from becoming LOCKED, and leaves LOCKED and HOLDOVER as
they are (log entry 115, DESIGN CHOICE). The reference qualifies; `phase` is the counter's distance to the nearest 160 ns boundary
of the reference, in 1/16 count (R313, R316). -/
def State.refQualifiedOp (s : State) (phase : Int) : State :=
  let s := s.put Reg.CLK_TIME_STATUS.REF_OK 1
  if s.get Reg.CLK_TIME_CTRL.FREE = 1 then s
  else if s.get Reg.CLK_TIME_STATUS.MODE = 1 then
    if s.tickEn && decide (phase ≠ 0) then
      { (s.put Reg.CLK_TIME_STATUS.SLEWING 1).put Reg.CLK_TIME_STATUS.PHASE_ERR (wrapInt 16 phase) with
        clk := { s.clk with slewAt := s.now } }
    else
      let s := s.holdoverEnds.put Reg.CLK_TIME_STATUS.PHASE_ERR 0
      { s.put Reg.CLK_TIME_STATUS.MODE 0 with clk := { s.clk with glacier := wrapInt 64 ((s.now : Int) + (phase + 8) / 16) } }
  else s.put Reg.CLK_TIME_STATUS.MODE 0

/-- REF_QUALIFIED. -/
def execRefQualified (phase16 : Int) (s : State) : Host.Outcome State Fault Refusal := s.answerCtl (s.refQualifiedOp phase16)

/-- The reference is lost (R314). -/
def State.refLostOp (s : State) : State :=
  let m := s.get Reg.CLK_TIME_STATUS.MODE
  let s := ((s.put Reg.CLK_TIME_STATUS.REF_OK 0).put Reg.CLK_TIME_STATUS.SLEWING 0).put Reg.CLK_TIME_STATUS.PHASE_ERR 0
  if m = 0 then
    let s := (s.put Reg.CLK_TIME_STATUS.MODE 1).put Reg.CLK_TIME_STATUS.REF_LOST 1
    let s := (s.inc Reg.CLK_REF_LOSS_COUNT.COUNT).logEvent { code := 0xC0, effect := 1 }
    { s with clk := { s.clk with lostAt := some s.now, holdLogged := false } }
  else s

/-- REFERENCE_LOST. -/
def execReferenceLost (s : State) : Host.Outcome State Fault Refusal := s.answerCtl s.refLostOp

/-- A holdover has reached its limit (R315). -/
def State.holdoverLimitOp (s : State) : State :=
  let lim := s.get Reg.CLK_HOLDOVER_LIMIT.LIMIT
  match s.clk.lostAt with
  | none => s
  | some g =>
    if s.get Reg.CLK_TIME_STATUS.MODE = 1 ∧ lim ≠ 0 ∧ s.clk.holdLogged = false then
      let s := (s.atLeast (g + lim * 1000).toNat).logOnce { code := 0xC8, effect := 1, detail := lim }
      { s.put Reg.CLK_TIME_STATUS.HOLDOVER_EXPIRED 1 with clk := { s.clk with holdLogged := true } }
    else s

/-- HOLDOVER_LIMIT_EXCEEDED. -/
def execHoldoverLimitExceeded (s : State) : Host.Outcome State Fault Refusal := s.answerCtl s.holdoverLimitOp

/-- The phase error has come to zero (R316). -/
def State.slewEndOp (s : State) : State :=
  if s.get Reg.CLK_TIME_STATUS.SLEWING = 1 then
    ((s.holdoverEnds.put Reg.CLK_TIME_STATUS.SLEWING 0).put Reg.CLK_TIME_STATUS.PHASE_ERR 0).put Reg.CLK_TIME_STATUS.MODE 0
  else s

/-- PHASE_SLEW_END. -/
def execPhaseSlewEnd (s : State) : Host.Outcome State Fault Refusal := s.answerCtl s.slewEndOp

/-- A write of CLK_GLACIER_HI loads the counter with it and the latest CLK_GLACIER_LO, at the next count (R317). -/
def State.glacierWriteOp (s : State) (w : Who) (v : Word) : State :=
  s.gated w Reg.CLK_GLACIER_HI.addr .rw fun s =>
    if s.tickEn then s.put Reg.CLK_TIME_STATUS.SET_REJECT 1
    else { s with clk := { s.clk with load := some (s.clk.glacierLo.toNat + v.toNat <<< 32) } }

/-- CLK_GLACIER_WRITE. -/
def execClkGlacierWrite (w : Who) (v : Word) (s : State) : Host.Outcome State Fault Refusal :=
  s.answerCtl (s.posting w (.reg Reg.CLK_GLACIER_HI.addr v) fun s => s.glacierWriteOp w v)

end Sys2Proof.Machine
end

