-- ==== Sys2Proof/Machine/Landing.lean ====
section
/-! DEFINITION. What arrives: granules, control messages, GET requests, COMPLETIONs and moraine rows (R63 to R66, R74, R228,
R231 to R234, R291, R338, R340, R341, R410, R413). `at_` is the wall cycle of the arrival in the domain that owns the
ashlar. -/

namespace Sys2Proof.Machine

/-! ## Granules -/

/-- The source of a packet that has landed or has been discarded learns its STATUS (R340). -/
def State.landDone (s : State) (g : Gran) (status at_ : Nat) : State :=
  match g.src with
  | .mesh id =>
    match s.fab.ents.find? fun e => e.pkt = id && !e.stk with
    | some e => s.complTo e.ash e.idx status s.moduleId id (at_ + ashLat g.ash e.ash)
    | none => s
  | .leaf id srcAsh _ =>
    match s.fab.ents.find? fun e => e.pkt = id && !e.stk with
    | some e => s.mcGather s.moduleId srcAsh e.idx status at_
    | none => s
  | .reply _ srcAsh entry => s.complTo srcAsh entry status s.moduleId g.pkt (at_ + ashLat g.ash srcAsh)
  | .ubn srcMod srcAsh entry _ _ slot =>
    if slot then
      let s := s.put Reg.UBN_POOL_STATUS.IN_USE (s.get Reg.UBN_POOL_STATUS.IN_USE - 1)
      s.sendCompl (some g.ash) srcMod srcAsh entry status at_
    else s.mcGather srcMod srcAsh entry status at_
  | _ => s

/-- A packet's granules that have not landed are discarded with the packet, with STATUS 1 or 2 (R74, R291, R340, R351). -/
def State.dropLanding (s : State) (g : Gran) (status : Nat) : State :=
  let mine (x : Gran) : Bool := x.ash = g.ash && x.pkt = g.pkt
  let n (a : Nat) : Nat := (s.fab.held.filter fun h => mine h.2.1 && h.1 = a).length
  let s := forAll ((s.fab.held.map (·.1)).eraseDups) (fun s a => s.slotMoved a (-(n a : Int)))
    (s.modFab fun f => { f with
      land := f.land.filter fun x => !mine x
      held := f.held.filter fun h => !mine h.2.1
      gone := if f.leafIn.contains g.pkt then (g.pkt, status) :: f.gone else f.gone })
  let note (s : State) : State :=
    if status = 1 then s.put Reg.UBN_STATUS.UNREACHABLE 1 else s.put Reg.UBN_STATUS.UNRECOVERED 1
  match g.src with
  | .ubn _ _ _ port grp slot => if slot then (note s).ubnInfo port s.moduleId false else (note s).ubnInfo port grp true
  | .mesh _ => note s
  | .leaf _ _ grp => (note s).ubnInfo 0 grp true
  | .reply .. => note s
  | _ => s

/-- A landing that the record keeps (R512): an RDMA landing, or a packet from a module outside REC_INTERNAL. -/
def State.recLanding (s : State) (g : Gran) : State :=
  let far (m : Nat) : Bool := decide (m < s.get Reg.REC_INTERNAL.MIN) || decide (s.get Reg.REC_INTERNAL.MAX < m)
  let go (m : Nat) : State :=
    s.recEvent 8 (partOf g.ash) 0 false
      [g.start % 2 ^ 25 + g.ash <<< 25 + g.cairn <<< 35 + g.inc <<< 41 + m <<< 48]
      (s.rdBytes g.ash g.start (g.addr + 64 - g.start))
  match g.src with
  | .eth m => go m
  | .ubn m .. => if far m then go m else s
  | .relay m => if far m && decide (m ≠ s.moduleId) then go m else s
  | _ => s

/-- Word 0 of the header of the packet that a granule belongs to (R489). -/
def State.granWord0 (s : State) (g : Gran) : Nat :=
  let ofEnt (id : Nat) : Nat := match s.fab.ents.find? fun e => e.pkt = id && !e.stk with | some e => e.word0 | none => 0
  match g.src with
  | .mesh id => ofEnt id
  | .leaf id .. => ofEnt id
  | .reply id .. => ofEnt id
  | _ => g.word0

/-- The granule that a slice writes next lands in bank cycle `at_` (R63, R66, R74, R291): `err` is 2 where a router found a
double-bit error in it; routers have corrected `ce` single-bit errors in its words. -/
def State.granuleOp (s : State) (ash slice at_ err ce : Nat) : State :=
  match s.nextGran ash slice with
  | none => s
  | some g =>
    if !s.canLand g at_ then s
    else
      let d := s.domOf ash
      let p := partOf ash
      let i := idxOf ash
      let detail := detailAsh ash g.addr slice
      let port := match g.src with | .ubn m _ _ p .. => detailPort p m false | _ => 0
      let s := (s.reachWall d at_).inc Reg.TILE_MESH_CE_COUNT.COUNT ce
      if err = 2 then
        let s := (s.dropLanding g 2).landDone g 2 (at_ + 1)
        let s := if s.get Reg.TILE_MESH_UE_INFO.VALID = 1 then s
          else s.ww Reg.TILE_MESH_UE_INFO.addr (BitVec.ofNat 32 (ash + 1 <<< 31))
        s.halt d { code := 0x64, source := 2, part := p, ash := i, detail := port, detail2 := s.granWord0 g }
      else if s.resetting p then (s.dropLanding g 1).landDone g 1 (at_ + 1)
      else if s.sliceReady ash slice = false then
        let s := ((s.dropLanding g 1).landDone g 1 (at_ + 1)).put (Reg.TILE_STATUS.PWR_ACCESS p i) 1
        s.halt d { code := 0x21, source := 2, part := p, ash := i, detail := detail }
      else
        let s := (s.modFab fun f => { f with land := f.land.erase g }).noteLanding ash g.addr at_
        let s := ((s.wrBank ash g.addr at_ g.data).freeHeld at_ 2).clearRoom
        let last := if g.src = .serving then !(s.fab.land.any fun x => x.ash = ash && x.pkt = g.pkt) else g.final
        let s := (s.hazLand g last).landLook ash g.addr none
        if last then
          let s := s.recLanding g
          let s := if g.inc = 0 then s else s.cairnAdd ash g.cairn g.inc (at_ + 1)
          s.landDone g 0 (at_ + 1)
        else s

/-- GRANULE_LAND: `err` is 0 for a granule without an error left, 2 for one with an uncorrectable mesh error; `ce` counts the
words that routers on its way have corrected. -/
def execGranuleLand (ash slice at_ err : Nat) (s : State) (ce : Nat := 0) : Host.Outcome State Fault Refusal :=
  s.answer (s.granuleOp ash slice at_ err ce)

/-! ## Control messages -/

/-- A post reaches its semaphore in wall cycle `at_`, from a remote SEMP or a completed transfer (R71, R231, R234). The cycle
before has passed in the domain, and the instruction of this one has not issued. -/
def State.sempArriveOp (s : State) (i at_ : Nat) : State :=
  match s.fab.semps[i]? with
  | none => s
  | some m =>
    if at_ < m.ready || !s.turn (s.domOf m.ash) (at_ - 1) then s
    else ((s.modFab fun f => { f with semps := dropAt f.semps i }).reachWall (s.domOf m.ash) at_).semPost m.ash m.sem m.inc at_
      (if m.ia.isSome then 1 else 2) m.ia

/-- SEMP_MESSAGE_ARRIVAL. -/
def execSempMessageArrival (i at_ : Nat) (s : State) : Host.Outcome State Fault Refusal := s.answer (s.sempArriveOp i at_)

/-! ## GET (R228, R330, R340) -/

/-- The rows a GET reads are as R225 asks. -/
def GetReq.fits (g : GetReq) : Bool :=
  decide (g.addr % 64 = 0) && decide (1 ≤ g.grans) && decide (g.grans ≤ 64) && decide (g.addr + 64 * g.grans ≤ 2 ^ 25)
    && decide (g.addr / 2 ^ 22 = (g.addr + 64 * g.grans - 1) / 2 ^ 22)

/-- The first uncorrectable word among bytes of one slice. -/
def State.ueBytes (s : State) (ash addr n : Nat) : Option Nat :=
  if s.bulk.upset = [] then none
  else ((List.range (n / 8)).map fun i => addr + 8 * i).find? fun a => decide (mapGet 0 s.bulk.upset (s.physByte ash a / 8) = 2)

/-- An access outside the schedule meets a slice that is not READY or an uncorrectable word (R74, R77). -/
def State.readFault (s : State) (ash addr n : Nat) : Option (Nat × Nat) :=
  if s.sliceReady ash (bitsOf addr 24 22) = false then some (0x21, addr)
  else (s.ueBytes ash addr n).map fun a => (0x24, a)

/-- The corrected errors of such a read (R76). -/
def State.ceBytes (s : State) (ash addr n : Nat) : State :=
  if s.bulk.upset = [] then s
  else forAll ((List.range (n / 8)).map fun i => addr + 8 * i) (fun s a =>
    if s.upsetAt ash (bitsOf a 24 22) (bitsOf a 21 9) (bitsOf a 8 3) = 1 then s.logCE ash (bitsOf a 24 22) (bitsOf a 21 9) else s) s

/-- The detector's look at such a read (R278). -/
def State.readLook (s : State) (ash addr n now : Nat) (ia : Option Nat) : State :=
  if s.debug then
    match s.rowRace ash addr n 2 now now now false with
    | some two => s.hazard 0 ash addr ia two
    | none => s
  else s

/-- The entry that a GET_REPLY carries (R230, R340): the lowest-numbered free one of the ashlar that serves, which the reply
then holds; where none is free it waits for none (R332) and carries the request's own (log entry 94, DESIGN CHOICE). -/
def State.replyEnt (s : State) (g : GetReq) : Nat × Bool :=
  match s.freeEnt g.ash with | some e => (e, true) | none => (g.entry, false)

/-- What a GET reads of a granule is looked at by the detector: landings, and its target's own writes (R277, R278). -/
def State.getLook (s : State) (g : GetReq) (addr : Nat) : State :=
  let c := (s.dom (s.domOf g.ash)).cyc
  let s := s.readLook g.ash addr 64 c none
  if s.debug then
    match s.getRace g.replyMod g.replyAsh g.ash addr 64 with
    | some t => s.hazard 0 g.ash addr none (t, c)
    | none => s
  else s

/-- The granules of a GET that have not been read and whose banks are free in bank cycle `at_` are read in it (R60, R228). -/
def State.getRead (s : State) (g : GetReq) (at_ : Nat) : State × GetReq :=
  forAll (List.range g.grans) (fun u n =>
    let (s, g) := u
    let addr := g.addr + 64 * n
    if g.got.any (fun e => e.1 = n) || !s.readFree g.ash addr at_ then u
    else
      let s := ((s.noteRead g.ash addr at_).ceBytes g.ash addr 64).getLook g addr
      (s, { g with got := g.got ++ [(n, s.rdBank g.ash addr 64 at_)] })) (s, g)

/-- A GET reads on from bank cycle `at_`, in each cycle that is at hand, until it has all its granules. -/
def State.getTurns (s : State) (g : GetReq) (at_ : Nat) : Nat → State × GetReq
  | 0 => (s, g)
  | fuel + 1 =>
    let d := s.domOf g.ash
    if g.grans ≤ g.got.length || !s.turn d at_ then (s, g)
    else
      let (s, g) := (s.reachWall d at_).getRead g at_
      s.getTurns g (at_ + 1) fuel

/-- The bytes that a GET has read, in address order. -/
def GetReq.bytes (g : GetReq) : List Byte :=
  (List.range g.grans).flatMap fun n => match g.got.find? fun e => e.1 = n with | some e => e.2 | none => []

/-- The reply of a GET whose granules have all been read leaves in wall cycle `at_` (R228, R230, R268, R340): over the mesh, granule
by granule, or by its route. -/
def State.getReply (s : State) (g : GetReq) (k : Pkt) (at_ : Nat) : State :=
  let (e, own) := s.replyEnt g
  let id := s.fab.nextId
  let k := { k with id, entry := e, payload := g.bytes }
  let s := s.modFab fun f => { f with
    nextId := id + 1
    ents := if own then f.ents ++ [{ ash := g.ash, idx := e, xfer := 0, pkt := id }] else f.ents
    served := f.served ++ [{ ash := g.ash, entry := e, srcMod := g.replyMod, srcAsh := g.replyAsh, reqEntry := g.entry, own, pkt := id,
                             word0 := k.word0 }] }
  let s := s.modFab fun f => { f with
    ents := f.ents.map fun v => if v.pkt = id && !v.stk then { v with word0 := k.word0 } else v }
  if g.replyMod = s.moduleId then
    let d := s.domOf g.ash
    let hand := handOf (s.dom d).course (s.dom d).cyc
    forAll (List.range g.grans) (fun s n =>
      s.injectGran g.ash (ashLat g.ash g.replyAsh) (at_ + n / 2)
        { granOf g.replyAsh g.replyAddr k.payload g.cairn g.inc (.reply id g.ash e) id n with
          slack := some 0, org := some g.ash, stream := meshStream g.ash, hand }) s
  else if s.unreachable k then s.discardPkt k 1 (s.get (Reg.UBN_ROUTE_LO.PRIMARY k.dstMod)) else s.leave k none

/-- A GET request reaches its target, whose transfer engine reads the granules from bank cycle `at_` on, in cycles in which their
banks are free, and sends the reply (R228, R230, R340). One that is not at its end goes on with the next GET_REQ_ARRIVAL. -/
def State.getOp (s : State) (i at_ : Nat) : State :=
  match s.fab.gets[i]? with
  | none => s
  | some g =>
    let d := s.domOf g.ash
    let n := 64 * g.grans
    let k : Pkt :=
      { net := 1, cls := g.cls, typ := 2, last := true, dstMod := g.replyMod, dst := g.replyAsh,
        srcMod := s.moduleId, srcAsh := g.ash, hops := s.get Reg.UBN_CTRL.HOP_LIMIT, addr := g.replyAddr,
        cairn := g.cairn, inc := g.inc, course := s.courseOf (partOf g.ash) % 256, payload := List.replicate n 0 }
    let port := if g.replyMod = s.moduleId then none else s.routeOf k
    let room := match port with | some p => s.egressRoom p k | none => true
    if at_ < g.ready || !s.turn d at_ || !room then s
    else
      let s := s.reachWall d at_
      let drop (s : State) : State := s.modFab fun f => { f with gets := dropAt f.gets i }
      let lost (s : State) : State :=
        let s := s.put Reg.UBN_STATUS.UNREACHABLE 1
        if g.replyMod = s.moduleId then s else s.ubnInfo g.port s.moduleId false
      let back := at_ + if g.replyMod = s.moduleId then ashLat g.ash g.replyAsh else 0
      if !g.fits || s.resetting (partOf g.ash) then (lost (drop s)).sendCompl none g.replyMod g.replyAsh g.entry 1 back
      else match s.readFault g.ash g.addr n with
        | some (code, a) =>
          ((lost (drop s)).sendCompl none g.replyMod g.replyAsh g.entry 1 back).accessFault d code g.ash a (some (s.dom d).pc) 0
        | none =>
          let (s, g') := s.getTurns g at_ 128
          if g'.got.length < g'.grans then
            s.modFab fun f => { f with gets := f.gets.map fun x => if x = g then g' else x }
          else (drop s).getReply g' k at_

/-- GET_REQ_ARRIVAL. -/
def execGetReqArrival (i at_ : Nat) (s : State) : Host.Outcome State Fault Refusal := s.answer (s.getOp i at_)

/-! ## Completions (R231, R340, R341, R345) -/

/-- The COMPLETION of a GET_REPLY returns to the ashlar that served it, which completes the request. -/
def State.servedCompl (s : State) (c : Compl) (g : GetServed) (at_ : Nat) : State :=
  let s := s.modFab fun f => { f with served := f.served.filter fun x => x.pkt ≠ g.pkt }
  let s := if c.pkt = 0 ∧ g.srcMod ≠ s.moduleId then s.setCredUsed g.srcMod 1 (s.credUsed g.srcMod 1 - 1) else s
  let s := s.sendCompl (some c.ash) g.srcMod g.srcAsh g.reqEntry c.status (at_ + if g.srcMod = s.moduleId then ashLat c.ash g.srcAsh else 0)
  let s := if g.own then s.freeEntry c.ash c.entry at_ else s
  if c.status = 0 then s
  else s.halt (s.domOf c.ash) { code := if c.status = 1 then 0x62 else 0x63, source := 1, part := partOf c.ash,
                                ash := idxOf c.ash, detail := g.srcMod <<< 5, detail2 := g.word0 }

/-- The COMPLETION of a chunk that the relay engine forwarded (R341, R421): `entry` names the chain. -/
def State.relayCompl (s : State) (c : Compl) : State :=
  match s.mor.relayOut.find? fun x => x.1 = c.entry with
  | none => s
  | some (ch, m) =>
    let k := s.mor.relayOut.findIdx fun x => x.1 = c.entry
    let s := { s with mor := { s.mor with relayOut := dropAt s.mor.relayOut k } }
    let s := if c.pkt = 0 then s.setCredUsed m 0 (s.credUsed m 0 - 1) else s
    if c.status = 0 then s
    else
      let s := s.put (Reg.MOR_CHAIN_STATUS.LOST ch) 1
      if s.mor.broken.contains ch then s
      else { s.logRec { code := 0x84, effect := 1, course := s.courseNum } with mor := { s.mor with broken := ch :: s.mor.broken } }

/-- The source ashlar number under which the relay engine sends its chunks (log entry 46). -/
def relayAsh : Nat := 1023

/-- The GET_REPLY that a COMPLETION answers: the one it names, else the one whose entry, and whose requester, it carries. -/
def State.servedBy (s : State) (c : Compl) : Option GetServed :=
  let l := s.fab.served.filter fun g => g.ash = c.ash && g.entry = c.entry
  match l.find? fun g => c.pkt ≠ 0 && g.pkt = c.pkt with
  | some g => some g
  | none => l.find? fun g => (g.own || g.srcMod = c.srcMod) && !(c.pkt ≠ 0 && g.pkt ≠ c.pkt)

/-- A COMPLETION arrives at its source ashlar in wall cycle `at_`, which the domain has run (R231). -/
def State.complOp (s : State) (i at_ : Nat) : State :=
  match s.fab.compl[i]? with
  | none => s
  | some c =>
    if c.ash = relayAsh then (s.modFab fun f => { f with compl := dropAt f.compl i }).relayCompl c
    else if at_ < c.ready || !s.turn (s.domOf c.ash) at_ then s
    else
      let s := (s.modFab fun f => { f with compl := dropAt f.compl i }).reachWall (s.domOf c.ash) at_
      match s.servedBy c with
      | some g => s.servedCompl c g at_
      | none => s.takeCompl c at_

/-- COMPLETION_ARRIVAL. -/
def execCompletionArrival (i at_ : Nat) (s : State) : Host.Outcome State Fault Refusal := s.answer (s.complOp i at_)

/-! ## Moraine rows (R232, R410) -/

/-- A row of an STK is done: 8 is added to the counter in cycle `addAt`, and with the last row the STK is complete (R231,
R232). -/
def State.stkRowDone (s : State) (k : StkOp) (row addAt at_ : Nat) : State :=
  let left := k.left.filter fun r => r ≠ row
  let s := s.cairnAdd k.ash k.cairn 8 addAt
  if left.isEmpty then
    let s := s.modFab fun f => { f with stks := f.stks.filter fun q => q.id ≠ k.id }
    let s := match k.ent with | some e => s.freeEntry k.ash e at_ | none => s
    s.clearFrz (s.domOf k.ash) at_ fun r => r = .stk k.id
  else s.modFab fun f => { f with stks := f.stks.map fun q => if q.id = k.id then { q with left := left, part := [] } else q }

/-- A row of an STK with DIR 0 has landed: the hazard detector follows its granules (R278). -/
def State.hazRow (s : State) (k : StkOp) (addr : Nat) : State :=
  if s.debug then s.modHaz fun h => forAll (List.range 8) (fun h i =>
    h.add { ash := k.ash, addr := addr + 64 * i, pkt := k.id, srcMod := s.moduleId, srcAsh := k.ash, inDom := false,
            cairn := some k.cairn, added := true, ok := [] }) h
  else s

/-- An earlier STK of the ashlar has still to send to, or fetch from, this moraine row: one row serves the STKs of an ashlar
in their start order (R410). -/
def State.rowHeld (s : State) (k : StkOp) (mor : Nat) : Bool :=
  (s.fab.stks.takeWhile fun q => q.id ≠ k.id).any fun q =>
    q.started && q.ash = k.ash && q.left.any fun r => q.mor + r = mor

/-- What waits in the landing buffer of an STK row's slice comes first, or another row does (R63). -/
def State.rowWaits (s : State) (k : StkOp) (row addr at_ : Nat) : Bool :=
  (s.fab.land.any fun g => landKey g = sliceKey k.ash addr && decide (g.ready ≤ at_)) && k.part.isEmpty
    || (s.fab.stks.any fun q => !q.part.isEmpty && q.ash = k.ash && bitsOf q.addr 24 22 = bitsOf addr 24 22 &&
        (q.id ≠ k.id || q.part.any fun v => v.1 ≠ row))

/-- The granules of an STK row that can be written in bank cycle `at_` and have not been (R63, R232). -/
def State.rowGrans (s : State) (k : StkOp) (row addr at_ : Nat) : List Nat :=
  (List.range 8).filter fun i => !k.part.contains (row, i) && !s.portsTaken k.ash (addr + 64 * i) at_
    && !s.landAfter k.ash (addr + 64 * i) at_

/-- A row of an STK with DIR 0 lands in bank cycle `at_`: its granules whose banks' write ports are free, and with the last
one the row (R63, R74, R232, R404). -/
def State.stkLand (s : State) (k : StkOp) (row at_ : Nat) : State :=
  let addr := k.addr + 512 * row
  let slice := bitsOf addr 24 22
  if s.rowBad (k.mor + row) || s.rowWaits k row addr at_ then s
  else if s.sliceReady k.ash slice = false then
    (s.put (Reg.TILE_STATUS.PWR_ACCESS (partOf k.ash) (idxOf k.ash)) 1).halt (s.domOf k.ash)
      { code := 0x21, source := 2, part := partOf k.ash, ash := idxOf k.ash, detail := detailAsh k.ash addr slice }
  else
    let gs := s.rowGrans k row addr at_
    let data := s.morBytes ((k.mor + row) * 512) 512
    let s := forAll gs (fun s i => (s.wrBank k.ash (addr + 64 * i) at_ ((data.drop (64 * i)).take 64)).noteLanding k.ash (addr + 64 * i) at_) s
    let part := k.part ++ gs.map (row, ·)
    if part.length < 8 then s.modFab fun f => { f with stks := f.stks.map fun q => if q.id = k.id then { q with part } else q }
    else ((s.hazRow k addr).landLook k.ash addr (some k.ia)).stkRowDone k row (at_ + 1) at_

/-- A row of an STK with DIR 1 is read in bank cycle `at_`, in which engines leave its banks free, and written in the moraine
(R77, R228, R232, R410, R414). -/
def State.stkStore (s : State) (k : StkOp) (row at_ : Nat) : State :=
  let addr := k.addr + 512 * row
  let d := s.domOf k.ash
  if !(List.range 8).all (fun i => s.readFree k.ash (addr + 64 * i) at_) then s
  else match s.readFault k.ash addr 512 with
    | some (code, a) => s.accessFault d code k.ash a (some k.ia) 0
    | none =>
      let s := (s.ceBytes k.ash addr 512).readLook k.ash addr 512 k.issued (some k.ia)
      let s := forAll (List.range 8) (fun s i => s.noteRead k.ash (addr + 64 * i) at_) s
      let s := (s.morWrite ((k.mor + row) * 512) (s.rdBank k.ash addr 512 at_)).mendRow (k.mor + row)
      s.stkRowDone k row (at_ + 1) at_

/-- Some of `n` moraine rows is in a stack in its refresh shadow, and waits (R412). -/
def State.inShadow (s : State) (row n : Nat) : Bool :=
  (List.range n).any fun i => decide (s.now < mapGet 0 s.mor.shadow (stackOf (row + i)))

/-- One row of an STK goes on in bank cycle `at_` (R232, R410, R412). A row's turn at its stack and in its slice are one event of the
model (log entry 119). -/
def State.stkRowOp (s : State) (i row at_ : Nat) : State :=
  match s.fab.stks[i]? with
  | none => s
  | some k =>
    if !k.started || k.ent.isNone || k.left.contains row = false || s.rowHeld k (k.mor + row) || s.inShadow (k.mor + row) 1
      || !s.turn (s.domOf k.ash) at_ then s
    else
      let s := s.reachWall (s.domOf k.ash) at_
      if k.dir then s.stkStore k row at_ else s.stkLand k row at_

/-- STK_ROW_COMPLETE. -/
def execStkRowComplete (i row at_ : Nat) (s : State) : Host.Outcome State Fault Refusal := s.answer (s.stkRowOp i row at_)

/-! ## Deadlines (R233, R413) -/

/-- One STK of a domain is late: a moraine freeze cause. -/
def State.stkLate (s : State) (d : Nat) (k : StkOp) : State :=
  let x := s.dom d
  let t := k.deadline.getD 0
  let s := s.addFrz d { kind := .moraine, ref := .stk k.id, due := x.wall - (x.early (t + Config.H)), eff := t + Config.H }
  let s := s.inc (Reg.MOR_STK_LATE.COUNT (partOf k.ash))
  let s :=
    if x.stkLogged then s
    else (s.logOnce { code := 0x81, effect := 1, source := 1, part := partOf k.ash, ash := idxOf k.ash, pc := some k.ia,
                      cycle := x.cyc, detail := k.mor, detail2 := stackOf k.mor + 1 <<< 5 }).modDom d fun x => { x with stkLogged := true }
  s.modFab fun f => { f with stks := f.stks.map fun q => if q.id = k.id then { q with late := true } else q }

/-- The deadlines that have come in a running domain, of STKs that have started or still wait in the transfer queue. -/
def State.stkDeadlineOp (s : State) (d : Nat) : State :=
  if s.running d && !s.halted d then
    let s := forAll (s.queuedLate d) (fun s e => s.listStk e.1 false e.2) s
    (s.lateStks d).foldl (fun s k => s.stkLate d k) s
  else s

/-- STK_DEADLINE. -/
def execStkDeadline (d : Nat) (s : State) : Host.Outcome State Fault Refusal := s.answerCtl (s.stkDeadlineOp d)

end Sys2Proof.Machine
end

