-- ==== Sys2Proof/Machine/Ubnov.lean ====
section
/-! DEFINITION. Ubnov ports: packets received and sent, the ingress pool, credits and grants, multicast holds, retry, link
loss, narrowing and training (R322 to R348, R432, R484). A packet leaves its port's receive buffer at once, but for one that
waits there for room in the egress of another port or for a branch of its multicast group (log entry 40). -/

namespace Sys2Proof.Machine

/-! ## Receiving (R328, R329, R332 to R334, R340, R343, R360, R432) -/

/-- The packet types and the networks and classes they travel on (R329). -/
def typeFits (typ net cls : Nat) : Bool :=
  match typ with
  | 0 => net = 0 && decide (cls < 2)
  | 1 => net = 0 && cls = 2
  | 2 => net = 1 && decide (cls < 2)
  | 3 => net = 1 && cls = 2
  | 4 => net = 0 && cls = 0
  | 5 => cls = 3
  | _ => false

/-- The fields of a header (R328). -/
def readHeader (h0 h1 : Quad) (payload : List Byte) (port : Nat) : Pkt :=
  let a := h0.toNat
  let b := h1.toNat
  { net := bitsOf a 4 4, cls := bitsOf a 6 5, typ := bitsOf a 10 7, last := bitOf a 11, mc := bitOf a 12,
    dstMod := bitsOf a 24 13, dst := bitsOf a 36 25, srcMod := bitsOf a 48 37, srcAsh := bitsOf a 58 49,
    hops := bitsOf a 63 59, addr := bitsOf b 24 0, cairn := bitsOf b 30 25, inc := bitsOf b 37 31,
    entry := bitsOf b 51 45, course := bitsOf b 59 52, payload, inPort := port }

/-- The header keeps R328 and R329; one that does not is handled as a CRC error. So is one with MC and a type other than WRITE, a
GET_REQ whose LEN is not 1, and a COMPLETION with a payload, which the tables shut out (log entry 116, DEDUCED). -/
def headerFits (h0 h1 : Quad) (payload : List Byte) : Bool :=
  let k := readHeader h0 h1 payload 0
  let len := bitsOf h1.toNat 44 38
  bitsOf h0.toNat 3 0 = 1 && typeFits k.typ k.net k.cls && bitsOf h1.toNat 63 60 = 0
    && payload.length = 64 * len
    && (if k.mc then k.dstMod = 0 && k.typ = 0 else decide (k.dst < 1024))
    && (if k.typ = 3 then decide (k.addr < 3) && len = 0 else if k.typ = 1 then len = 1 else true)

/-- A frame is accepted: acknowledged, counted. -/
def State.acceptFrame (s : State) (port : Nat) : State :=
  let q := (s.port port).rxSeq
  ((s.inc (Reg.UBN_PORT_RX_PKTS.COUNT port)).modPort port fun x =>
    { x with rxSeq := (q + 1) % 65536, nakked := false }).send (.ack port q)

/-- A frame is discarded, with every later one, and its sequence number is asked for (R346): once, and again where it comes
again and is discarded again. -/
def State.dropFrame (s : State) (port seq : Nat) : State :=
  let x := s.port port
  if x.nakked ∧ seq ≠ x.rxSeq then s
  else (s.modPort port fun x => { x with nakked := true }).send (.nak port x.rxSeq)

/-- Space of a receive buffer is free again: its link credit returns (R331). -/
def State.rxFree (s : State) (k : Pkt) : State := s.send (.credit k.inPort k.vc (max 1 k.grans))

/-- The COMPLETION of a discarded packet that arrived from another module: to its source, or a branch upstream (R340, R345). -/
def State.refuseArrival (s : State) (k : Pkt) : State :=
  let s := (s.put Reg.UBN_STATUS.UNREACHABLE 1).ubnInfo k.inPort (if k.mc then k.dst else k.dstMod) k.mc
  if k.typ = 3 ∨ k.typ = 5 then s
  else if k.mc then s.complUp (some k.inPort) k.srcMod k.srcAsh k.entry 1 0
  else s.sendCompl none k.srcMod k.srcAsh k.entry 1 0

/-- The first packet of the receive buffers that can go on, with its port: none that arrived before it waits for the same
channel of that port, and there is room; a packet that has become unreachable (R333, R336, R339). So it is with the chunks
that the relay engine forwards (R421). -/
def State.nextFwd (s : State) : List Pkt → List (Nat × Nat) → Option (Pkt × Option Nat)
  | [], _ => none
  | k :: l, held =>
    match if k.inPort = 32 && s.unreachable k then none else s.routeOf k with
    | none => some (k, none)
    | some p => if !held.contains (p, k.vc) && s.egressRoom p k then some (k, some p) else s.nextFwd l ((p, k.vc) :: held)

/-- A packet goes on from a receive buffer, or from the relay engine. -/
def State.goOn (s : State) (k : Pkt) (p : Option Nat) : State :=
  if k.inPort = 32 then
    match p with
    | some p => s.leave k (some p)
    | none => s.discardPkt k 1 (s.get (Reg.UBN_ROUTE_LO.PRIMARY k.dstMod))
  else match p with
    | some p => (s.rxFree k).toEgress p { k with hops := k.hops - 1 }
    | none => (s.rxFree k).refuseArrival k

/-- Packets move on into egress while there is room. -/
def State.drainFwd (s : State) : Nat → State
  | 0 => s
  | fuel + 1 =>
    match s.nextFwd s.fab.fwd [] with
    | none => s
    | some (k, p) => ((s.modFab fun f => { f with fwd := f.fwd.erase k }).goOn k p).drainFwd fuel

/-- A packet waits for egress behind those that came before it. -/
def State.sendOn (s : State) (k : Pkt) : State :=
  let s := s.modFab fun f => { f with fwd := f.fwd ++ [k] }
  s.drainFwd s.fab.fwd.length

/-- Change the moraine's working state. -/
def State.modMor (s : State) (f : Mor → Mor) : State := { s with mor := f s.mor }

/-! ### The relay engine's buffer (R420, R421) -/

/-- A chunk of a chain from module `from_`: it is to be written here, and goes on to the next module. One for an ashlar of a disabled
partition goes to its landing buffer like any other (R3; log entry 110, DESIGN CHOICE). -/
def State.relayChunk (s : State) (c idx : Nat) (data : List Byte) (from_ : Nat) : State :=
  let base := s.get (Reg.MOR_CHAIN_BASE.BASE c)
  let put (w : MorWrite) (s : State) : State := s.modMor fun m => { m with writes := m.writes ++ [w] }
  let kind := s.get (Reg.MOR_CHAIN_CFG.LOCAL_KIND c)
  let s :=
    if kind = 1 then put { row := base + 8 * idx, off := 0, data, chain := some c, idx } s
    else if kind = 2 then
      put { row := 0, off := 0, data, chain := some c, idx,
            land := some (s.get (Reg.MOR_CHAIN_AUX.ASHLAR c), (base + 4096 * idx) % 2 ^ 25, s.get (Reg.MOR_CHAIN_AUX.CAIRN c)),
            src := .relay from_ } s
    else s
  if s.get (Reg.MOR_CHAIN_CFG.FWD_EN c) = 1 then
    let id := s.fab.nextId
    let k : Pkt :=
      { id, typ := 4, last := decide (idx + 1 = s.get (Reg.MOR_CHAIN_LEN.LEN c)), dstMod := s.get (Reg.MOR_CHAIN_CFG.NEXT_MOD c),
        dst := s.get (Reg.MOR_CHAIN_CFG.NEXT_CHAIN c), srcMod := s.moduleId, srcAsh := relayAsh,
        hops := s.get Reg.UBN_CTRL.HOP_LIMIT, addr := idx, entry := c, course := s.courseNum % 256, payload := data,
        inPort := 32 }
    let s := s.modFab fun f => { f with nextId := id + 1 }
    (s.modMor fun m => { m with relayOut := m.relayOut ++ [(c, k.dstMod)] }).sendOn k
  else s

/-- Bytes in the relay buffer: the chunks that wait to be written here, and those that only wait to go on. -/
def State.relayBytes (s : State) : Nat :=
  let ws := s.mor.writes.filter fun w => w.chain.isSome
  let ks := s.fab.fwd.filter fun k => k.inPort = 32 && !ws.any fun w => w.chain = some k.entry && w.idx = k.addr
  ws.foldl (fun n w => n + w.data.length) 0 + ks.foldl (fun n k => n + k.payload.length) 0

/-- The relay buffer of 1 MiB has room for so many bytes more. -/
def State.relayRoom (s : State) (n : Nat) : Bool := decide (s.relayBytes + n ≤ 1048576)

/-- A load's completion enters its queue (R419). -/
def State.loadDone (s : State) (tag st : Nat) : State := (s.modMor fun m => { m with cmpl := m.cmpl ++ [(tag, st)] }).irq 0 2

/-- The chunks of loads that wait for the relay buffer enter it, in their order, while there is room (R419, R421). -/
def State.relayDrain (s : State) : Nat → State
  | 0 => s
  | fuel + 1 =>
    match s.mor.relayWait with
    | [] => s
    | x :: l =>
      if s.relayRoom x.data.length then
        let s := (s.modMor fun m => { m with relayWait := l }).relayChunk x.chain x.idx x.data s.moduleId
        (match x.tag with | some t => s.loadDone t 0 | none => s).relayDrain fuel
      else s

/-- A packet for another module (R333, R334). -/
def State.forwardPkt (s : State) (k : Pkt) : State :=
  if k.hops = 0 then
    let s := (s.hopLimit k k.inPort true).rxFree k
    if k.typ = 3 ∨ k.typ = 5 then s else s.sendCompl none k.srcMod k.srcAsh k.entry 1 0
  else s.sendOn k

/-- Egress has room again: what waits in the receive buffers and the injection queues moves on. -/
def State.egressFreed (s : State) : State := ((s.drainFwd s.fab.fwd.length).relayDrain s.mor.relayWait.length).egressMoved

/-- A data packet for this module enters the ingress pool, if it may land (R338, R340, R432, R455, R515). A RELAY packet is
for the relay engine: its ADDR is a chunk's index, its INC zero (R420). -/
def State.admitData (s : State) (k : Pkt) : State :=
  let n := s.get Reg.UBN_POOL_STATUS.IN_USE
  let p := partOf k.dst
  let id := s.fab.nextId
  let pooled (s : State) : State := s.put Reg.UBN_POOL_STATUS.IN_USE (n + 1)
  if k.typ = 4 then
    if k.grans = 0 ∨ 64 < k.grans ∨ 64 < k.inc then s.refuseArrival k
    else pooled (s.modFab fun f => { f with nextId := id + 1, relayIn := f.relayIn ++ [{ k with id := id }] })
  else if !s.reachable k.dst || !placeFits k || s.replayBars p k then s.refuseArrival k
  else if k.typ = 0 && !s.accepts p k then (s.inc (Reg.MGT_PART_INGRESS_DENIED.COUNT p)).refuseArrival k
  else pooled (s.modFab fun f => { f with nextId := id + 1, pool := f.pool ++ [{ k with id := id }] })

/-- A GET request for an ashlar of this module, which it reaches over the mesh (R326). -/
def State.admitGet (s : State) (k : Pkt) : State :=
  let p := partOf k.dst
  if !s.reachable k.dst || s.replayBars p k then s.refuseArrival k
  else if !s.accepts p k then (s.inc (Reg.MGT_PART_INGRESS_DENIED.COUNT p)).refuseArrival k
  else s.modFab fun f => { f with gets := f.gets ++ [getReqOf k k.srcMod (s.fromStop k.inPort k.dst)] }

/-- A COMPLETION: gathered at a branch of its multicast tree, taken by its ashlar, which it reaches over the mesh (R326), or
forwarded. -/
def State.admitCompl (s : State) (k : Pkt) : State :=
  let ready := if k.dstMod = s.moduleId ∧ k.dst < 576 then s.fromStop k.inPort k.dst else 0
  if s.fab.gathers.any fun g => g.srcMod = k.dstMod && g.srcAsh = k.dst && g.entry = k.entry then
    (s.mcGather k.dstMod k.dst k.entry (k.addr % 4) ready).rxFree k
  else if k.dstMod = s.moduleId then (s.complTo k.dst k.entry (k.addr % 4) k.srcMod 0 ready).rxFree k
  else s.forwardPkt k

/-- The copies of a multicast packet that are held here keep its place in the receive buffer; without one it is free (R331,
R344). A packet of this module holds none. -/
def State.mcFreed (s : State) (k : Pkt) : State :=
  if k.srcMod = s.moduleId || s.fab.holds.any fun h => h.pkt.id = k.id then s else s.rxFree k

/-- A multicast packet arrives: the copies know it by its name. -/
def State.mcArrive (s : State) (k : Pkt) : State :=
  let k := { k with id := s.fab.nextId }
  ((s.modFab fun f => { f with nextId := f.nextId + 1 }).mcForward k (some k.inPort) 0).mcFreed k

/-- An accepted packet goes on. Management packets end in the management complex. -/
def State.routeArrival (s : State) (k : Pkt) : State :=
  if k.typ = 3 then s.admitCompl k
  else if k.mc then s.mcArrive k
  else if k.dstMod ≠ s.moduleId then s.forwardPkt k
  else if k.typ = 1 then (s.admitGet k).rxFree k
  else if k.typ = 5 then s.rxFree k
  else (s.admitData k).rxFree k

/-- A port receives a frame (R327, R329, R346): it has stored the packet whole, and checks it before anything of it goes on: its
link tag (R323), its packet, whether its CRC holds and no codeword under it was uncorrectable. -/
def State.receiveOp (s : State) (port seq vc : Nat) (h0 h1 : Quad) (payload : List Byte) (crcOk fecOk : Bool) : State :=
  let st := s.get (Reg.UBN_PORT_STATUS.STATE port)
  let k := readHeader h0 h1 payload port
  let x := s.port port
  if 32 ≤ port ∨ (st ≠ 2 ∧ st ≠ 3) then s
  else if !fecOk then (s.inc (Reg.UBN_PORT_FEC_UE.COUNT port)).dropFrame port seq
  else if !crcOk || !headerFits h0 h1 payload || vc ≠ k.vc then (s.inc (Reg.UBN_PORT_CRC_ERR.COUNT port)).dropFrame port seq
  else if seq ≠ x.rxSeq then s.dropFrame port seq
  else
    let s := s.acceptFrame port
    if st = 2 ∧ k.cls ≠ 3 then (s.rxFree k).refuseArrival k else s.routeArrival k

/-- UBN_PACKET_RECEIVE. -/
def execUbnPacketReceive (port : Nat) (h0 h1 : Quad) (payload : List Byte) (crcOk : Bool) (s : State) (seq : Nat := 0)
    (vc : Nat := 0) (fecOk : Bool := true) : Host.Outcome State Fault Refusal :=
  s.answerCtl (s.receiveOp port seq vc h0 h1 payload crcOk fecOk)

/-! ## The ingress pool (R338) -/

/-- The pool's next packet for an ashlar: round-robin by source module after the source served last, first come first
served within a source. -/
def State.nextPooled (s : State) (ash : Nat) : Option Pkt :=
  let last := mapGet 4095 s.fab.lastSrc ash
  let dist (k : Pkt) : Nat := (k.srcMod + 4095 - last) % 4096
  (s.fab.pool.filter fun k => k.dst = ash).foldl (fun b k =>
    match b with | none => some k | some j => if dist k < dist j then some k else some j) none

/-- The pool releases a packet to the mesh from wall cycle `at_` of the destination's domain on, two granules a cycle: whole,
and after the one before it for that ashlar has passed (R338), while its slice's landing buffer gives credit (R64). -/
def State.releaseOp (s : State) (ash at_ : Nat) : State :=
  match s.nextPooled ash with
  | none => s
  | some k =>
    let last := at_ + (k.grans - 1) / 2
    if at_ < s.wallNow (s.domOf ash) || decide (at_ < mapGet 0 s.fab.lastRel ash) || s.sliceFull ash k.addr at_ then s
    else
      let s := s.modFab fun f => { f with
        nextId := f.nextId + 1
        pool := f.pool.filter (fun x => x.id ≠ k.id)
        lastSrc := mapSet 4095 f.lastSrc ash k.srcMod
        lastRel := mapSet 0 f.lastRel ash (last + 1) }
      s.meshPkt ash k.addr k.payload k.cairn k.inc (.ubn k.srcMod k.srcAsh k.entry k.inPort 0 true) k.id (1024 + k.inPort) k.stream
        s.fab.nextId at_ (s.stopLat k.inPort ash true) k.word0

/-- INGRESS_RELEASE. -/
def execIngressRelease (ash at_ : Nat) (s : State) : Host.Outcome State Fault Refusal := s.answerCtl (s.releaseOp ash at_)

/-! ## Sending (R331, R336, R346) -/

/-- The packet takes an end-to-end credit as it leaves: a data packet of this module for another, not multicast. -/
def State.needsCredit (s : State) (k : Pkt) : Bool := k.isData && !k.mc && k.srcMod = s.moduleId && k.dstMod ≠ s.moduleId

/-- A packet waits for an end-to-end credit. -/
def State.lacksCredit (s : State) (k : Pkt) : Bool :=
  s.needsCredit k && decide (s.credLimit k.dstMod k.net ≤ s.credUsed k.dstMod k.net)

/-- The first packet of a channel that may leave: packets for a module that waits for credit stay in order behind the one
that waits. -/
def State.nextOut (s : State) (vc : Nat) : List (Nat × Pkt) → List Nat → Nat → Option (Nat × Pkt)
  | [], _, _ => none
  | (v, k) :: l, held, i =>
    if v ≠ vc then s.nextOut vc l held (i + 1)
    else if !k.mc && held.contains k.dstMod then s.nextOut vc l held (i + 1)
    else if s.lacksCredit k then s.nextOut vc l (k.dstMod :: held) (i + 1)
    else some (i, k)

/-- Bytes the retry buffer holds: P + 28 for each frame (R323). -/
def retryBytes (l : List Sent) : Nat := l.foldl (fun n f => n + f.pkt.payload.length + 28) 0

/-- A packet leaves a port on a virtual channel; routers on its way to the port have corrected `ce` words (R291). -/
def State.egressSendOp (s : State) (port vc ce : Nat) : State :=
  let st := s.get (Reg.UBN_PORT_STATUS.STATE port)
  let x := s.port port
  if 32 ≤ port ∨ !(st = 3 || (st = 2 && vc % 4 = 3)) ∨ x.replaying.isSome then s
  else match s.nextOut vc x.egress [] 0 with
    | none => s
    | some (i, k) =>
      if !s.linkRoom port vc k.grans ∨ 262144 < retryBytes x.retry + k.payload.length + 28 then s
      else
        let used := mapGet 0 x.creditUsed vc + max 1 k.grans
        let s := s.setPort port { x with
          egress := dropAt x.egress i
          retry := x.retry ++ [{ seq := x.nextSeq, pkt := k }]
          nextSeq := (x.nextSeq + 1) % 65536
          creditUsed := mapSet 0 x.creditUsed vc used }
        let s := if s.needsCredit k then s.setCredUsed k.dstMod k.net (s.credUsed k.dstMod k.net + 1) else s
        let s := s.inc Reg.TILE_MESH_CE_COUNT.COUNT ce
        ((s.inc (Reg.UBN_PORT_TX_PKTS.COUNT port)).send (.frame port x.nextSeq vc k)).egressFreed

/-- EGRESS_SEND. -/
def execEgressSend (port vc : Nat) (s : State) (ce : Nat := 0) : Host.Outcome State Fault Refusal := s.answerCtl (s.egressSendOp port vc ce)

/-! ## Grants (R336, R337) -/

/-- A grant of a destination module arrives. -/
def State.grantOp (s : State) (md req rpl : Nat) : State :=
  if md < 4096 then (s.put (Reg.UBN_CRED.REQ md) req).put (Reg.UBN_CRED.RPL md) rpl else s

/-- CREDIT_GRANT_ARRIVAL. -/
def execCreditGrantArrival (md req rpl : Nat) (s : State) : Host.Outcome State Fault Refusal := s.answerCtl (s.grantOp md req rpl)

/-- The reservation words that differ from their reset value, by source module. -/
def State.resvWords (s : State) : SMap Word :=
  (s.regs.filter fun r => decide (Reg.UBN_RESV.addr 0 ≤ r.1) && decide (r.1 < Reg.UBN_RESV.addr 4096)).map
    fun r => ((r.1 - Reg.UBN_RESV.addr 0) / 4, r.2)

/-- Sum of REQ and RPL over all 4,096 entries, each 1 and 1 unless listed. -/
def resvSum (l : SMap Word) : Nat :=
  8192 - 2 * l.length + l.foldl (fun n r => n + bitsOf r.2.toNat 2 0 + bitsOf r.2.toNat 6 4) 0

/-- A write of UBN_CTRL; with RESV_APPLY, reservations are applied and advertised. -/
def State.resvApplyOp (s : State) (w : Who) (v : Word) : State :=
  s.gated w Reg.UBN_CTRL.addr .rw fun s =>
    let s := s.storeReg w Reg.UBN_CTRL.addr v
    if bitOf v.toNat 8 then
      let l := s.resvWords
      if 8192 < resvSum l ∨ s.anyArmed then s.put Reg.UBN_STATUS.RESV_REJECT 1
      else ((s.put Reg.UBN_POOL_STATUS.RESERVED (resvSum l)).modFab fun f => { f with granted := l }).send (.grants l)
    else s

/-- RESV_APPLY. -/
def execResvApply (w : Who) (v : Word) (s : State) : Host.Outcome State Fault Refusal :=
  s.answerCtl (s.posting w (.reg Reg.UBN_CTRL.addr v) fun s => s.resvApplyOp w v)

/-! ## Held multicast copies (R344) -/

/-- A copy whose port has gone is discarded with STATUS 1 (R348, R351). -/
def State.mcLost (s : State) (port : Nat) (k : Pkt) : State :=
  ((s.put Reg.UBN_STATUS.UNREACHABLE 1).ubnInfo port k.dst true).mcGather k.srcMod k.srcAsh k.entry 1 0

/-- A held copy goes when credit returns, each source's in their order (R335, R344); one whose port has gone is discarded. -/
def State.mcReleaseOp (s : State) (i : Nat) : State :=
  match s.fab.holds[i]? with
  | none => s
  | some h =>
    let k := h.pkt
    let a := s.mcLeaf k
    let behind := (s.fab.holds.take i).any fun x => x.port = h.port && x.pkt.srcMod = k.srcMod && x.pkt.srcAsh = k.srcAsh
    let drop (s : State) : State := (s.modFab fun f => { f with holds := dropAt f.holds i }).mcFreed k
    if behind then s
    else if h.port = 32 then
      if s.leafFull k then s
      else if k.srcMod = s.moduleId then (drop s).mcLocal k k.srcAsh (s.wallNow (s.domOf a)) (ashLat k.srcAsh a)
      else (drop s).mcLocal k (1024 + k.inPort) (s.wallNow (s.domOf a)) (s.stopLat k.inPort a true)
    else if !s.portUp h.port k.cls then (drop s).mcLost h.port k
    else if s.copyRoom h.port k then (drop s).toEgress h.port k
    else s

/-- MC_COPY_RELEASE. -/
def execMcCopyRelease (i : Nat) (s : State) : Host.Outcome State Fault Refusal := s.answerCtl (s.mcReleaseOp i)

/-- A copy has been held for 1 ms. -/
def State.mcStuckOp (s : State) (i : Nat) : State :=
  match s.fab.holds[i]? with
  | none => s
  | some h =>
    if h.logged then s
    else
      let s := (s.atLeast (h.since + 100000)).logOnce
        { code := 0x61, effect := 1, detail := h.pkt.detail h.port, detail2 := h.pkt.word0 }
      let s := (s.put Reg.UBN_STATUS.MC_STUCK 1).ubnInfo (h.port % 32) h.pkt.dst true
      s.modFab fun f => { f with holds := f.holds.take i ++ { h with logged := true } :: f.holds.drop (i + 1) }

/-- MULTICAST_STUCK. -/
def execMulticastStuck (i : Nat) (s : State) : Host.Outcome State Fault Refusal := s.answerCtl (s.mcStuckOp i)

/-! ## Link loss (R348) -/

/-- A packet that a port loses is discarded with STATUS 2; a credit it had taken returns. -/
def State.losePkt (s : State) (port : Nat) (sent : Bool) (k : Pkt) : State :=
  let s := if sent && s.needsCredit k then s.setCredUsed k.dstMod k.net (s.credUsed k.dstMod k.net - 1) else s
  if k.mc then ((s.put Reg.UBN_STATUS.UNRECOVERED 1).ubnInfo port k.dst true).mcGather k.srcMod k.srcAsh k.entry 2 0
  else s.discardPkt k 2 port

/-- A port has received a valid identity frame, or has waited the timeout since its training ended (R361). -/
def State.portHeard (s : State) (p : Nat) : Bool :=
  let x := s.port p
  x.heard || x.trained && decide (x.trainedAt + s.get Reg.UBN_IDENT_TIMEOUT.COUNTS ≤ s.now)

/-- The port loses its link: its packets, its exchange and its state. -/
def State.dropLink (s : State) (port : Nat) : State :=
  let x := s.port port
  let held := s.fab.holds.filter fun h => h.port = port
  let s := s.setPort port { downAt := s.now, heard := s.portHeard port }
  let s := s.put (Reg.UBN_PORT_STATUS.STATE port) 0
  let s := s.put (Reg.UBN_PORT_STATUS.REPLAYING port) 0
  let s := s.put (Reg.UBN_NBR_VERDICT.LOCAL port) 0
  let s := s.put (Reg.UBN_NBR_VERDICT.PEER port) 0
  let s := (s.put (Reg.UBN_NBR_VERDICT.ROLE port) 0).put (Reg.UBN_NBR_VERDICT.ROLE_VALID port) 0
  let s := s.put (Reg.UBN_NBR_VERDICT.REASON port) 0
  let s := forAll x.retry (fun s f => s.losePkt port true f.pkt) s
  let s := forAll x.egress (fun s e => s.losePkt port false e.2) s
  let s := s.modFab fun f => { f with holds := f.holds.filter fun h => h.port ≠ port }
  let s := forAll held (fun s h => (s.mcLost port h.pkt).mcFreed h.pkt) s
  forAll (List.range 12) (fun s d => s.clearFrz d (s.wallNow d) fun r => r = .port port) s.egressFreed

/-- A port goes DOWN: retries exhausted, or no 2-lane group left. -/
def State.linkDownOp (s : State) (port : Nat) : State :=
  if 32 ≤ port ∨ s.get (Reg.UBN_PORT_STATUS.STATE port) = 0 then s
  else
    let s := s.dropLink port
    (s.put (Reg.UBN_PORT_STATUS.DOWN_EVENT port) 1).logEvent { code := 0x60, effect := 1, detail := detailPort port 0 false }

/-- LINK_DOWN. -/
def execLinkDown (port : Nat) (s : State) : Host.Outcome State Fault Refusal := s.answerCtl (s.linkDownOp port)

/-! ## Retry (R346, R347) -/

/-- A control word of the neighbour (R323): the frames up to the acknowledged one leave the retry buffer (R346), and link
credit returns, in granules by virtual channel (R331). -/
def State.ackOp (s : State) (port : Nat) (seq : Option Nat) (credits : List (Nat × Nat)) : State :=
  let x := s.port port
  let gone := match x.retry.findIdx? fun f => some f.seq = seq with | some i => i + 1 | none => 0
  let used := credits.foldl (fun m c => mapSet 0 m c.1 (mapGet 0 m c.1 - c.2)) x.creditUsed
  (s.setPort port { x with retry := x.retry.drop gone, creditUsed := used }).egressMoved

/-- LINK_ACK. -/
def execLinkAck (port : Nat) (seq : Option Nat) (s : State) (credits : List (Nat × Nat) := []) : Host.Outcome State Fault Refusal :=
  s.answerCtl (s.ackOp port seq credits)

/-- The domains of this module that own the source ashlar of a replayed frame (R347). -/
def State.replayOwners (s : State) (frames : List Sent) : List Nat :=
  ((frames.filter fun f => f.pkt.srcMod = s.moduleId && decide (f.pkt.typ < 4)).map fun f => s.domOf f.pkt.srcAsh).eraseDups

/-- The link-retry cause of one domain is due now. -/
def State.linkCause (s : State) (port d : Nat) : State :=
  if (s.dom d).frz.any fun f => f.ref = .port port ∧ f.clr = none then s
  else
    let w := s.wallNow d
    s.addFrz d { kind := .link, ref := .port port, due := w, eff := s.cycleAt d w + Config.H }

/-- A negative acknowledgement: a replay from the named frame, or loss of the link once a frame has been replayed MAX
times (R346, R348). While the port narrows no frame crosses the link, and the retry buffer keeps its frames (R324). -/
def State.replayOp (s : State) (port seq : Nat) : State :=
  let x := s.port port
  match x.retry.findIdx? fun f => f.seq = seq && decide (s.get (Reg.UBN_PORT_STATUS.STATE port) ≠ 4) with
  | none => s
  | some i =>
    let frames := x.retry.drop i
    let maxi := s.get (Reg.UBN_PORT_RETRY_MAX.MAX port)
    if frames.any fun f => maxi ≤ f.count then s.linkDownOp port
    else
      let again := frames.map fun f => { f with count := f.count + 1 }
      let s := s.setPort port { x with retry := x.retry.take i ++ again, replaying := some s.now }
      let s := (s.inc (Reg.UBN_PORT_REPLAYS.COUNT port)).put (Reg.UBN_PORT_STATUS.REPLAYING port) 1
      let s := forAll frames (fun s f => s.send (.frame port f.seq f.pkt.vc f.pkt)) s
      forAll (s.replayOwners frames) (fun s d => s.linkCause port d) s

/-- LINK_REPLAY. -/
def execLinkReplay (port seq : Nat) (s : State) : Host.Outcome State Fault Refusal := s.answerCtl (s.replayOp port seq)

/-- The last replayed frame has been sent again, `counts` glacier counts after the replay began. -/
def State.replayDoneOp (s : State) (port counts : Nat) : State :=
  match (s.port port).replaying with
  | none => s
  | some g =>
    let s := ((s.atLeast (g + counts)).modPort port fun x => { x with replaying := none }).put (Reg.UBN_PORT_STATUS.REPLAYING port) 0
    forAll (List.range 12) (fun s d => s.clearFrz d (s.wallNow d) fun r => r = .port port) s

/-- REPLAY_COMPLETE. -/
def execReplayComplete (port counts : Nat) (s : State) : Host.Outcome State Fault Refusal := s.answerCtl (s.replayDoneOp port counts)

/-! ## Lanes (R324, R325, R484) -/

/-- The lane groups a port narrows to, in order (R324). -/
def laneGroups : List Nat := [0x0F, 0xF0, 0x03, 0x0C, 0x30, 0xC0]

/-- WIDTH of a number of lanes. -/
def widthOf (lanes : Nat) : Nat := if popcount 8 lanes = 8 then 0 else if popcount 8 lanes = 4 then 1 else 2

/-- The first healthy lane group of at most `n` lanes. -/
def pickLanes (ok n : Nat) : Option Nat := laneGroups.find? fun g => decide (popcount 8 g ≤ n) && ok &&& g = g

/-- A lane of an UP port's group is unhealthy: the port narrows with its neighbour, or loses the link (R324). One that already
narrows takes another group. -/
def State.narrow (s : State) (port : Nat) : State :=
  let x := s.port port
  let st := s.get (Reg.UBN_PORT_STATUS.STATE port)
  let ok := s.get (Reg.UBN_PORT_STATUS.LANE_OK port)
  if 32 ≤ port ∨ (st ≠ 3 ∧ st ≠ 4) ∨ ok &&& x.lanes = x.lanes then s
  else match pickLanes ok (popcount 8 x.lanes) with
    | none => s.linkDownOp port
    | some g => (s.modPort port fun x => { x with lanes := g }).put (Reg.UBN_PORT_STATUS.STATE port) 4

/-- The health monitors of a port's lanes change (R324). -/
def State.narrowOp (s : State) (port laneOk : Nat) : State :=
  if 32 ≤ port ∨ s.get (Reg.UBN_PORT_STATUS.STATE port) = 0 then s
  else (s.put (Reg.UBN_PORT_STATUS.LANE_OK port) laneOk).narrow port

/-- LINK_NARROWED. -/
def execLinkNarrowed (port laneOk : Nat) (s : State) : Host.Outcome State Fault Refusal := s.answerCtl (s.narrowOp port laneOk)

/-- Narrowing ends: the port carries frames again. -/
def State.narrowDoneOp (s : State) (port : Nat) : State :=
  if port < 32 ∧ s.get (Reg.UBN_PORT_STATUS.STATE port) = 4 then
    let s := s.put (Reg.UBN_PORT_STATUS.STATE port) 3
    let s := s.put (Reg.UBN_PORT_STATUS.WIDTH port) (widthOf (s.port port).lanes)
    (s.put (Reg.UBN_PORT_STATUS.NARROWED port) 1).logEvent { code := 0x66, effect := 1, detail := detailPort port 0 false }
  else s

/-- NARROWING_DONE. -/
def execNarrowingDone (port : Nat) (s : State) : Host.Outcome State Fault Refusal := s.answerCtl (s.narrowDoneOp port)

/-- A window of 100,000 glacier counts ends with these corrected FEC symbols per lane, in so many corrected codewords (R324,
R350, R484). -/
def State.berOp (s : State) (port : Nat) (counts : List Nat) (corrected : Nat) : State :=
  let total := counts.foldl (· + ·) 0
  let th := s.get (Reg.UBN_PORT_BER_THRESH.THRESH port)
  let bad := (List.range 8).foldl (fun m i => if th < counts[i]?.getD 0 then m + 2 ^ i else m) 0
  if 32 ≤ port then s
  else
    let s := s.inc (Reg.UBN_PORT_FEC_CE.COUNT port) corrected
    let s := if th < 2 * total then s.put Reg.TEL_LINK_WARN.PORTS (s.get Reg.TEL_LINK_WARN.PORTS ||| 2 ^ port) else s
    if bad = 0 then s else s.narrowOp port (s.get (Reg.UBN_PORT_STATUS.LANE_OK port) &&& (255 - bad))

/-- LINK_BER_WINDOW. -/
def execLinkBerWindow (port : Nat) (counts : List Nat) (s : State) (corrected : Nat := 0) : Host.Outcome State Fault Refusal :=
  s.answerCtl (s.berOp port counts corrected)

/-- A write of UBN_PORT_CTRL: EN 0 takes the port down, RETRAIN takes it down and trains it again (R325). -/
def State.retrainOp (s : State) (w : Who) (port : Nat) (v : Word) : State :=
  if 32 ≤ port then s
  else s.gated w (Reg.UBN_PORT_CTRL.addr port) .rw fun s =>
    let s := s.storeReg w (Reg.UBN_PORT_CTRL.addr port) v
    if bitOf v.toNat 0 = false then (if s.get (Reg.UBN_PORT_STATUS.STATE port) = 0 then s else s.dropLink port)
    else if bitOf v.toNat 3 then (s.dropLink port).put (Reg.UBN_PORT_STATUS.STATE port) 1
    else s

/-- RETRAIN. -/
def execRetrain (w : Who) (port : Nat) (v : Word) (s : State) : Host.Outcome State Fault Refusal :=
  s.answerCtl (s.posting w (.reg (Reg.UBN_PORT_CTRL.addr port) v) fun s => s.retrainOp w port v)

/-- Light returns on a port that is DOWN: electrical training begins. -/
def State.lightOp (s : State) (port : Nat) : State :=
  if port < 32 ∧ s.get (Reg.UBN_PORT_STATUS.STATE port) = 0 ∧ s.get (Reg.UBN_PORT_CTRL.EN port) = 1 then
    s.put (Reg.UBN_PORT_STATUS.STATE port) 1
  else s

/-- LIGHT_RETURNS. -/
def execLightReturns (port : Nat) (s : State) : Host.Outcome State Fault Refusal := s.answerCtl (s.lightOp port)

end Sys2Proof.Machine
end

