-- ==== Sys2Proof/Machine/Discovery.lean ====
section
/-! DEFINITION. Topology plans, the identity exchange, verdicts and roles (R353 to R364). -/

namespace Sys2Proof.Machine

/-! ## The committed plan (R353, R354) -/

/-- The plan words of a port as committed. -/
def State.planLo (s : State) (p : Nat) : Nat := (mapGet 0 s.disc.planLo p).toNat
def State.planMod (s : State) (p : Nat) : Nat := bitsOf (s.planLo p) 11 0
def State.planPort (s : State) (p : Nat) : Nat := bitsOf (s.planLo p) 16 12
def State.planTier (s : State) (p : Nat) : Nat := bitsOf (s.planLo p) 19 17
def State.planGroup (s : State) (p : Nat) : Nat := bitsOf (s.planLo p) 23 20
def State.planUse (s : State) (p : Nat) : Nat := bitsOf (s.planLo p) 25 24
/-- The largest round trip that a port accepts, in ns. -/
def State.planRtt (s : State) (p : Nat) : Nat := min 1250 ((mapGet 0x04E2 s.disc.planHi p).toNat % 65536)

/-! ## Identity frames (R357, R358) -/

/-- An identity frame's fields. -/
structure IdFrame where
  major : Nat
  minor : Nat
  md : Nat
  port : Nat
  tier : Nat
  tag : Nat
  gen : Nat
  verdict : Nat
  role : Nat
  roleValid : Bool
  deriving DecidableEq, Repr

/-- The fields of a stored frame. -/
def readIdentity (w : Quad × Quad × Quad) : IdFrame :=
  let a := w.1.toNat
  let b := w.2.1.toNat
  { major := bitsOf a 7 4, minor := bitsOf a 15 8, md := bitsOf a 27 16, port := bitsOf a 32 28, tier := bitsOf a 35 33,
    tag := bitsOf a 55 40, gen := bitsOf b 15 0, verdict := bitsOf b 17 16, role := bitsOf b 22 18, roleValid := bitOf b 23 }

/-- A frame counts: IDVER 1 and every reserved bit zero, of words 0 and 1 and of the five words after word 2. -/
def identityFits (w0 w1 : Quad) (rest : List Quad) : Bool :=
  bitsOf w0.toNat 3 0 = 1 && bitsOf w0.toNat 39 36 = 0 && bitsOf w0.toNat 63 56 = 0 && bitsOf w1.toNat 63 32 = 0
    && rest = List.replicate 5 0

/-- The neighbour's port: its role, where it has one (R359). -/
def IdFrame.nbrPort (f : IdFrame) : Nat := if f.roleValid then f.role else f.port

/-- The frame a port sends. -/
def State.sendIdentity (s : State) (p reason : Nat) : State :=
  let w0 := 1 + 1 <<< 4 + s.get Reg.UBN_SELF.PROTO_MINOR <<< 8 + s.moduleId <<< 16 + p <<< 28 + s.planTier p <<< 33 + s.disc.tag <<< 40
  let w1 := s.disc.gen + s.get (Reg.UBN_NBR_VERDICT.LOCAL p) <<< 16 + s.get (Reg.UBN_NBR_VERDICT.ROLE p) <<< 18
    + s.get (Reg.UBN_NBR_VERDICT.ROLE_VALID p) <<< 23 + reason <<< 24
  s.send (.identity p (BitVec.ofNat 64 w0) (BitVec.ofNat 64 w1) s.fuses.serial (List.replicate 5 0))

/-! ## Verdicts (R359, R361) -/

/-- A verdict: 0 pending, 1 accept, 2 quarantine; the role taken; the reason. -/
structure Verdict where
  v : Nat
  role : Option Nat := none
  reason : Nat := 0
  deriving DecidableEq, Repr

/-- Checks 2 to 7: the reason of the first that applies. -/
def State.earlyCheck (s : State) (p : Nat) (f : IdFrame) : Option Nat :=
  if f.major ≠ 1 ∨ f.minor < s.disc.minMinor ∨ s.disc.maxMinor < f.minor then some 4
  else if f.tag ≠ s.disc.tag then some 5
  else if f.gen ≠ s.disc.gen then some 6
  else if f.md = s.moduleId then some 7
  else if s.planUse p = 0 then some 2
  else if s.planRtt p < s.get (Reg.UBN_PORT_RTT.RTT p) then some 8
  else none

/-- The neighbour is a port's planned pair. -/
def State.isPair (s : State) (p : Nat) (f : IdFrame) : Bool := f.md = s.planMod p && f.nbrPort = s.planPort p

/-- The role a port would hold: its own by check 8, or another's of its group by R361. -/
def State.roleWanted (s : State) (p : Nat) : Option Nat :=
  match (s.port p).frame with
  | none => none
  | some w =>
    let f := readIdentity w
    if (s.earlyCheck p f).isSome || (s.port p).exchAt.isNone then none
    else if s.isPair p f && f.tier = s.planTier p then some p
    else if s.planGroup p = 0 then none
    else (List.range 32).find? fun b => b ≠ p && s.planGroup b = s.planGroup p && s.isPair b f

/-- Every port of a group has received a valid frame or has waited the timeout (R361): once resolved, a group stays so until
the next commit. -/
def State.groupResolved (s : State) (g : Nat) : Bool :=
  (List.range 32).all fun p => s.planGroup p ≠ g || s.portHeard p

/-- The verdict of a port by the table of checks. -/
def State.verdictOf (s : State) (p : Nat) : Verdict :=
  match (s.port p).frame with
  | none => if (s.port p).timedOut then ⟨2, none, 9⟩ else ⟨0, none, 0⟩
  | some w =>
    let f := readIdentity w
    let late (v : Verdict) : Verdict := if (s.port p).timedOut then ⟨2, none, 3⟩ else v
    match s.earlyCheck p f with
    | some r => ⟨2, none, r⟩
    | none =>
      if s.isPair p f && f.tier = s.planTier p then ⟨1, none, 0⟩
      else if f.md = s.planMod p ∧ f.nbrPort ≠ s.planPort p ∧ f.verdict = 0 then late ⟨0, none, 0⟩
      else
        let wrong : Verdict := ⟨2, none, if f.tier ≠ s.planTier p then 10 else 3⟩
        match s.roleWanted p with
        | none => wrong
        | some b =>
          if !s.groupResolved (s.planGroup p) then late ⟨0, none, 0⟩
          else if (List.range 32).any fun q => q ≠ p && s.roleWanted q = some b then wrong
          else ⟨1, some b, 1⟩

/-- The state a port takes from its own and its peer's verdict (R358, R360): TRAINING while one is pending, and again where a new
exchange runs on a port that was UP or MGMT_ONLY (log entry 118, DESIGN CHOICE). -/
def State.setPortState (s : State) (p : Nat) : State :=
  let own := s.get (Reg.UBN_NBR_VERDICT.LOCAL p)
  let peer := s.get (Reg.UBN_NBR_VERDICT.PEER p)
  let st := s.get (Reg.UBN_PORT_STATUS.STATE p)
  let want := if own = 2 ∨ peer = 2 then 2 else if own = 1 ∧ peer = 1 then 3 else 1
  if st = want ∨ (st = 4 ∧ want = 3) then s
  else
    let s := s.put (Reg.UBN_PORT_STATUS.STATE p) want
    if want = 3 then s.narrow p
    else if want = 2 then
      (s.logOnce { code := 0x67, effect := 1, detail := detailPort p (s.get (Reg.UBN_NBR_LO.MODULE_ID p)) false }).put
        Reg.UBN_DISC_STATUS.QUAR_EVENT 1
    else s

/-- The port whose plan entry applies to a port: its role (R362). -/
def State.roleOf (s : State) (p : Nat) : Nat :=
  if s.get (Reg.UBN_NBR_VERDICT.ROLE_VALID p) = 1 then s.get (Reg.UBN_NBR_VERDICT.ROLE p) else p

/-- The alternate that stands in for a primary port which is missing or quarantined: the lowest-numbered one that is UP and whose
ALT_FOR names it (R364). -/
def State.standIn (s : State) (p : Nat) : Option Nat :=
  let up (q : Nat) : Bool := decide (3 ≤ s.get (Reg.UBN_PORT_STATUS.STATE q))
  let lost := (s.port p).missing || s.get (Reg.UBN_PORT_STATUS.STATE p) = 2
  if s.planUse p = 1 && lost && !(List.range 32).any fun q => up q && decide (s.roleOf q = p) then
    (List.range 32).find? fun q => up q && s.planUse (s.roleOf q) = 2 && decide (bitsOf (s.planLo (s.roleOf q)) 30 26 = p)
  else none

/-- A route word or a multicast word with a port in the place of another. -/
def movePort (a p q : Nat) (v : Word) : Word :=
  let swap (v : Word) : Word := if bitOf v.toNat p then setBits (setBits v p p 0) q q 1 else v
  if 0x120000 ≤ a ∧ a < 0x128000 then
    (if a % 8 = 0 then (if bitOf v.toNat 5 && decide (bitsOf v.toNat 4 0 = p) then setBits v 4 0 q else v) else swap v)
  else if 0x130000 ≤ a ∧ a < 0x138000 ∧ a % 8 = 0 then swap v
  else v

/-- Boluk moves the routes and the multicast trees of the ports that have a stand-in, under policy 0x06 and while no domain of the
module is armed (R335, R364, R460, R506). -/
def State.remap (s : State) : State :=
  if s.mgmt.policy.remap = 1 && s.mgmt.boluk && !s.anyArmed then
    forAll ((List.range 32).filterMap fun p => (s.standIn p).map fun q => (p, q)) (fun s x =>
      forAll (s.regs.filter fun e => movePort e.1 x.1 x.2 e.2 ≠ e.2) (fun s e => s.ww e.1 (movePort e.1 x.1 x.2 e.2)) s) s
  else s

/-- SETTLED: every planned port is UP, MGMT_ONLY or missing (R364). -/
def State.settle (s : State) : State :=
  let ok (p : Nat) : Bool :=
    let st := s.get (Reg.UBN_PORT_STATUS.STATE p)
    (s.planUse p ≠ 1 && s.planUse p ≠ 2) || decide (2 ≤ st) || (s.port p).missing
  if s.disc.committed && (List.range 32).all ok then (s.put Reg.UBN_DISC_STATUS.SETTLED 1).remap else s

/-- Take the verdict of one port; a quarantine stays until a new exchange (R360). A changed verdict or role is sent. -/
def State.takeVerdict (s : State) (p : Nat) (v : Verdict) : State :=
  let own := s.get (Reg.UBN_NBR_VERDICT.LOCAL p)
  if own = 2 then s
  else
    let old := (own, s.get (Reg.UBN_NBR_VERDICT.ROLE_VALID p), s.get (Reg.UBN_NBR_VERDICT.ROLE p))
    let rv := if v.role.isSome then 1 else 0
    let s := s.put (Reg.UBN_NBR_VERDICT.LOCAL p) v.v
    let s := (s.put (Reg.UBN_NBR_VERDICT.ROLE p) (v.role.getD 0)).put (Reg.UBN_NBR_VERDICT.ROLE_VALID p) rv
    let shown := if v.v = 1 ∧ s.get (Reg.UBN_NBR_VERDICT.PEER p) = 2 then 11 else v.reason
    let s := s.put (Reg.UBN_NBR_VERDICT.REASON p) shown
    if old = (v.v, rv, v.role.getD 0) then s else s.sendIdentity p v.reason

/-- Verdicts, roles and port states are worked out anew for every port whose exchange runs. -/
def State.evalPorts (s : State) : State :=
  let ports := (List.range 32).filter fun p => (s.port p).exchAt.isSome
  let vs := ports.map fun p => (p, s.verdictOf p)
  let s := forAll vs (fun s x => s.takeVerdict x.1 x.2) s
  (forAll ports (fun s p => s.setPortState p) s).settle

/-- A port's exchange starts now: it sends its frame. -/
def State.startExchange (s : State) (p : Nat) : State :=
  let s := s.modPort p fun x => { x with exchAt := some s.now, timedOut := false }
  let s := (s.put (Reg.UBN_NBR_VERDICT.LOCAL p) 0).put (Reg.UBN_NBR_VERDICT.ROLE_VALID p) 0
  let s := (s.put (Reg.UBN_NBR_VERDICT.ROLE p) 0).put (Reg.UBN_NBR_VERDICT.REASON p) 0
  s.sendIdentity p 0

/-! ## The commands -/

/-- A port finishes electrical training (R325, R346, R355, R356). -/
def State.trainedOp (s : State) (port rtt laneOk : Nat) : State :=
  if 32 ≤ port ∨ s.get (Reg.UBN_PORT_STATUS.STATE port) ≠ 1 ∨ (s.port port).trained then s
  else
    let wm := s.get (Reg.UBN_PORT_CTRL.WIDTH_MAX port)
    let s := (s.put (Reg.UBN_PORT_RTT.RTT port) rtt).put (Reg.UBN_PORT_STATUS.LANE_OK port) laneOk
    match if wm = 0 ∧ laneOk % 256 = 255 then some 255 else pickLanes laneOk (if wm < 2 then 4 else 2) with
    | none => s.linkDownOp port
    | some g =>
      let s := (s.modPort port fun x => { x with trained := true, trainedAt := s.now, lanes := g }).put (Reg.UBN_PORT_STATUS.WIDTH port) (widthOf g)
      if s.disc.committed then (s.startExchange port).evalPorts else s

/-- PORT_TRAINED. -/
def execPortTrained (port rtt laneOk : Nat) (s : State) : Host.Outcome State Fault Refusal := s.answerCtl (s.trainedOp port rtt laneOk)

/-- The plan registers take effect (R354, R355). -/
def State.commitPlan (s : State) : State :=
  let lo := (List.range 32).foldl (fun m p => mapSet 0 m p (s.rw (Reg.UBN_PLAN_LO.addr p))) []
  let hi := (List.range 32).foldl (fun m p => mapSet 0x04E2 m p (s.rw (Reg.UBN_PLAN_HI.addr p))) []
  let s := { s with disc :=
    { committed := true
      moduleId := s.get Reg.UBN_SELF.MODULE_ID
      tag := s.get Reg.UBN_PLAN_ID.SYSTEM_TAG
      gen := s.get Reg.UBN_PLAN_ID.PLAN_GEN
      minMinor := s.get Reg.UBN_DISC_CTRL.MIN_MINOR
      maxMinor := s.get Reg.UBN_DISC_CTRL.MAX_MINOR
      planLo := lo
      planHi := hi
      commitAt := s.now } }
  let s := (s.put Reg.UBN_PART_LINKS_OK.READY 0).put Reg.UBN_DISC_STATUS.SETTLED 0
  let s := forAll (List.range 32) (fun s p => s.modPort p fun x =>
    { x with missing := false, heard := x.frame.isSome || x.trained && decide (x.trainedAt + s.get Reg.UBN_IDENT_TIMEOUT.COUNTS ≤ s.now) }) s
  (forAll ((List.range 32).filter fun p => (s.port p).trained) (fun s p => s.startExchange p) s).evalPorts

/-- A write of UBN_DISC_CTRL. -/
def State.discCtrlOp (s : State) (w : Who) (v : Word) : State :=
  s.gated w Reg.UBN_DISC_CTRL.addr .rw fun s =>
    let s := s.storeReg w Reg.UBN_DISC_CTRL.addr v
    if bitOf v.toNat 0 then (if s.anyArmed then s.put Reg.UBN_DISC_STATUS.COMMIT_REJECT 1 else s.commitPlan) else s

/-- PLAN_COMMIT. -/
def execPlanCommit (w : Who) (v : Word) (s : State) : Host.Outcome State Fault Refusal :=
  s.answerCtl (s.posting w (.reg Reg.UBN_DISC_CTRL.addr v) fun s => s.discCtrlOp w v)

/-- Store a word of a frame as the port's neighbour values (R366). -/
def State.keepFrame (s : State) (p : Nat) (w0 w1 w2 : Quad) : State :=
  let f := readIdentity (w0, w1, w2)
  let s := s.ww (Reg.UBN_NBR_LO.addr p)
    (BitVec.ofNat 32 (f.md + f.port <<< 12 + f.tier <<< 17 + f.major <<< 20 + f.minor <<< 24))
  let s := s.ww (Reg.UBN_NBR_HI.addr p) (BitVec.ofNat 32 (f.tag + f.gen <<< 16))
  let s := s.put2 (Reg.UBN_NBR_SERIAL_LO.SERIAL p) (Reg.UBN_NBR_SERIAL_HI.SERIAL p) w2.toNat
  let s := (s.put (Reg.UBN_NBR_VERDICT.PEER p) f.verdict).put (Reg.UBN_NBR_VERDICT.VALID p) 1
  s.modPort p fun x => { x with frame := some (w0, w1, w2), heard := true }

/-- An identity frame arrives (R356, R357, R360). A quarantined port's exchange runs anew when the peer's generation changes, or
comes for the first time. -/
def State.identityOp (s : State) (p : Nat) (w0 w1 w2 : Quad) (rest : List Quad) : State :=
  if 32 ≤ p ∨ s.get (Reg.UBN_PORT_STATUS.STATE p) = 0 ∨ identityFits w0 w1 rest = false then s
  else
    let old := (s.port p).frame.map fun w => (readIdentity w).gen
    let s := s.keepFrame p w0 w1 w2
    let changed := match old with | some g => g ≠ (readIdentity (w0, w1, w2)).gen | none => true
    if (s.port p).exchAt.isNone then s
    else if changed && s.get (Reg.UBN_NBR_VERDICT.LOCAL p) = 2 then (s.startExchange p).evalPorts
    else s.evalPorts

/-- IDENTITY_FRAME. -/
def execIdentityFrame (port : Nat) (w0 w1 w2 : Quad) (s : State) (rest : List Quad := []) : Host.Outcome State Fault Refusal :=
  s.answerCtl (s.identityOp port w0 w1 w2 rest)

/-- A timeout of a port has come: its wait for a frame since its training ended (R361), or later that of its exchange, with check 1
or the end of a pending verdict. -/
def State.identTimeoutOp (s : State) (p : Nat) : State :=
  match (s.port p).exchAt with
  | none => s
  | some g =>
    if s.get (Reg.UBN_NBR_VERDICT.LOCAL p) ≠ 0 ∨ (s.port p).timedOut then s
    else if !s.portHeard p && decide ((s.port p).trainedAt < g) then
      ((s.atLeast ((s.port p).trainedAt + s.get Reg.UBN_IDENT_TIMEOUT.COUNTS)).modPort p fun x => { x with heard := true }).evalPorts
    else
      let s := s.atLeast (g + s.get Reg.UBN_IDENT_TIMEOUT.COUNTS)
      (s.modPort p fun x => { x with timedOut := true, heard := true }).evalPorts

/-- IDENT_TIMEOUT. -/
def execIdentTimeout (port : Nat) (s : State) : Host.Outcome State Fault Refusal := s.answerCtl (s.identTimeoutOp port)

/-- A planned port without a verdict at its deadline is missing; one with EN 0 is missing at once (R363). -/
def State.missingOp (s : State) (p : Nat) : State :=
  let x := s.port p
  if 32 ≤ p ∨ s.disc.committed = false ∨ (s.planUse p ≠ 1 ∧ s.planUse p ≠ 2) ∨ x.missing
    ∨ s.get (Reg.UBN_NBR_VERDICT.LOCAL p) ≠ 0 then s
  else
    let due := if s.get (Reg.UBN_PORT_CTRL.EN p) = 0 then s.now
      else max s.disc.commitAt x.downAt + 5000000 + s.get Reg.UBN_IDENT_TIMEOUT.COUNTS
    let s := ((s.atLeast due).modPort p fun x => { x with missing := true }).logOnce
      { code := 0x68, effect := 1, detail := detailPort p (s.planMod p) false }
    (s.put Reg.UBN_DISC_STATUS.MISSING_EVENT 1).settle

/-- PLANNED_LINK_MISSING. -/
def execPlannedLinkMissing (port : Nat) (s : State) : Host.Outcome State Fault Refusal := s.answerCtl (s.missingOp port)

end Sys2Proof.Machine
end

