-- ==== Sys2Proof/Machine/Sampler.lean ====
section
/-! DEFINITION. The sampler of the serving engine (R386): penalties, temperature, top-k, top-p and the keyed draw. -/

namespace Sys2Proof.Machine

/-! ## Philox4x32-10 -/

/-- One round. -/
def philoxRound (k0 k1 : Nat) (c : Nat × Nat × Nat × Nat) : Nat × Nat × Nat × Nat :=
  let (c0, c1, c2, c3) := c
  let p0 := 0xD2511F53 * c0
  let p1 := 0xCD9E8D57 * c2
  ((p1 >>> 32) ^^^ c1 ^^^ k0, p1 % 2 ^ 32, (p0 >>> 32) ^^^ c3 ^^^ k1, p0 % 2 ^ 32)

/-- `n` more rounds, the key moved on after each. -/
def philox : Nat → Nat → Nat → Nat × Nat × Nat × Nat → Nat × Nat × Nat × Nat
  | 0, _, _, c => c
  | n + 1, k0, k1, c => philox n ((k0 + 0x9E3779B9) % 2 ^ 32) ((k1 + 0xBB67AE85) % 2 ^ 32) (philoxRound k0 k1 c)

/-! ## Penalties -/

/-- The count of a token. -/
def penCount (m : SMap (Option PenEnt)) (t : Nat) : Nat :=
  match mapGet none m (t % 4096) with | some e => if e.token = t then e.count else 0 | none => 0

/-- The penalty table after a token has been counted. -/
def penInc (m : SMap (Option PenEnt)) (t : Nat) : SMap (Option PenEnt) :=
  let c := penCount m t
  mapSet none m (t % 4096) (some ⟨t, min 16383 (c + 1)⟩)

/-! ## Weights -/

/-- The sampler's fields of a context entry. -/
structure SampleCfg where
  vocab : Nat
  greedy : Bool
  seedLo : Nat
  seedHi : Nat
  invTemp : Word
  rep : Word
  freq : Word
  pres : Word
  topK : Nat
  topP : Nat
  deriving DecidableEq, Repr

/-- fp(x): an exact value as FP32 (R114), itself exact. -/
def fp (x : Num) : Num := f32 (toF32 none false x).1

/-- fp(y / r). A quotient of infinities is no number; y / 0 has no exact value and is left open (log entry 42). -/
def fpDiv (y r : Num) (yw : Word) : Num :=
  match y, r with
  | .nan, _ | _, .nan | .inf _, .inf _ => .nan
  | .inf a, .fin b _ _ => fp (.inf (a != b))
  | .fin a _ _, .inf b => .fin (a != b) 0 0
  | .fin a m e, .fin b n f =>
    if n = 0 then f32 (Config.quotientByZero yw)
    else if m = 0 then .fin (a != b) 0 0
    else
      let k := e - f
      let d := if 0 ≤ k then fp32.round false (a != b) (m <<< k.toNat) n else fp32.round false (a != b) m (n <<< (-k).toNat)
      fp32.decode d.1

/-- The order of the sampler: values as numbers, zeros equal. -/
def numBelow (x y : Num) : Bool := x.lt y && !(x.isZero && y.isZero)

/-- The value of a token after penalties and temperature; none: not a number. -/
def tokenValue (c : SampleCfg) (cnt : Nat) (z : Word) : Option Num :=
  let y := f32 z
  let y := if cnt = 0 then y
    else
      let y := if numBelow (.ofInt 0) y then fpDiv y (f32 c.rep) z else fp (y.mul (f32 c.rep))
      let y := fp (y.add (fp ((f32 c.freq).mul (.ofInt cnt))).negate)
      fp (y.add (f32 c.pres).negate)
  let y := if c.greedy then y else fp (y.mul (f32 c.invTemp))
  if y = .nan then none else some y

/-- Insert a candidate before the first one it precedes. -/
def insertBy {α : Type} (before : α → α → Bool) (x : α) : List α → List α
  | [] => [x]
  | y :: l => if before x y then x :: y :: l else y :: insertBy before x l

/-- Insertion sort; equal elements keep their order. -/
def sortBy {α : Type} (before : α → α → Bool) (l : List α) : List α := l.foldl (fun a x => insertBy before x a) []

/-- The logits of a position by ascending token, the first supplied one of each token below the vocabulary (R255). -/
def logitsOf (vocab : Nat) (l : List (Nat × Word)) : List (Nat × Word) :=
  let first := l.foldl (fun (m : SMap Word) x => if x.1 < vocab ∧ (mapGet? m x.1).isNone then mapInsert m x.1 x.2 else m) []
  first

/-- The shortest prefix of a list of weights whose sum reaches a bound. -/
def prefixTo (tau : Nat) : List (Nat × Nat) → Nat → List (Nat × Nat)
  | [], _ => []
  | x :: l, sum => if tau ≤ sum + x.2 then [x] else x :: prefixTo tau l (sum + x.2)

/-- The first token whose running sum exceeds a number. -/
def drawAt (r : Nat) : List (Nat × Nat) → Nat → Option Nat
  | [], _ => none
  | x :: l, sum => if r < sum + x.2 then some x.1 else drawAt r l (sum + x.2)

/-- `sample(z, pos)` (R386). -/
def sample (c : SampleCfg) (pen : SMap (Option PenEnt)) (z : List (Nat × Word)) (pos : Nat) : Option Nat :=
  let cand := (logitsOf c.vocab z).filterMap fun x => (tokenValue c (penCount pen x.1) x.2).map fun v => (x.1, v)
  match cand with
  | [] => none
  | x :: l =>
    if c.greedy then some (l.foldl (fun b y => if numBelow b.2 y.2 then y else b) x).1
    else
      let cand := if c.topK = 0 then cand
        else (sortBy (fun a b => numBelow b.2 a.2) cand).take (min c.topK 1024)
      let m := cand.foldl (fun b y => if numBelow b y.2 then y.2 else b) x.2
      let m := match cand with | y :: _ => if c.topK = 0 then m else y.2 | [] => m
      let weight (v : Num) : Nat :=
        match f32 (exp2Fx false (fp ((fp (v.add m.negate)).mul (fpc 0x3FB8AA3B)))).1 with
        | .fin s n e => (roundGrid s n e (-32)).toNat
        | _ => 0
      let u := cand.map fun y => (y.1, weight y.2)
      let total := u.foldl (fun n y => n + y.2) 0
      let u := if c.topP = 0 then u
        else prefixTo (ceilDiv (total * c.topP) 65536) (sortBy (fun a b => decide (b.2 < a.2) || (decide (a.2 = b.2) && decide (a.1 < b.1))) u) 0
      let u := sortBy (fun a b => decide (a.1 < b.1)) u
      let sum := u.foldl (fun n y => n + y.2) 0
      let (x0, x1, _, _) := philox 10 c.seedLo c.seedHi (pos % 2 ^ 32, 0, 0, 0)
      drawAt ((x1 * 2 ^ 32 + x0) * sum / 2 ^ 64) u 0

end Sys2Proof.Machine
end

