-- ==== Sys2Proof/Machine/Serving.lean ====
section
/-! DEFINITION. The serving engine without its park store: contexts, commands, the serving boundary, SMP commits, EMITs and
cancels (R257, R258, R368 to R392). -/

namespace Sys2Proof.Machine

/-! ## Contexts (R368, R371) -/

def State.ctxState (s : State) (p c : Nat) : Nat := s.get (Reg.SRV_CTX_STATE.STATE p c)
def State.setCtxState (s : State) (p c v : Nat) : State := s.put (Reg.SRV_CTX_STATE.STATE p c) v
def State.ctxLen (s : State) (p c : Nat) : Nat := s.get (Reg.SRV_CTX_LEN.LEN p c)
def State.setCtxLen (s : State) (p c v : Nat) : State := s.put (Reg.SRV_CTX_LEN.LEN p c) v
def State.ctxGen (s : State) (p c : Nat) : Nat := s.get (Reg.SRV_CTX_STATE.GEN p c)

/-- A context samples: ACTIVE, no latch, not waiting for pages (R368). -/
def State.samples (s : State) (p c : Nat) : Bool :=
  s.ctxState p c = 2 && s.get (Reg.SRV_CTX_STATE.LATCH p c) = 0 && s.get (Reg.SRV_CTX_STATE.KV_WAIT p c) = 0

/-- Store the draft buffer of a context. -/
def State.setDrafts (s : State) (p c : Nat) (l : List Nat) : State :=
  (s.modCtx p c fun x => { x with drafts := l }).put (Reg.SRV_CTX_STATE.DRAFT_N p c) l.length

/-- The contexts of an engine that have been in use, in ascending number. -/
def State.liveCtxs (s : State) (p : Nat) : List Nat := (s.srvAt p).ctxs.map (·.1)

/-- The course number of what an engine does now: the boundary's, or the partition's (R387). -/
def State.srvCourse (s : State) (p : Nat) : Nat := match (s.srvAt p).boundary with | some k => k | none => s.courseOf p

/-- A record of a context, with the fields that every record carries. -/
def State.newRec (s : State) (p c kind : Nat) : Rec :=
  { kind, ctx := c, part := p, course := s.srvCourse p, user := s.rw (Reg.SRV_CTX_USER.addr p c) }

/-- A context returns to FREE: its pages go back to the pool. LATCH, GAP and PEND_FULL stay (R371). -/
def State.freeCtx (s : State) (p c : Nat) : State :=
  let w := s.rw (Reg.SRV_CTX_STATE.addr p c)
  let s := s.ww (Reg.SRV_CTX_STATE.addr p c) (w &&& 0x68)
  let s := s.setCtxLen p c 0
  s.modCtx p c fun x => { live := true, gapOut := x.gapOut, desc := x.desc, table := x.table }

/-! ## Drafts and SYNCs (R383) -/

/-- The target's generation changes: the buffer empties, and a linked draft context is told from position `q` on. -/
def State.newGen (s : State) (p c q : Nat) : State :=
  let g := (s.ctxGen p c + 1) % 65536
  let s := (s.put (Reg.SRV_CTX_STATE.GEN p c) g).setDrafts p c []
  if s.get (Reg.SRV_CTX_SINK.LINK_EN p c) = 1 then
    s.present p c (.sync p (s.get (Reg.SRV_CTX_SINK.LINK_PART p c)) (s.get (Reg.SRV_CTX_SINK.LINK_CTX p c)) g q
      (((s.ctx p c).hist.take (s.ctxLen p c)).drop q))
  else s

/-- The first newly committed token that differs from the draft buffer or has no entry there. -/
def firstMiss : List Nat → List Nat → Nat → Option Nat
  | [], _, _ => none
  | _ :: _, [], q => some q
  | t :: ts, d :: ds, q => if t = d then firstMiss ts ds (q + 1) else some q

/-- A target's LEN has grown from `old`: compare with the draft buffer. -/
def State.lenGrown (s : State) (p c old : Nat) : State :=
  if s.get (Reg.SRV_CTX_CFG.ROLE p c) = 1 then s
  else
    let x := s.ctx p c
    let new := x.hist.drop old
    match firstMiss new x.drafts old with
    | none => s.setDrafts p c (x.drafts.drop new.length)
    | some q => s.newGen p c q

/-! ## Cancels (R391, R392) -/

/-- Put back the penalty entries that rolled-back tokens replaced, newest first. -/
def undoPenalty (m : SMap (Option PenEnt)) (l : List (Nat × Option (Nat × Option PenEnt))) : SMap (Option PenEnt) :=
  l.reverse.foldl (fun m e => match e.2 with | some (k, old) => mapSet none m k old | none => m) m

/-- A cancel latches now. -/
def State.latchCancel (s : State) (p c tag : Nat) : State :=
  if s.ctxState p c ≠ 2 then
    s.present p c (.record { s.newRec p c 2 with status := 2, tag := tag, position := s.ctxLen p c })
  else
    let x := s.ctx p c
    let len := match x.undo with | u :: _ => u.1 | [] => s.ctxLen p c
    let n := s.ctxLen p c - len
    let s := (s.put (Reg.SRV_CTX_STATE.LATCH p c) 1).setCtxState p c 1
    let s := s.setCtxLen p c len
    let s := s.modCtx p c fun x => { x with
      hist := x.hist.take len
      pend := x.pend.filter fun t => decide (t.pos < len)
      penalty := undoPenalty x.penalty x.undo
      undo := [] }
    let s := s.newGen p c len
    s.present p c (.record { s.newRec p c 2 with tag := tag, done := decide (n = 0), count := n, position := len })

/-- A write of SRV_DB_CANCEL is accepted (R375). Doorbell writes to a replayed partition are discarded (R515). -/
def State.fastCancelOp (s : State) (w : Who) (p : Nat) (v : Word) : State :=
  s.gated w (Reg.SRV_DB_CANCEL.addr p) .wo fun s =>
    if s.replaying p then s.inc (Reg.MGT_PART_HOST_DENIED.COUNT p)
    else
      let c := v.toNat % 256
      let tag := bitsOf v.toNat 31 16
      (s.recEvent 2 p c false [tag] []).latchCancel p c tag

/-- FAST_CANCEL. -/
def execFastCancel (w : Who) (p : Nat) (v : Word) (s : State) : Host.Outcome State Fault Refusal :=
  s.answer (s.posting w (.reg (Reg.doorbell p 0x10) v) fun s => s.fastCancelOp w p v)

/-! ## The context entry (R371) -/

/-- A write to a context entry: W1C fields at once, RW fields only while the context is FREE. -/
def State.ctxWriteOp (s : State) (w : Who) (p c off : Nat) (v : Word) : State :=
  let a := Reg.SRV_CTX_STATE.addr p c + off
  if 256 ≤ c ∨ 64 ≤ off then s
  else if off < 8 ∨ s.ctxState p c = 0 then s.plainWrite w a v
  else s.gated w a .rw fun s => s.put (Reg.SRV_STATUS.ENTRY_REJECT p) 1

/-- SRV_CTX_WRITE. -/
def execSrvCtxWrite (w : Who) (p c off : Nat) (v : Word) (s : State) : Host.Outcome State Fault Refusal :=
  s.answerCtl (s.posting w (.reg (Reg.window p (0x8000 + 64 * c + off)) v) fun s => s.ctxWriteOp w p c off v)

/-! ## Commands (R372 to R374) -/

/-- The 16 bytes of a command, as two words. -/
def SrvCmd.words (k : SrvCmd) : List Nat :=
  [k.op + k.ctx <<< 8 + k.tag <<< 16 + k.arg0.toNat <<< 32, k.arg1.toNat + k.at_ <<< 32 + (if k.atEn then 1 <<< 48 else 0)]

/-- The COMMAND record of a command. -/
def State.cmdDone (s : State) (p : Nat) (k : SrvCmd) (status : Nat) : State :=
  s.cmplRecord p { s.newRec p k.ctx 3 with status := status, tag := k.tag }

/-- A submitted command joins the queue of 64 (R372). An ABORT whose context has a PARK in the queue aborts it before it
starts: the PARK leaves the queue, and both complete (R397; log entry 98, DESIGN CHOICE). With AT_EN 1 it is due at its course only, and
waits in the queue. -/
def State.submitCmd (s : State) (p : Nat) (v : Word) : State :=
  let e := s.srvAt p
  if 64 ≤ e.cmds.length then s.put (Reg.SRV_STATUS.CMD_LOST p) 1
  else
    let a := e.cmd0.toNat
    let k : SrvCmd := { op := a % 256, ctx := bitsOf a 15 8, tag := bitsOf a 31 16, arg0 := e.cmd1, arg1 := e.cmd2,
                        at_ := v.toNat % 65536, atEn := bitOf v.toNat 16 }
    match if k.op = 10 && !k.atEn then e.cmds.find? fun q => q.op = 7 && q.ctx = k.ctx else none with
    | some q => ((s.setSrv p { e with cmds := e.cmds.erase q }).cmdDone p q 1).cmdDone p k 0
    | none => s.setSrv p { e with cmds := e.cmds ++ [k] }

/-- A write to the doorbell page, the cancel apart (R375, R515). -/
def State.doorbell (s : State) (w : Who) (p off : Nat) (v : Word) : State :=
  s.gated w (Reg.doorbell p off) .wo fun s =>
    if s.replaying p then s.inc (Reg.MGT_PART_HOST_DENIED.COUNT p)
    else if off = 0 then s.modSrv p fun e => { e with cmd0 := v }
    else if off = 4 then s.modSrv p fun e => { e with cmd1 := v }
    else if off = 8 then s.modSrv p fun e => { e with cmd2 := v }
    else if off = 12 then s.submitCmd p v
    else if 0x20 ≤ off ∧ off < 0x30 ∧ off % 4 = 0 then s.put (Reg.SRV_RING_CONS.CONS p ((off - 0x20) / 4)) (v.toNat % 65536)
    else s

/-- A boundary command (R373). -/
def boundaryOp (op : Nat) : Bool := decide (1 ≤ op) && decide (op ≤ 7)

/-- An opcode that is not reserved. -/
def knownOp (op : Nat) : Bool := decide (1 ≤ op) && decide (op ≤ 11)

/-- The command at the head may take effect now (R373): a boundary command, or one with AT_EN 1, at a serving boundary. -/
def State.cmdDue (s : State) (p : Nat) (k : SrvCmd) : Bool :=
  if boundaryOp k.op || (k.atEn && knownOp k.op) then
    match (s.srvAt p).boundary with | some n => !k.atEn || decide (n % 65536 = k.at_) | none => false
  else true

/-- OPEN, by its effect. -/
def State.openCmd (s : State) (p : Nat) (k : SrvCmd) : State :=
  if s.ctxState p k.ctx ≠ 0 then s.cmdDone p k 2
  else
    let s := s.freeCtx p k.ctx
    let s := (s.put (Reg.SRV_CTX_STATE.GAP p k.ctx) 0).setCtxState p k.ctx 1
    s.cmdDone p k 0

/-- APPEND. -/
def State.appendCmd (s : State) (p : Nat) (k : SrvCmd) : State :=
  let st := s.ctxState p k.ctx
  let toks := ([k.arg0, k.arg1].filter fun w => w ≠ 0xFFFFFFFF).map (·.toNat)
  let x := s.ctx p k.ctx
  if (st ≠ 1 ∧ st ≠ 2) ∨ (toks.any fun t => s.get (Reg.SRV_CTX_CFG.VOCAB_M1 p k.ctx) < t) ∨ 64 < x.input.length + toks.length then
    s.cmdDone p k 2
  else (s.setCtx p k.ctx { x with input := x.input ++ toks }).cmdDone p k 0

/-- A context starts to generate (R369). -/
def State.startGo (s : State) (p c : Nat) : State :=
  ((s.setCtxState p c 2).put (Reg.SRV_CTX_STATE.LATCH p c) 0).modCtx p c fun x => { x with sinceGo := 0 }

/-- GO. -/
def State.goCmd (s : State) (p : Nat) (k : SrvCmd) : State :=
  if s.ctxState p k.ctx ≠ 1 then s.cmdDone p k 2
  else
    let s := s.startGo p k.ctx
    let s := if bitOf k.arg0.toNat 0 then s.modCtx p k.ctx fun x => { x with penalty := [] } else s
    s.cmdDone p k 0

/-- CANCEL. -/
def State.cancelCmd (s : State) (p : Nat) (k : SrvCmd) : State :=
  let ok := s.ctxState p k.ctx = 2
  (s.latchCancel p k.ctx k.tag).cmdDone p k (if ok then 0 else 2)

/-- SET. -/
def State.setCmd (s : State) (p : Nat) (k : SrvCmd) : State :=
  let off := k.arg0.toNat
  if s.ctxState p k.ctx = 0 ∨ off < 8 ∨ 0x3C < off ∨ off = 0xC ∨ off % 4 ≠ 0 then s.cmdDone p k 2
  else
    let a := Reg.SRV_CTX_STATE.addr p k.ctx + off
    let s := match findRow a with
      | some r => s.ww a ((r.fields.filter fun (f : FieldRow) => f.acc = Access.rw).foldl (fun old f => fieldAfter f old k.arg1) (s.rw a))
      | none => s
    s.cmdDone p k 0

/-- CLOSE. -/
def State.closeCmd (s : State) (p : Nat) (k : SrvCmd) : State :=
  if s.ctxState p k.ctx ≠ 1 then s.cmdDone p k 2 else (s.freeCtx p k.ctx).cmdDone p k 0

/-! ## EMIT (R258, R381, R387) -/

/-- Cut a list into pieces of at most ten. -/
def tens {α : Type} : Nat → List α → List (List α)
  | 0, _ => []
  | fuel + 1, l => if l.isEmpty then [] else l.take 10 :: tens fuel (l.drop 10)

/-- Present some committed tokens: a record, or tokens for a sink context. -/
def State.presentToks (s : State) (p c tag : Nat) (l : List PendTok) : State :=
  let kind := s.get (Reg.SRV_CTX_CFG.SINK_KIND p c)
  let id := s.get (Reg.SRV_CTX_SINK.SINK_ID p c)
  if 2 ≤ kind then s.present p c (.tokens p c (id / 256) (id % 256) (decide (kind = 3)) l)
  else
    let r := s.newRec p c 0
    s.present p c (.record { r with
      tag := tag
      count := l.length
      position := (l.head?.map (·.pos)).getD 0
      done := l.any (·.stop)
      tokens := l.map (·.tok) })

/-- The engine takes an EMIT in its present cycle. -/
def State.takeEmit (s : State) (p : Nat) (j : EmitJob) : State :=
  let c := j.ctx
  if 256 ≤ c ∨ s.ctxState p c = 0 then s.logEvent { code := 0xA0, effect := 1, source := 1, part := p, detail := c % 256 }
  else if j.data then
    s.present p c (.record { s.newRec p c 1 with tag := j.tag, count := j.payload.length / 64, payload := j.payload })
  else
    let x := s.ctx p c
    match x.pend.getLast? with
    | none => s
    | some t =>
      let s := s.setCtx p c { x with pend := [], undo := x.undo.filter fun u => decide (t.pos < u.1) }
      forAll (tens 7 x.pend) (fun s l => s.presentToks p c j.tag l) s

/-- The earliest of a list of jobs, the first of several. -/
def earliest {α : Type} (due : α → Nat) : List α → Option (Nat × α)
  | [] => none
  | x :: l =>
    match earliest due l with
    | none => some (0, x)
    | some (i, y) => if due y < due x then some (i + 1, y) else some (0, x)

/-- The partition whose engine has a rank in a domain. -/
def State.rankPart (s : State) (d rank : Nat) : Nat := (s.members d)[rank]?.getD d

/-- The next EMIT of a domain presents, once its present cycle has come and every SMP before it has committed. -/
def State.emitOp (s : State) (d : Nat) : State :=
  match earliest (·.due) (s.dom d).emits with
  | none => s
  | some (i, j) =>
    if s.canRun d j.due && !(s.dom d).smps.any fun m => decide (m.due < j.due) then
      (s.modDom d fun x => { x with emits := dropAt x.emits i }).takeEmit (s.rankPart d j.rank) j
    else s

/-- EMIT_PRESENT. -/
def execEmitPresent (d : Nat) (s : State) : Host.Outcome State Fault Refusal := s.answerCtl (s.emitOp d)

/-! ## SMP (R256, R257, R385) -/

/-- The sampler's view of a context entry. -/
def State.sampleCfg (s : State) (p c : Nat) : SampleCfg :=
  { vocab := s.get (Reg.SRV_CTX_CFG.VOCAB_M1 p c) + 1
    greedy := s.get (Reg.SRV_CTX_CFG.GREEDY p c) = 1
    seedLo := s.get (Reg.SRV_CTX_SEED_LO.SEED p c)
    seedHi := s.get (Reg.SRV_CTX_SEED_HI.SEED p c)
    invTemp := s.rw (Reg.SRV_CTX_INV_TEMP.addr p c)
    rep := s.rw (Reg.SRV_CTX_REP.addr p c)
    freq := s.rw (Reg.SRV_CTX_FREQ.addr p c)
    pres := s.rw (Reg.SRV_CTX_PRES.addr p c)
    topK := s.get (Reg.SRV_CTX_TOP.TOP_K p c)
    topP := s.get (Reg.SRV_CTX_TOP.TOP_P p c) }

/-- Commit one sampled token (R385). -/
def State.commitTok (s : State) (p c t : Nat) (stop : Bool) : State :=
  let len := s.ctxLen p c
  let x := s.ctx p c
  let full := 64 ≤ x.pend.length
  let s := if full then s.put (Reg.SRV_CTX_STATE.PEND_FULL p c) 1 else s
  (s.setCtx p c { x with
    hist := x.hist ++ [t]
    sinceGo := x.sinceGo + 1
    pend := if full then x.pend else x.pend ++ [⟨len, t, s.ctxGen p c, stop⟩]
    undo := x.undo ++ [(len, some (t % 4096, mapGet none x.penalty (t % 4096)))]
    penalty := penInc x.penalty t }).setCtxLen p c ((len + 1) % 2 ^ 32)

/-- The loop of R385 over the positions that remain: ACCEPTED, COMMITTED, the last token. -/
def State.sampleLoop (s : State) (p c : Nat) : List (List (Nat × Word)) → List Nat → Nat → Nat → Nat → State × Nat × Nat × Nat
  | [], _, acc, n, last => (s, acc, n, last)
  | z :: zs, drafts, acc, n, last =>
    match sample (s.sampleCfg p c) (s.ctx p c).penalty z (s.ctxLen p c) with
    | none => (s, acc, n, last)
    | some t =>
      let maxNew := s.get (Reg.SRV_CTX_MAX_NEW.MAX_NEW p c)
      let stop := (s.get (Reg.SRV_CTX_STOP.STOP_EN p c) = 1 && t = s.get (Reg.SRV_CTX_STOP.STOP_TOKEN p c))
        || (maxNew ≠ 0 && (s.ctx p c).sinceGo + 1 = maxNew)
      let s := s.commitTok p c t stop
      if stop then (s.setCtxState p c 1, acc, n + 1, t)
      else if zs.isEmpty ∨ drafts.head? ≠ some t then (s, acc, n + 1, t)
      else s.sampleLoop p c zs (drafts.drop 1) (acc + 1) (n + 1) t

/-- The outcome of an SMP at its commit point: the state, s[DST] and s[DST + 1]. -/
def State.smpOutcome (s : State) (p : Nat) (j : SmpJob) : State × Nat × Nat :=
  let c := j.ctx
  if 256 ≤ c ∨ s.ctxState p c = 0 then
    (s.logEvent { code := 0xA0, effect := 1, source := 1, part := p, detail := c % 256 }, 0xFFFFFFFF, 256)
  else if !s.samples p c then (s, 0xFFFFFFFF, 256)
  else
    let old := s.ctxLen p c
    let (s, acc, n, last) := s.sampleLoop p c j.logits (s.ctx p c).drafts 0 0 0xFFFFFFFF
    if n = 0 then (s, 0xFFFFFFFF, 256) else (s.lenGrown p c old, last, acc + n <<< 4)

/-- The next SMP of a domain commits, once its result cycle has come and every EMIT up to it has been presented. -/
def State.smpOp (s : State) (d : Nat) : State :=
  match earliest (·.due) (s.dom d).smps with
  | none => s
  | some (i, j) =>
    if s.canRun d j.due && !(s.dom d).emits.any fun m => decide (m.due ≤ j.due) then
      let s := s.modDom d fun x => { x with smps := dropAt x.smps i }
      let (s, a, b) := s.smpOutcome (s.rankPart d j.rank) j
      forAll j.ash (fun s ash => (s.coreSet ash j.dst (BitVec.ofNat 32 a)).coreSet ash (j.dst + 1) (BitVec.ofNat 32 b)) s
    else s

/-- SMP_COMMIT. -/
def execSmpCommit (d : Nat) (s : State) : Host.Outcome State Fault Refusal := s.answer (s.smpOp d)

/-! ## The serving boundary (R370) -/

/-- Tokens reach a sink context (R381). -/
def State.takeTokens (s : State) (p c sp : Nat) (draft : Bool) (l : List PendTok) : State :=
  let st := s.ctxState p c
  let toks := l.map (·.tok)
  let first := l.head?.map fun t => (t.pos, t.gen)
  if st = 0 ∨ st = 4 then s.dropSink p c
  else if draft then
    let s := s.recEvent 4 p c true [l.length + (first.map (·.2)).getD 0 <<< 16 + sp <<< 48, (first.map (·.1)).getD 0] (tokBytes toks)
    forAll l (fun s t =>
      let ds := (s.ctx p c).drafts
      if t.gen = s.ctxGen p c ∧ t.pos = s.ctxLen p c + ds.length ∧ ds.length < 16 then s.setDrafts p c (ds ++ [t.tok])
      else s.inc (Reg.SRV_DRAFT_STALE.COUNT p)) s
  else
    let x := s.ctx p c
    if 64 < x.input.length + toks.length then s.dropSink p c
    else (s.recEvent 3 p c true [toks.length + sp <<< 48] (tokBytes toks)).setCtx p c { x with input := x.input ++ toks }

/-- A SYNC is applied (R384); its record entry carries the number of tokens in BODY word 5 (log entry 57). -/
def State.takeSync (s : State) (p c sp gen q : Nat) (toks : List Nat) : State :=
  let st := s.ctxState p c
  if st = 0 ∨ st = 4 then s
  else
    let len := min (s.ctxLen p c) q
    let s := s.recEvent 5 p c true [gen + sp <<< 48, q, toks.length] (tokBytes toks)
    let s := (s.put (Reg.SRV_CTX_STATE.GEN p c) gen).setCtxLen p c len
    s.modCtx p c fun x => { x with
      hist := x.hist.take len
      pend := x.pend.filter fun t => decide (t.pos < len)
      undo := x.undo.filter fun u => decide (u.1 < len)
      input := toks ++ x.input }

/-- One item of the inbox; a replayed partition takes none from a partition that is not replayed (R515). -/
def State.takeHeld (s : State) (p : Nat) (h : Held) : State :=
  let barred (sp : Nat) : Bool := s.replaying p && !s.replaying sp
  match h with
  | .tokens sp _ _ c draft l => if barred sp then s else s.takeTokens p c sp draft l
  | .sync sp _ c gen q toks => if barred sp then s else s.takeSync p c sp gen q toks
  | .record _ => s

/-- What an input token starts or cancels (R369, R392). -/
def State.inputToken (s : State) (p c t : Nat) : State :=
  if s.get (Reg.SRV_CTX_CFG.GO_EN p c) = 1 ∧ t = s.get (Reg.SRV_CTX_GO_TOKEN.TOKEN p c) ∧ s.ctxState p c = 1 then s.startGo p c
  else if s.get (Reg.SRV_CTX_CFG.CANCEL_EN p c) = 1 ∧ t = s.get (Reg.SRV_CTX_CANCEL_TOKEN.TOKEN p c) then s.latchCancel p c 0
  else s

/-- Up to 32 input tokens of a context are committed. -/
def State.commitInputs (s : State) (p c : Nat) : State :=
  let st := s.ctxState p c
  if st = 0 ∨ st = 4 then s
  else
    let x := s.ctx p c
    let old := s.ctxLen p c
    let toks := x.input.take 32
    let s := s.setCtx p c { x with
      input := x.input.drop 32
      inToks := toks
      hist := x.hist ++ toks
      undo := if x.undo.isEmpty then [] else x.undo ++ (List.range toks.length).map fun i => (old + i, none) }
    if toks.isEmpty then s
    else
      let s := (s.setCtxLen p c ((old + toks.length) % 2 ^ 32)).lenGrown p c old
      forAll toks (fun s t => s.inputToken p c t) s

/-- The pages of the pool that no context holds, lowest first. -/
def State.freePages (s : State) (p : Nat) : List Nat :=
  let held := (s.srvAt p).ctxs.flatMap fun x => x.2.pages
  (List.range (min 512 (s.get (Reg.SRV_KV_CFG.PAGES p)))).filter fun i => !held.contains i

/-- Pages for a number of positions. -/
def State.pagesFor (s : State) (p n : Nat) : Nat := ceilDiv n (2 ^ s.get (Reg.SRV_KV_CFG.POS_LOG2 p))

/-- A context is replayed: its recorded KV_WAIT entries stand in the place of what the engine finds (R515, R516). -/
def State.replayedCtx (s : State) (p c : Nat) : Bool :=
  s.replaying p && (s.get Reg.REPLAY_CTX.ONE = 0 || s.get Reg.REPLAY_CTX.CTX = c)

/-- KV_WAIT changes, and the record keeps it (R512). -/
def State.setKvWait (s : State) (p c : Nat) (b : Bool) : State :=
  let v := if b then 1 else 0
  if s.replayedCtx p c then s
  else if s.get (Reg.SRV_CTX_STATE.KV_WAIT p c) = v then s
  else (s.put (Reg.SRV_CTX_STATE.KV_WAIT p c) v).recEvent 6 p c true [v] []

/-- A context takes the pages it must hold (R379). -/
def State.allocCtx (s : State) (p c : Nat) : State :=
  let st := s.ctxState p c
  if st = 0 ∨ st = 4 then s
  else
    let x := s.ctx p c
    let need := s.pagesFor p (s.ctxLen p c + if st = 2 then x.drafts.length + 16 else 0)
    let new := (s.freePages p).take (need - x.pages.length)
    let s := if new.isEmpty then s else s.setCtx p c { x with pages := x.pages ++ new }
    s.setKvWait p c (decide (x.pages.length + new.length < need))

/-- KV pages are allocated in ascending context number; an episode without pages is logged once. -/
def State.allocPages (s : State) (p : Nat) : State :=
  let s := forAll (s.liveCtxs p) (fun s c => s.allocCtx p c) s
  let waits := (s.liveCtxs p).any fun c => s.get (Reg.SRV_CTX_STATE.KV_WAIT p c) = 1
  let s := if waits && !(s.srvAt p).kvEpisode then
      (s.logOnce { code := 0xA1, effect := 1, part := p }).put (Reg.SRV_STATUS.KV_EXHAUSTED p) 1
    else s
  s.modSrv p fun e => { e with kvEpisode := waits }

/-- Two tokens to a word. -/
def pairWords (n : Nat) (l : List Nat) : List Nat :=
  (List.range n).map fun i => (l[2 * i]?.getD 0) % 2 ^ 32 + ((l[2 * i + 1]?.getD 0) % 2 ^ 32) <<< 32

/-- The descriptor of a context (R377). -/
def State.descBytes (s : State) (p c : Nat) : List Byte :=
  let st := s.ctxState p c
  if st = 0 ∨ st = 4 then List.replicate 256 0
  else
    let x := s.ctx p c
    let len := s.ctxLen p c
    let w1 := (if s.samples p c then 1 else 0) + st <<< 1 + x.drafts.length <<< 8 + x.inToks.length <<< 16 + s.ctxGen p c <<< 32
    quadBytes ([len + ((len + x.drafts.length) % 2 ^ 32) <<< 32, w1, 0, 0, 0, 0, 0, 0] ++ pairWords 8 x.drafts ++ pairWords 16 x.inToks)

/-- 32 entries of a page table. -/
def tableGran (pages : List Nat) (g : Nat) : List Byte :=
  (List.range 32).flatMap fun i => leBytes 2 (pages[32 * g + i]?.getD 0xFFFF)

/-- What of a context has changed and is landed: addresses and granules (R376 to R378). -/
def State.changedGrans (s : State) (p c : Nat) : List (Nat × List Byte) :=
  let x := s.ctx p c
  let pt := s.get (Reg.SRV_PT_BASE.BASE p) + 4096 * c
  let db := s.get (Reg.SRV_DESC_BASE.BASE p) + 256 * c
  let gs := (List.range 64).filter fun g =>
    match x.table with | none => true | some old => tableGran old g ≠ tableGran x.pages g
  let d := s.descBytes p c
  gs.map (fun g => (pt + 64 * g, tableGran x.pages g))
    ++ (if x.desc = some d then [] else (List.range 4).map fun i => (db + 64 * i, (d.drop (64 * i)).take 64))

/-- Land granules in one ashlar, then the increment of the descriptor counter. -/
def State.landServing (s : State) (ash : Nat) (gs : List (Nat × List Byte)) (cairn inc w : Nat) : State :=
  let id := s.fab.nextId
  match gs with
  | [] => if inc = 0 then s else s.cairnAdd ash cairn inc w
  | (a, _) :: _ =>
    let l := gs.map fun g => ({ ash, addr := g.1, data := g.2, ready := w, cairn, inc, src := .serving, pkt := id, start := a } : Gran)
    s.modFab fun f => { f with nextId := id + 1, land := f.land ++ l }

/-- Changed page tables and descriptors are landed, then 1 is added to the descriptor counter of every ashlar (R370, R378). -/
def State.landDescs (s : State) (p : Nat) : State :=
  let d := s.leadOf p
  let gs := (s.liveCtxs p).flatMap fun c => s.changedGrans p c
  let s := forAll (s.liveCtxs p) (fun s c =>
    let d := s.descBytes p c
    s.modCtx p c fun x => { x with desc := some d, table := some x.pages }) s
  forAll (partAsh p) (fun s a => s.landServing a gs (s.get (Reg.SRV_DESC_CAIRN.N p)) 1 (s.wallNow d)) s

/-- A resumed context becomes IDLE with its parked LEN and GEN incremented (R394). -/
def State.resumedCtx (s : State) (p c : Nat) : State :=
  match (s.ctx p c).resumed with
  | none => s
  | some (len, gen) =>
    (((s.setCtxState p c 1).setCtxLen p c len).put (Reg.SRV_CTX_STATE.GEN p c) ((gen + 1) % 65536)).modCtx p c
      fun x => { x with resumed := none, xfer := none }

end Sys2Proof.Machine
end

