-- ==== Sys2Proof/Machine/Park.lean ====
section
/-! DEFINITION. The park store (R393 to R397, R414) and the work of the serving boundary (R370, R373). Parked pages lie in the
moraine granules of the park region, the parked entry and penalty table in the last of them; the engine's own copy of the
tokens is kept with the directory entry (log entry 44). -/

namespace Sys2Proof.Machine

/-! ## The directory -/

/-- Change the park store. -/
def State.modPark (s : State) (f : Park → Park) : State := { s with park := f s.park }
/-- Granules of the park store that handles hold. -/
def State.parkUsed (s : State) : List Nat := s.park.handles.flatMap fun h => h.grans
/-- Size of the park store in granules (R405). -/
def State.parkSize (s : State) : Nat := s.get (Reg.MOR_SIZE.SIZE 1)
/-- First byte of a park-store granule in the moraine. -/
def State.parkByte (s : State) (g : Nat) : Nat := (s.get (Reg.MOR_BASE.BASE 1) + g) * 65536
/-- The directory entry of a slot. -/
def State.handleAt (s : State) (slot : Nat) : Option Handle := s.park.handles.find? fun h => h.slot = slot
/-- A handle's number. -/
def Handle.number (h : Handle) : Nat := h.slot + h.gen <<< 16
/-- Store the directory entry of a slot. -/
def State.setHandle (s : State) (h : Handle) : State :=
  s.modPark fun k => { k with handles := k.handles.map fun x => if x.slot = h.slot then h else x }
/-- Handles in use. -/
def State.handlesUsed (s : State) : Nat := (s.park.handles.filter fun h => !h.freed).length

/-- The `n` lowest free granules of the park store. -/
def freeGrans (used : List Nat) (size : Nat) : Nat → Nat → List Nat
  | 0, _ => []
  | fuel + 1, g => if size ≤ g then [] else if used.contains g then freeGrans used size fuel (g + 1) else g :: freeGrans used size fuel (g + 1)

/-- Granules for a new handle, if so many are free. -/
def State.takeGrans (s : State) (n : Nat) : Option (List Nat) :=
  let used := s.parkUsed
  let l := (freeGrans used s.parkSize (n + used.length) 0).take n
  if l.length < n then none else some l

/-- The lowest slot of the directory that no handle uses. -/
def State.freeSlot (s : State) : Option Nat :=
  let used := (s.park.handles.filter fun h => !h.freed).map (·.slot)
  ((List.range (used.length + 1)).find? fun i => !used.contains i).filter fun i => decide (i < 65536)

/-- A handle is freed with its granules. -/
def State.freeHandle (s : State) (slot : Nat) : State :=
  s.modPark fun k => { k with handles := k.handles.filter fun h => h.slot ≠ slot }

/-- A resume reads the handle. -/
def Handle.pinned (h : Handle) : Bool := decide (0 < h.pins)

/-- A handle expires (R395): its EXPIRY record, and its granules unless Boluk keeps them. -/
def State.expire (s : State) (h : Handle) : State :=
  let r : Rec := { kind := 4, ctx := 0, part := h.part, course := s.srvCourse h.part, result := BitVec.ofNat 32 h.number }
  let s := match s.ringWrite h.part (s.get (Reg.SRV_CTRL.CMPL_RING h.part)) r with
    | some s' => s'
    | none => ((s.inc (Reg.SRV_EMIT_DROPS.COUNT h.part)).put (Reg.SRV_STATUS.EMIT_DROP h.part) 1).logEvent
        { code := 0xA3, effect := 1, part := h.part }
  let s := s.inc Reg.SRV_PARK_EXPIRED.COUNT
  if s.get Reg.SRV_PARK_CTRL.HOLD_EXPIRED = 1 then s.setHandle { h with expired := true, pins := 0 }
  else s.setHandle { h with expired := true, pins := 0, freed := true, grans := [] }

/-- A resume releases its handle (R394, R395): with the last one, a handle that is to be freed is freed, and an expiry that has
passed takes effect. What several resumes of one handle do is the model's choice (log entry 97, DESIGN CHOICE). -/
def State.unpin (s : State) (h : Handle) : State :=
  if 1 < h.pins then s.setHandle { h with pins := h.pins - 1 }
  else if h.doomed then s.freeHandle h.slot
  else if h.expiry ≤ s.now then s.expire h
  else s.setHandle { h with pins := 0 }

/-- A handle is freed, once no resume reads it any more. -/
def State.retireHandle (s : State) (h : Handle) : State :=
  if h.pinned then s.setHandle { h with doomed := true } else s.freeHandle h.slot

/-- How a handle number answers a command (R394, R396): the handle, or the completion status. -/
inductive Lookup where
  | found (h : Handle)
  | expired (h : Handle)
  | bad
  deriving DecidableEq, Repr

/-- Look a handle up for a partition. -/
def State.lookup (s : State) (p : Nat) (w : Word) : Lookup :=
  match s.handleAt (w.toNat % 65536) with
  | none => .bad
  | some h =>
    if h.gen ≠ bitsOf w.toNat 31 16 ∨ h.part ≠ p ∨ !h.valid ∨ h.doomed then .bad
    else if h.expired || (!h.pinned && decide (h.expiry ≤ s.now)) then .expired h
    else .found h

/-- A command names an expired handle (R396). -/
def State.expiredCmd (s : State) (p : Nat) (k : SrvCmd) : State :=
  (s.logEvent { code := 0xA2, effect := 1, part := p, detail := k.arg0.toNat }).cmdDone p k 4

/-! ## PARK (R393) -/

/-- The entry words that a park keeps: +0x08 to +0x3C. -/
def State.entryWords (s : State) (p c : Nat) : List Word := (List.range 14).map fun i => s.rw (Reg.SRV_CTX_CFG.addr p c + 4 * i)

/-- PARK takes effect: a handle and granules, and the context is PARKING. -/
def State.parkCmd (s : State) (p : Nat) (k : SrvCmd) : State :=
  let ttl := k.arg0.toNat
  if s.ctxState p k.ctx ≠ 1 ∨ ttl < 1 ∨ 86400000 < ttl then s.cmdDone p k 2
  else
    let len := s.ctxLen p k.ctx
    match s.freeSlot, s.takeGrans (48 * s.pagesFor p len + 1) with
    | some slot, some l =>
      let gen := mapGet 0 s.park.gens slot
      let x := s.ctx p k.ctx
      let h : Handle :=
        { slot, gen, part := p, ctx := k.ctx, tag := k.tag, layout := s.get (Reg.SRV_KV_CFG.LAYOUT p), len,
          ctxGen := s.ctxGen p k.ctx, grans := l, ttl, state := s.rw (Reg.SRV_CTX_STATE.addr p k.ctx),
          entry := s.entryWords p k.ctx, penalty := x.penalty, hist := x.hist }
      let s := s.modPark fun q => { handles := h :: q.handles.filter (fun y => y.slot ≠ slot), gens := mapSet 0 q.gens slot ((gen + 1) % 65536) }
      (s.setCtxState p k.ctx 3).modCtx p k.ctx fun x => { x with xfer := some (slot, k.tag) }
    | _, _ => (s.logEvent { code := 0xA4, effect := 1, part := p, detail := k.ctx }).cmdDone p k 6

/-- Words of a penalty table as a park keeps them. -/
def penaltyWords (m : SMap (Option PenEnt)) : List Byte :=
  (List.range 4096).flatMap fun i => match mapGet none m i with | some e => leBytes 4 (e.token + e.count <<< 18) | none => leBytes 4 0

/-- The last granule of a park: the 64-byte entry, the penalty table, the committed tokens as far as they fit (R393; log entry 44). -/
def lastGranule (h : Handle) : List Byte :=
  let b := leBytes 4 h.state.toNat ++ leBytes 4 h.len ++ (h.entry.flatMap fun w => leBytes 4 w.toNat) ++ penaltyWords h.penalty
    ++ leBytes 4 h.hist.length ++ h.hist.flatMap (leBytes 4)
  (b ++ List.replicate 65536 0).take 65536

/-- What the slice answers to a read of `n` bytes outside the schedule: corrected words are counted, an uncorrectable word or a
slice that is not READY raises its fault and reads as zero (R74, R76, R77). -/
def State.readGuarded (s : State) (ash addr n : Nat) : State × List Byte :=
  let d := s.domOf ash
  match s.readFault ash addr n with
  | none => (s.ceBytes ash addr n, s.rdBytes ash addr n)
  | some (code, a) =>
    let bad (i : Nat) : Bool := code = 0x21 || decide (mapGet 0 s.bulk.upset (s.physByte ash (addr + i) / 8) = 2)
    let bs := (List.range n).map fun i => if bad i then (0 : Byte) else s.rdByte ash (addr + i)
    ((s.ceBytes ash addr n).accessFault d code ash a none 0, bs)

/-- The pages below LEN are in the park store, and after them the last granule (R393). -/
def State.copyOut (s : State) (p : Nat) (pages : List Nat) (h : Handle) : State :=
  let base := s.get (Reg.SRV_KV_BASE.BASE p)
  let s := forAll (List.range pages.length) (fun s i =>
    forAll (List.range 48) (fun s a =>
      match h.grans[48 * i + a]? with
      | some g =>
        let r := s.readGuarded (ashOf p a) (base + pages[i]?.getD 0 * 65536) 65536
        r.1.writeGrans (r.1.parkByte g) r.2
      | none => s) s) s
  match h.grans.getLast? with
  | some g => s.writeGrans (s.parkByte g) (lastGranule h)
  | none => s

/-- The record of a park or resume that ends. -/
def State.xferDone (s : State) (p c tag status : Nat) (result : Word) : State :=
  s.cmplRecord p { s.newRec p c 3 with status := status, tag := tag, result := result }

/-- The last granule and the directory entry are written. -/
def State.parkCommitOp (s : State) (slot : Nat) : State :=
  match s.handleAt slot with
  | none => s
  | some h =>
    let p := h.part
    if h.valid ∨ h.freed ∨ s.ctxState p h.ctx ≠ 3 then s
    else
      let s := s.copyOut p ((s.ctx p h.ctx).pages.take (s.pagesFor p h.len)) h
      let s := s.setHandle { h with valid := true, expiry := s.now + h.ttl * 100000 }
      (s.xferDone p h.ctx h.tag 0 (BitVec.ofNat 32 h.number)).freeCtx p h.ctx

/-- PARK_COMMIT. -/
def execParkCommit (slot : Nat) (s : State) : Host.Outcome State Fault Refusal := s.answer (s.parkCommitOp slot)

/-! ## RESUME (R394, R414, R512) -/

/-- The parked granules of a handle, as bytes. -/
def State.parkedBytes (s : State) (h : Handle) : List Byte :=
  h.grans.flatMap fun g => s.morBytes (s.parkByte g) 65536

/-- What the last granule of a parked image holds. -/
def readLast (b : List Byte) : Handle :=
  let w (o : Nat) : Nat := leNat ((b.drop o).take 4)
  let pen := (List.range 4096).foldl (fun m i =>
    let x := w (64 + 4 * i)
    mapSet none m i (if x = 0 then none else some { token := x % 2 ^ 18, count := x >>> 18 })) ([] : SMap (Option PenEnt))
  { slot := 0, gen := 0, part := 0, ctx := 0, tag := 0, layout := 0, len := w 4, ctxGen := bitsOf (w 0) 31 16, grans := [], ttl := 0,
    state := BitVec.ofNat 32 (w 0), entry := (List.range 14).map fun i => BitVec.ofNat 32 (w (8 + 4 * i)), penalty := pen,
    hist := (List.range (min (w 16448) 12271)).map fun i => w (16452 + 4 * i) }

/-- PARK_IMAGE entries of a resume (R512). -/
def State.parkImage (s : State) (p c : Nat) (h : Handle) : State :=
  if s.get Reg.REC_CTRL.PARK_COPY = 1 ∧ s.recording p then
    let b := s.parkedBytes h
    let n := 4095 * 64
    forAll (List.range (ceilDiv b.length n)) (fun s i =>
      s.recEvent 9 p c false [h.number, 4095 * i] ((b.drop (n * i)).take n)) s
  else s

/-- RESUME is accepted or refused. -/
def State.resumeCmd (s : State) (p : Nat) (k : SrvCmd) : State :=
  if s.ctxState p k.ctx ≠ 0 then s.cmdDone p k 2
  else match s.lookup p k.arg0 with
    | .expired _ => s.expiredCmd p k
    | .bad => s.cmdDone p k 3
    | .found h =>
      if h.layout ≠ s.get (Reg.SRV_KV_CFG.LAYOUT p) ∨ h.expiry ≤ s.now then s.cmdDone p k 3
      else
        let need := s.pagesFor p h.len
        let new := (s.freePages p).take need
        if new.length < need then s.cmdDone p k 5
        else
          let s := (s.setHandle { h with pins := h.pins + 1 }).parkImage p k.ctx h
          (s.setCtxState p k.ctx 4).modCtx p k.ctx fun x =>
            { live := true, pages := new, xfer := some (h.slot, k.tag), keep := bitOf k.arg1.toNat 0, gapOut := x.gapOut,
              desc := x.desc, table := x.table }

/-- Bytes land in a slice outside the landing buffer; in one that is not READY they are discarded, and 0x21 is raised at the
ashlar (R74). -/
def State.landBytes (s : State) (ash addr : Nat) (data : List Byte) : State :=
  if s.sliceReady ash (bitsOf addr 24 22) then s.wrBytes ash addr data
  else
    (s.put (Reg.TILE_STATUS.PWR_ACCESS (partOf ash) (idxOf ash)) 1).halt (s.domOf ash)
      { code := 0x21, source := 2, part := partOf ash, ash := idxOf ash, detail := detailAsh ash addr (bitsOf addr 24 22) }

/-- Parked pages land in the slices; `data` holds them, page by page and ashlar by ashlar. -/
def State.copyIn (s : State) (p : Nat) (pages : List Nat) (data : Nat → List Byte) : State :=
  let base := s.get (Reg.SRV_KV_BASE.BASE p)
  forAll (List.range pages.length) (fun s i =>
    forAll (List.range 48) (fun s a => s.landBytes (ashOf p a) (base + pages[i]?.getD 0 * 65536) (data (48 * i + a))) s) s

/-- The entry, with LATCH, GAP and PEND_FULL, and the penalty table of a parked context are taken over. -/
def State.takeParked (s : State) (p c : Nat) (last : List Byte) (hist : List Nat) (len gen : Nat) : State :=
  let h := readLast last
  let a := Reg.SRV_CTX_STATE.addr p c
  let s := s.ww a (s.rw a &&& 0xFFFFFF97 ||| h.state &&& 0x68)
  (s.wwList (Reg.SRV_CTX_CFG.addr p c) (h.entry.map (·.toNat))).modCtx p c fun x =>
    { x with penalty := h.penalty, hist, resumed := some (len, gen) }

/-- The slot number that a replayed RESUME names: no handle has it. -/
def replaySlot : Nat := 65536

/-- The parked data of a replayed RESUME have landed (R515). -/
def State.imageCommit (s : State) (p c tag : Nat) : State :=
  match s.recd.images.find? fun i => i.1 = p * 256 + c with
  | none => s
  | some (_, b) =>
    let last := b.drop (b.length - 65536)
    let h := readLast last
    let s := s.copyIn p (s.ctx p c).pages fun i => (b.drop (i * 65536)).take 65536
    let s := s.takeParked p c last h.hist h.len h.ctxGen
    let s := { s with recd := { s.recd with images := s.recd.images.filter fun i => i.1 ≠ p * 256 + c } }
    s.xferDone p c tag 0 0

/-- An uncorrectable moraine read whose retry has failed is counted and kept (R414): its row and the class of its requester. -/
def State.morUncorrectable (s : State) (cls row : Nat) : State :=
  let s := (s.inc Reg.MOR_UE_COUNT.COUNT).put Reg.MOR_STATUS.UE 1
  let s := if s.get Reg.MOR_UE_INFO.VALID = 1 then s
    else (s.ww Reg.MOR_UE_INFO.addr (BitVec.ofNat 32 (stackOf row + cls <<< 5 + 1 <<< 31))).ww Reg.MOR_UE_ROW.addr (BitVec.ofNat 32 row)
  { s with mor := { s.mor with bad := mapSet 0 s.mor.bad row 255 } }

/-- A resume ends at an uncorrectable row. -/
def State.resumeErrorOp (s : State) (p c row : Nat) : State :=
  match (s.ctx p c).xfer with
  | none => s
  | some (slot, tag) =>
    if s.ctxState p c ≠ 4 ∨ (s.ctx p c).resumed.isSome then s
    else
      let s := s.morUncorrectable 2 row
      let s := s.logEvent { code := 0x80, effect := 1, part := p, detail := row, detail2 := stackOf row + 2 <<< 5 }
      let s := match s.handleAt slot with | some h => s.unpin { h with doomed := true } | none => s
      let s := s.xferDone p c tag 8 0
      s.freeCtx p c

/-- The first row of a handle's granules that does not read. -/
def State.parkBad (s : State) (h : Handle) : Option Nat :=
  (h.grans.flatMap fun g => (List.range 128).map (s.parkByte g / 512 + ·)).find? s.rowBad

/-- The last granule of a resume has landed; one with a row that the state knows to be uncorrectable ends in its error (R414). -/
def State.resumeCommitOp (s : State) (p c : Nat) : State :=
  let x := s.ctx p c
  match x.xfer with
  | none => s
  | some (slot, tag) =>
    if s.ctxState p c ≠ 4 ∨ x.resumed.isSome then s
    else match s.handleAt slot with
      | none => if slot = replaySlot then s.imageCommit p c tag else s
      | some h =>
        match s.parkBad h with
        | some row => s.resumeErrorOp p c row
        | none =>
        let gran (i : Nat) : List Byte := match h.grans[i]? with | some g => s.morBytes (s.parkByte g) 65536 | none => []
        let s := s.copyIn p x.pages gran
        let s := s.takeParked p c (gran (h.grans.length - 1)) h.hist h.len h.ctxGen
        let s := s.unpin { h with doomed := h.doomed || !x.keep }
        s.xferDone p c tag 0 0

/-- RESUME_COMMIT. -/
def execResumeCommit (p c : Nat) (s : State) : Host.Outcome State Fault Refusal := s.answer (s.resumeCommitOp p c)

/-- RESUME_DATA_ERROR. -/
def execResumeDataError (p c row : Nat) (s : State) : Host.Outcome State Fault Refusal := s.answerCtl (s.resumeErrorOp p c row)

/-! ## ABORT, DROP, TOUCH, expiry (R395 to R397) -/

/-- ABORT: a park returns the context to IDLE, a resume makes it FREE. -/
def State.abortCmd (s : State) (p : Nat) (k : SrvCmd) : State :=
  let c := k.ctx
  match (s.ctx p c).xfer with
  | none => s.cmdDone p k 2
  | some (slot, tag) =>
    if s.ctxState p c = 3 then
      let s := (s.freeHandle slot).setCtxState p c 1
      let s := s.modCtx p c fun x => { x with xfer := none }
      (s.xferDone p c tag 1 0).cmdDone p k 0
    else if s.ctxState p c = 4 ∧ (s.ctx p c).resumed.isNone then
      let s := match s.handleAt slot with | some h => s.unpin h | none => s
      ((s.xferDone p c tag 1 0).freeCtx p c).cmdDone p k 0
    else s.cmdDone p k 2

/-- DROP frees a handle; one that Boluk holds after its expiry is freed, and reported as expired. -/
def State.dropCmd (s : State) (p : Nat) (k : SrvCmd) : State :=
  match s.lookup p k.arg0 with
  | .bad => s.cmdDone p k 3
  | .expired h => (if h.expired && !h.freed then s.setHandle { h with freed := true, grans := [] } else s).expiredCmd p k
  | .found h => (s.retireHandle h).cmdDone p k 0

/-- TOUCH sets a new expiry. -/
def State.touchCmd (s : State) (p : Nat) (k : SrvCmd) : State :=
  let ttl := k.arg1.toNat
  match s.lookup p k.arg0 with
  | .bad => s.cmdDone p k 3
  | .expired _ => s.expiredCmd p k
  | .found h =>
    if ttl < 1 ∨ 86400000 < ttl then s.cmdDone p k 2
    else (s.setHandle { h with expiry := s.now + ttl * 100000 }).cmdDone p k 0

/-- A handle reaches its expiry. -/
def State.handleExpiryOp (s : State) (slot : Nat) : State :=
  match s.handleAt slot with
  | none => s
  | some h => if h.valid && !h.pinned && !h.expired && !h.freed then (s.atLeast h.expiry).expire h else s

/-- HANDLE_EXPIRY. -/
def execHandleExpiry (slot : Nat) (s : State) : Host.Outcome State Fault Refusal := s.answerCtl (s.handleExpiryOp slot)

/-! ## The command queue (R373) -/

/-- The effect of a command. -/
def State.runCmd (s : State) (p : Nat) (k : SrvCmd) : State :=
  match k.op with
  | 1 => s.openCmd p k
  | 2 => s.appendCmd p k
  | 3 => s.goCmd p k
  | 4 => s.cancelCmd p k
  | 5 => s.setCmd p k
  | 6 => s.closeCmd p k
  | 7 => s.parkCmd p k
  | 8 => s.resumeCmd p k
  | 9 => s.dropCmd p k
  | 10 => s.abortCmd p k
  | 11 => s.touchCmd p k
  | _ => s.cmdDone p k 7

/-- The command at the head takes effect, if it is due and the caller's kind. -/
def State.headCmd (s : State) (p : Nat) (want : Nat → Bool) : State :=
  match (s.srvAt p).cmds with
  | [] => s
  | k :: rest =>
    if want k.op && s.cmdDue p k then
      let s := s.modSrv p fun e => { e with cmds := rest }
      (s.recEvent 1 p k.ctx (boundaryOp k.op || (k.atEn && knownOp k.op)) k.words []).runCmd p k
    else s

/-- OPEN. -/
def execCmdOpen (p : Nat) (s : State) : Host.Outcome State Fault Refusal := s.answer (s.headCmd p fun o => o = 1)
/-- APPEND. -/
def execCmdAppend (p : Nat) (s : State) : Host.Outcome State Fault Refusal := s.answer (s.headCmd p fun o => o = 2)
/-- GO. -/
def execCmdGo (p : Nat) (s : State) : Host.Outcome State Fault Refusal := s.answer (s.headCmd p fun o => o = 3)
/-- CANCEL. -/
def execCmdCancel (p : Nat) (s : State) : Host.Outcome State Fault Refusal := s.answer (s.headCmd p fun o => o = 4)
/-- SET. -/
def execCmdSet (p : Nat) (s : State) : Host.Outcome State Fault Refusal := s.answer (s.headCmd p fun o => o = 5)
/-- CLOSE. -/
def execCmdClose (p : Nat) (s : State) : Host.Outcome State Fault Refusal := s.answer (s.headCmd p fun o => o = 6)
/-- PARK. -/
def execCmdPark (p : Nat) (s : State) : Host.Outcome State Fault Refusal := s.answer (s.headCmd p fun o => o = 7)
/-- RESUME; its PARK_IMAGE entries are written to the record region. -/
def execCmdResume (p : Nat) (s : State) : Host.Outcome State Fault Refusal := s.answer (s.headCmd p fun o => o = 8)
/-- DROP. -/
def execCmdDrop (p : Nat) (s : State) : Host.Outcome State Fault Refusal := s.answer (s.headCmd p fun o => o = 9)
/-- ABORT. -/
def execCmdAbort (p : Nat) (s : State) : Host.Outcome State Fault Refusal := s.answer (s.headCmd p fun o => o = 10)
/-- TOUCH. -/
def execCmdTouch (p : Nat) (s : State) : Host.Outcome State Fault Refusal := s.answer (s.headCmd p fun o => o = 11)
/-- BAD_OPCODE_COMMAND. -/
def execBadOpcodeCommand (p : Nat) (s : State) : Host.Outcome State Fault Refusal :=
  s.answer (s.headCmd p fun o => o = 0 || decide (11 < o))

/-! ## The serving boundary (R370, R389) -/

/-- Commands leave the queue while the one at the head is due; `fuel` bounds them. -/
def State.dueCmds (s : State) (p : Nat) : Nat → State
  | 0 => s
  | fuel + 1 =>
    let t := s.headCmd p fun _ => true
    if (t.srvAt p).cmds.length < (s.srvAt p).cmds.length then t.dueCmds p fuel else s

/-- A serving boundary begins: resumed contexts become IDLE (R394), and no input has been committed at it. -/
def State.openBoundary (s : State) (p : Nat) : State :=
  forAll (s.liveCtxs p) (fun s c => (s.resumedCtx p c).modCtx p c fun x => { x with inToks := [] }) s

/-- The work of a partition's serving boundary. A domain that is not armed has no ENDC: what was presented is released here
(log entry 45). -/
def State.boundaryOp (s : State) (p : Nat) : State :=
  match (s.srvAt p).boundary with
  | none => s
  | some k =>
    let s := s.recBoundary k
    if s.replayHolds (s.leadOf p) then s
    else
    let s := s.openBoundary p
    let s := s.dueCmds p (s.srvAt p).cmds.length
    let items := (s.srvAt p).inbox
    let s := s.modSrv p fun e => { e with inbox := [] }
    let s := forAll items (fun s h => s.takeHeld p h) s
    let s := forAll (s.liveCtxs p) (fun s c => s.commitInputs p c) s
    let s := (s.allocPages p).landDescs p
    let d := s.leadOf p
    (if s.armed d || s.running d then s else s.release p false).modSrv p fun e => e.nextBoundary []

/-- SERVING_BOUNDARY. -/
def execServingBoundary (p : Nat) (s : State) : Host.Outcome State Fault Refusal := s.answer (s.boundaryOp p)

end Sys2Proof.Machine
end

