-- ==== Sys2Proof/Machine/Moraine.lean ====
section
/-! DEFINITION. The moraine outside the schedule: regions, errors, stacks, swaps, loads and the chain relay (R405, R406,
R411, R412, R414 to R421). -/

namespace Sys2Proof.Machine

/-! ## Regions (R405, R406) -/

/-- Rows [row, row + n) lie in a region of `size` units of 64 KiB (128 rows) from unit `base`. -/
def rowsIn (base size row n : Nat) : Bool := decide (base * 128 ≤ row) && decide (row + n ≤ (base + size) * 128)
/-- Rows of module region `j`: 0 library, 1 park store, 2 record. -/
def State.inRegion (s : State) (j row n : Nat) : Bool := rowsIn (s.get (Reg.MOR_BASE.BASE j)) (s.get (Reg.MOR_SIZE.SIZE j)) row n
def State.inRead (s : State) (p row n : Nat) : Bool := rowsIn (s.get (Reg.MOR_RD_BASE.BASE p)) (s.get (Reg.MOR_RD_SIZE.SIZE p)) row n
def State.inRw (s : State) (p row n : Nat) : Bool := rowsIn (s.get (Reg.MOR_RW_BASE.BASE p)) (s.get (Reg.MOR_RW_SIZE.SIZE p)) row n

/-! ## Errors (R414, R415, R426) -/

/-- 0x80 without a halt. -/
def State.logMorUe (s : State) (part cls row : Nat) : State :=
  (s.morUncorrectable cls row).logEvent { code := 0x80, effect := 1, part, detail := row, detail2 := stackOf row + cls <<< 5 }

/-- The words of a library entry that a swap reads: three, one per bank, two per segment. -/
def State.entryAt (s : State) (row : Nat) : List Nat :=
  let rd (i : Nat) : Nat := leNat (s.morBytes (row * 512 + 8 * i) 8)
  let w0 := rd 0
  (List.range (3 + bitsOf w0 23 20 + 2 * bitsOf w0 35 24)).map rd

/-- A segment of an entry: source row, destination, ashlar indices, rows. -/
def segOf (ws : List Nat) (k : Nat) : Nat × Nat × List Nat × Nat :=
  let i := 3 + bitsOf (ws[0]?.getD 0) 23 20 + 2 * k
  let a := ws[i]?.getD 0
  let b := ws[i + 1]?.getD 0
  (bitsOf a 31 0, bitsOf a 56 32, (List.range 48).filter (bitOf b), bitsOf b 61 48)

/-- The segments of an entry. -/
def segsOf (ws : List Nat) : List (Nat × Nat × List Nat × Nat) := (List.range (bitsOf (ws[0]?.getD 0) 35 24)).map (segOf ws)

/-- The banks of an entry: first row, bank. -/
def banksOf (ws : List Nat) : List (Nat × Nat) :=
  (List.range (bitsOf (ws[0]?.getD 0) 23 20)).map fun i => let w := ws[3 + i]?.getD 0; (bitsOf w 31 0, bitsOf w 35 32)

/-- The fixed fields of an entry keep R416. -/
def State.entryFields (s : State) (p : Nat) (ws : List Nat) : Bool :=
  let w (i : Nat) : Nat := ws[i]?.getD 0
  let nb := bitsOf (w 0) 23 20
  let ns := bitsOf (w 0) 35 24
  bitsOf (w 0) 63 48 = 0x4C42 && bitsOf (w 0) 47 44 = 1 && bitsOf (w 0) 43 36 = s.get (Reg.MOR_LAYOUT.LAYOUT p)
    && decide (1 ≤ ns) && decide (nb ≤ 12) && decide (bitsOf (w 0) 19 14 ≤ 32) && bitsOf (w 0) 13 0 = 0
    && decide (w 1 < 2 ^ 17) && decide (w 2 < 2 ^ 32)
    && (List.range nb).all (fun i => decide (w (3 + i) < 2 ^ 36) && decide (bitsOf (w (3 + i)) 35 32 < 12))
    && (List.range ns).all (fun k =>
      let a := w (3 + nb + 2 * k)
      let b := w (3 + nb + 2 * k + 1)
      bitsOf a 63 57 = 0 && bitsOf a 40 32 = 0 && bitsOf b 63 62 = 0 && decide (1 ≤ bitsOf b 61 48) && decide (bitsOf b 61 48 ≤ 8192))

/-- Two ranges of addresses overlap. -/
def overlaps (a n b m : Nat) : Bool := decide (a < b + m) && decide (b < a + n) && decide (0 < n) && decide (0 < m)

/-- A segment may be written (R417). -/
def State.segFits (s : State) (p : Nat) (g : Nat × Nat × List Nat × Nat) : Bool :=
  let (src, dst, ashs, rows) := g
  let n := 512 * rows
  s.inRead p src (rows * ashs.length) && decide (dst % 2 ^ 22 + n ≤ 2 ^ 22)
    && ashs.all (fun i => s.sliceReady (ashOf p i) (dst / 2 ^ 22))
    && !overlaps dst n (s.get (Reg.SRV_KV_BASE.BASE p)) (s.get (Reg.SRV_KV_CFG.PAGES p) * 65536)
    && !overlaps dst n (s.get (Reg.SRV_PT_BASE.BASE p)) 0x100000
    && !overlaps dst n (s.get (Reg.SRV_DESC_BASE.BASE p)) 0x10000

/-- An entry is valid (R416, R417). -/
def State.entryValid (s : State) (p : Nat) (ws : List Nat) : Bool :=
  let bs := banksOf ws
  let nch := bitsOf (ws[0]?.getD 0) 19 14
  s.entryFields p ws && (segsOf ws).all (s.segFits p)
    && bs.all (fun b => s.inRead p b.1 8 && s.get (Reg.SEQ_BANK.RESIDENT p b.2) = 0)
    && decide ((bs.map (·.2)).eraseDups.length = bs.length)
    && (nch = 0 || s.inRead p (ws[2]?.getD 0) (ceilDiv nch 8))

/-! ## Swaps (R417, R418) -/

/-- A write of MOR_SWAP_CTRL with GO. -/
def State.swapGoOp (s : State) (w : Who) (p : Nat) : State :=
  s.gated w (Reg.MOR_SWAP_CTRL.addr p) (match w with | .vf _ => .ro | _ => .wo) fun s =>
    if s.armed (s.leadOf p) ∨ s.get (Reg.MOR_SWAP_STATUS.BUSY p) = 1 then s.put (Reg.MOR_SWAP_STATUS.REFUSED p) 1
    else
      let row := s.get (Reg.MOR_SWAP_ROW.ROW p)
      let ws := s.entryAt row
      match ((List.range (ceilDiv ws.length 64)).map (row + ·)).find? s.rowBad with
      | some r => (s.put (Reg.MOR_SWAP_STATUS.ERROR p) 1).logMorUe p 3 r
      | none =>
      if s.entryValid p ws then
        (s.put (Reg.MOR_SWAP_STATUS.BUSY p) 1).modMor fun m => { m with swaps := m.swaps ++ [⟨p, ws, s.now⟩] }
      else
        (s.put (Reg.MOR_SWAP_STATUS.INVALID p) 1).logEvent
          { code := 0x83, effect := 1, part := p, detail := row, detail2 := stackOf row + 3 <<< 5 }

/-- SWAP_GO. -/
def execSwapGo (w : Who) (p : Nat) (s : State) : Host.Outcome State Fault Refusal :=
  s.answerCtl (s.posting w (.reg (Reg.MOR_SWAP_CTRL.addr p) 1) fun s => s.swapGoOp w p)

/-- The rows a swap lands, in order: moraine row, ashlar, destination. -/
def swapRows (p : Nat) (ws : List Nat) : List (Nat × Nat × Nat) :=
  (segsOf ws).flatMap fun g =>
    (List.range g.2.2.1.length).flatMap fun j =>
      (List.range g.2.2.2).map fun r => (g.1 + j * g.2.2.2 + r, ashOf p (g.2.2.1[j]?.getD 0), g.2.1 + 512 * r)

/-- A segment row lands. -/
def State.landSwapRow (s : State) (x : Nat × Nat × Nat) : State := s.landBytes x.2.1 x.2.2 (s.morBytes (x.1 * 512) 512)

/-- A bank image of a library entry. -/
def State.loadBankImage (s : State) (p : Nat) (b : Nat × Nat) : State :=
  let s := forAll (List.range 512) (fun s i =>
    s.setCornice p (b.2 * 512 + i) (BitVec.ofNat 64 (leNat (s.morBytes (b.1 * 512 + 8 * i) 8)))) s
  (s.put (Reg.SEQ_BANK.STATE p b.2) 1).put (Reg.SEQ_BANK.TAG p b.2) 0

/-- A chain-entry image. -/
def State.loadChainImage (s : State) (p row n : Nat) : State :=
  forAll (List.range 16) (fun s k =>
    s.storeReg .fw (Reg.window p (0x1400 + 64 * n + 4 * k)) (BitVec.ofNat 32 (leNat (s.morBytes (row * 512 + 64 * n + 4 * k) 4)))) s

/-- The swap of a partition ends: every write performed, or a row that cannot be read (`bad`, or the first one that the
state knows): rows before it have landed, nothing after it is written (log entry 47). -/
def State.swapDoneOp (s : State) (p : Nat) (bad : Option Nat) : State :=
  match s.mor.swaps.find? fun x => x.part = p with
  | none => s
  | some x =>
    let s := s.modMor fun m => { m with swaps := m.swaps.filter fun y => y.part ≠ p }
    let s := s.put (Reg.MOR_SWAP_STATUS.BUSY p) 0
    let rows := swapRows p x.words
    let isBad (r : Nat × Nat × Nat) : Bool := decide (some r.1 = bad) || s.rowBad r.1
    let first := rows.takeWhile fun r => !isBad r
    let nch := bitsOf (x.words[0]?.getD 0) 19 14
    let crow := x.words[2]?.getD 0
    let more := (banksOf x.words).flatMap (fun b => (List.range 8).map (b.1 + ·)) ++ (List.range (ceilDiv nch 8)).map (crow + ·)
    match (rows.map (·.1) ++ more).find? fun r => decide (some r = bad) || s.rowBad r with
    | some r => ((forAll first (fun s r => s.landSwapRow r) s).put (Reg.MOR_SWAP_STATUS.ERROR p) 1).logMorUe p 3 r
    | none =>
      let s := forAll rows (fun s r => s.landSwapRow r) s
      let s := forAll (banksOf x.words) (fun s b => s.loadBankImage p b) s
      let s := forAll (List.range nch) (fun s n => s.loadChainImage p crow n) s
      let e := x.words[1]?.getD 0
      let s := (s.put (Reg.SEQ_ENTRY.ENTRY p) e).put (Reg.SEQ_NEXT_ENTRY.ENTRY p) e
      (s.put (Reg.MOR_SWAP_STATUS.DONE p) 1).put (Reg.MOR_SWAP_TIME.COUNTS p) (s.now - x.startG)

/-- SWAP_DONE. -/
def execSwapDone (p : Nat) (bad : Option Nat) (s : State) : Host.Outcome State Fault Refusal := s.answer (s.swapDoneOp p bad)

/-! ## Moraine errors and stacks (R412, R414, R415) -/

/-- How a requester's read of a row ends, after its retry where it needed one: 0 read, 1 read with symbols corrected, 2 not read.
`cls` is the class of R407 of its requester, `i` says which: the STK, the context as partition x 256 + context, the partition of a
swap. A read that the data window makes reports its own error. -/
def State.readRetryOp (s : State) (cls row i result : Nat) : State :=
  if result = 0 then s
  else if result = 1 then s.inc Reg.MOR_CE_COUNT.COUNT
  else match cls with
    | 1 =>
      match s.fab.stks[i]? with
      | none => s
      | some k =>
        if k.dir || !k.started || decide (row < k.mor) || !k.left.contains (row - k.mor) then s
        else (s.morUncorrectable 1 row).halt (s.domOf k.ash)
          { code := 0x80, source := 1, part := partOf k.ash, ash := idxOf k.ash, pc := some k.ia, detail := row,
            detail2 := stackOf row + 1 <<< 5 }
    | 2 => s.resumeErrorOp (i / 256) (i % 256) row
    | 3 => s.swapDoneOp i (some row)
    | 6 => s.logMorUe 15 6 row
    | _ => s.modMor fun m => { m with bad := mapSet 0 m.bad row 255 }

/-- MORAINE_READ_RETRY. -/
def execMoraineReadRetry (cls row i result : Nat) (s : State) : Host.Outcome State Fault Refusal :=
  s.answer (s.readRetryOp cls row i result)

/-- A row lies in a region. -/
def State.inAnyRegion (s : State) (row : Nat) : Bool :=
  (List.range 3).any (fun j => s.inRegion j row 1) || (List.range 12).any fun p => s.inRw p row 1

/-- Patrol scrub reads a row: 0 clean, 1 corrected and rewritten, 2 uncorrectable after its retry. -/
def State.patrolOp (s : State) (row result : Nat) : State :=
  if s.get Reg.MOR_CTRL.SCRUB_EN = 0 ∨ !s.inAnyRegion row then s
  else if result = 2 ∨ s.rowBad row then s.logMorUe 15 6 row
  else if result = 1 then s.inc Reg.MOR_CE_COUNT.COUNT
  else s

/-- MORAINE_PATROL_SCRUB. -/
def execMorainePatrolScrub (row result : Nat) (s : State) : Host.Outcome State Fault Refusal := s.answerCtl (s.patrolOp row result)

/-- A stack fails. -/
def State.failStack (s : State) (k : Nat) : State :=
  if 32 ≤ k ∨ s.get (Reg.MOR_STACK.STATE k) = 2 then s
  else
    let s := (s.put (Reg.MOR_STACK.STATE k) 2).put Reg.MOR_STATUS.STACK_FAILED 1
    let s := s.put Reg.MOR_STATUS.HOT (if (List.range 32).any fun j => s.get (Reg.MOR_STACK.STATE j) = 1 then 1 else 0)
    s.logOnce { code := 0x82, effect := 1, detail2 := k }

/-- A stack fails its own checks, or its carrier link cannot retrain: then every stack of the carrier fails, and the link is no
longer trained (R403, R415, R424). -/
def State.stackFailOp (s : State) (k : Nat) (link : Bool) : State :=
  if 32 ≤ k || !link then s.failStack k
  else
    let up := s.get Reg.MOR_STATUS.LINK_UP
    forAll ((List.range 8).map fun i => k / 8 * 8 + i) (fun s j => s.failStack j)
      (s.put Reg.MOR_STATUS.LINK_UP (up &&& (15 - 2 ^ (k / 8))))

/-- MORAINE_STACK_FAILED: of one stack, or with `link` of the carrier link of that stack. -/
def execMoraineStackFailed (stack : Nat) (s : State) (link : Bool := false) : Host.Outcome State Fault Refusal :=
  s.answerCtl (s.stackFailOp stack link)

/-- A stack's temperature is measured: hot above 85 degrees. -/
def State.stackTempOp (s : State) (k temp : Nat) : State :=
  if 32 ≤ k then s
  else
    let s := s.put (Reg.MOR_STACK.TEMP k) temp
    let s := if s.get (Reg.MOR_STACK.STATE k) = 2 then s else s.put (Reg.MOR_STACK.STATE k) (if 85 < temp then 1 else 0)
    s.put Reg.MOR_STATUS.HOT (if (List.range 32).any fun j => s.get (Reg.MOR_STACK.STATE j) = 1 then 1 else 0)

/-- MORAINE_STACK_HOT. -/
def execMoraineStackHot (stack temp : Nat) (s : State) : Host.Outcome State Fault Refusal := s.answerCtl (s.stackTempOp stack temp)

/-- A stack's refresh shadow begins at this glacier count, if it is one of the stack's (R412). -/
def State.shadowOp (s : State) (k : Nat) : State :=
  let at_ (x : Nat) : Bool := decide (((s.now : Int) - (12 * k + x : Nat)) % 390 = 0)
  if k < 32 ∧ (at_ 0 || (s.get (Reg.MOR_STACK.STATE k) = 1 && at_ 195)) then
    s.modMor fun m => { m with shadow := mapSet 0 m.shadow k (s.now + 32) }
  else s

/-- REFRESH_SHADOW. -/
def execRefreshShadow (stack : Nat) (s : State) : Host.Outcome State Fault Refusal := s.answerCtl (s.shadowOp stack)

/-! ## The chain relay (R420, R421) -/

/-- A RELAY packet enters the relay buffer of 1 MiB, or is discarded. -/
def State.relayArriveOp (s : State) (i : Nat) : State :=
  match s.fab.relayIn[i]? with
  | none => s
  | some k =>
    let c := k.dst
    let take (s : State) : State :=
      (s.modFab fun f => { f with relayIn := dropAt f.relayIn i }).put Reg.UBN_POOL_STATUS.IN_USE (s.get Reg.UBN_POOL_STATUS.IN_USE - 1)
    if 16 ≤ c ∨ s.get (Reg.MOR_CHAIN_CFG.VALID c) = 0 ∨ s.get (Reg.MOR_CHAIN_LEN.LEN c) ≤ k.addr then (take s).refuseArrival k
    else if !s.relayRoom k.payload.length then s
    else ((take s).sendCompl none k.srcMod k.srcAsh k.entry 0 0).relayChunk c k.addr k.payload k.srcMod

/-- RELAY_PACKET_ARRIVAL. -/
def execRelayPacketArrival (i : Nat) (s : State) : Host.Outcome State Fault Refusal := s.answerCtl (s.relayArriveOp i)

/-- A write to a chain's CFG, BASE, AUX or LEN clears its RECV (R424). -/
def State.chainWriteOp (s : State) (w : Who) (a : Nat) (v : Word) : State :=
  let c := (a - Reg.MOR_CHAIN_CFG.addr 0) / 32
  if a < Reg.MOR_CHAIN_CFG.addr 0 ∨ 16 ≤ c ∨ 16 ≤ a % 32 then s
  else s.gated w a .rw fun s =>
    ((s.storeReg w a v).put (Reg.MOR_CHAIN_RECV.RECV c) 0).modMor fun m => { m with broken := m.broken.filter fun x => x ≠ c }

/-- MOR_CHAIN_WRITE. -/
def execMorChainWrite (w : Who) (addr : Nat) (v : Word) (s : State) : Host.Outcome State Fault Refusal :=
  s.answerCtl (s.posting w (.reg addr v) fun s => s.chainWriteOp w addr v)

/-! ## Writes performed (R411, R421) -/

/-- A chain has written one more chunk. -/
def State.chainRecv (s : State) (c : Nat) : State :=
  let n := s.get (Reg.MOR_CHAIN_RECV.RECV c) + 1
  let s := s.put (Reg.MOR_CHAIN_RECV.RECV c) n
  if n = s.get (Reg.MOR_CHAIN_LEN.LEN c) then s.put (Reg.MOR_CHAIN_STATUS.DONE c) 1 else s

/-- Rows from `row` on that `n` bytes from offset `off` touch. -/
def MorWrite.rows (w : MorWrite) : Nat := ceilDiv (w.off + w.data.length) 512

/-- A write is to some of `n` rows from `row` on. -/
def MorWrite.meets (w : MorWrite) (row n : Nat) : Bool := w.land.isNone && overlaps w.row w.rows row n

/-- The write at place `i` of the queue is performed. -/
def State.doWrite (s : State) (i : Nat) (w : MorWrite) : State :=
  let s := s.modMor fun m => { m with writes := dropAt m.writes i }
  let s := match w.land with
    | some (ash, addr, cairn) => s.landNow ash addr w.data cairn w.inc w.src
    | none => s.writeGrans (w.row * 512 + w.off) w.data
  match w.chain with | some c => (s.chainRecv c).relayDrain s.mor.relayWait.length | none => s

/-- A write waits: an earlier one to one of its rows waits (R410), a stack of its rows is in a refresh shadow (R412), or the landing
buffer it is for withholds credit (R64). -/
def State.writeWaits (s : State) (i : Nat) (w : MorWrite) : Bool :=
  match w.land with
  | some (ash, addr, _) => s.sliceFull ash addr (s.wallNow (s.domOf ash))
  | none => ((s.mor.writes.take i).any fun x => x.meets w.row w.rows) || s.inShadow w.row w.rows

/-- A write that waits is performed. -/
def State.writePerformOp (s : State) (i : Nat) : State :=
  match s.mor.writes[i]? with
  | none => s
  | some w =>
    if s.writeWaits i w then s else s.doWrite i w

/-- The writes that wait for some of `n` rows are performed, in their order: what comes after them finds them done (R410), and where
they wait for a refresh shadow, waits with them (R412; log entry 119). -/
def State.settleRows (s : State) (row n : Nat) : Nat → State
  | 0 => s
  | fuel + 1 =>
    match s.mor.writes.findIdx? fun w => w.meets row n with
    | none => s
    | some i => match s.mor.writes[i]? with | some w => (s.doWrite i w).settleRows row n fuel | none => s

/-- MORAINE_WRITE_PERFORMED. -/
def execMoraineWritePerformed (i : Nat) (s : State) : Host.Outcome State Fault Refusal := s.answer (s.writePerformOp i)

/-! ## Loads (R419, R529) -/

/-- The destination of a load is valid. -/
def State.loadFits (s : State) (x : LoadDesc) : Bool :=
  decide (1 ≤ x.len) &&
    (match x.dkind with
     | 0 => s.inRegion 0 x.d5 (8 * x.len)
     | 1 => decide (x.d6 % 16 < 12) && s.inRw (x.d6 % 16) x.d5 (8 * x.len)
     | 2 => x.d5 % 4096 = 0 && decide (x.d5 < 2 ^ 25) && decide (x.d5 % 2 ^ 22 + 4096 * x.len ≤ 2 ^ 22) && s.reachable (x.d6 % 1024)
     | _ => s.get (Reg.MOR_CHAIN_CFG.VALID (x.d5 % 16)) = 1)

/-- A write of MOR_LOAD_D7 submits the descriptor. -/
def State.loadSubmitOp (s : State) (w : Who) (v : Word) : State :=
  s.gated w Reg.MOR_LOAD_D7.addr .wo fun s =>
    if 64 ≤ s.mor.loads.length then s.put Reg.MOR_STATUS.LOAD_LOST 1
    else
      let r (i : Nat) : Nat := (mapGet 0 s.mor.loadRegs i).toNat
      let x : LoadDesc :=
        { port := r 0 % 2, qpn := bitsOf (r 0) 31 8, rkey := r 1, dkind := bitsOf (r 0) 2 1, raddr := r 2 + r 3 <<< 32,
          len := r 4, d5 := r 5, d6 := r 6, tag := v.toNat % 65536 }
      let s := s.modMor fun m => { m with loads := m.loads ++ [x] }
      if s.loadFits x then s.sendEth x.port (.rdmaRead x.port x.qpn x.rkey x.raddr (4096 * x.len)) else s

/-- LOAD_SUBMIT. -/
def execLoadSubmit (w : Who) (v : Word) (s : State) : Host.Outcome State Fault Refusal :=
  s.answerCtl (s.posting w (.reg Reg.MOR_LOAD_D7.addr v) fun s => s.loadSubmitOp w v)

/-- One 4 KiB chunk of a load reaches its destination, or waits: for a landing buffer (R64), for the relay buffer (R421), for a
refresh shadow to pass (R412). -/
def State.loadChunk (s : State) (x : LoadDesc) (i : Nat) (data : List Byte) : State :=
  match x.dkind with
  | 2 => s.landSoon (x.d6 % 1024) (x.d5 + 4096 * i) data (bitsOf x.d6 15 10) 64 (.eth s.moduleId)
  | 3 =>
    let piece : RelayIn := { chain := x.d5 % 16, idx := i, data, tag := if i + 1 = x.len then some x.tag else none }
    s.modMor fun m => { m with relayWait := m.relayWait ++ [piece] }
  | _ =>
    let row := x.d5 + 8 * i
    let late : MorWrite := { row, off := 0, data }
    if s.inShadow row (ceilDiv data.length 512) then s.modMor fun m => { m with writes := m.writes ++ [late] }
    else (s.settleRows row (ceilDiv data.length 512) s.mor.writes.length).writeGrans (row * 512) data

/-- The oldest load of a port ends: with all its data, or with the chunks that an error of the remote side or a timeout leaves it, which
have been written (R419). The load of a chain ends as its last chunk enters the relay buffer. -/
def State.endLoad (s : State) (port : Nat) (status : LoadDesc → Nat) (data : List Byte) : State :=
  match s.mor.loads.find? fun x => x.port = port with
  | none => s
  | some x =>
    let k := s.mor.loads.findIdx fun y => y.port = port
    let st := if s.loadFits x then status x else 2
    let s := s.modMor fun m => { m with loads := dropAt m.loads k }
    let n := if st = 0 then x.len else if st = 1 then min (x.len - 1) (data.length / 4096) else 0
    let s := forAll (List.range n) (fun s i => s.loadChunk x i ((data.drop (4096 * i)).take 4096)) s
    let s := s.relayDrain s.mor.relayWait.length
    let s := if st = 0 ∧ x.dkind = 3 then s else s.loadDone x.tag st
    if st = 0 then s else s.logEvent { code := 0x85, effect := 1, detail := if x.dkind < 2 then x.d5 else 0 }

/-- LOAD_COMPLETE: `status` 0 with all the data, or an error of the remote side. -/
def execLoadComplete (port status : Nat) (data : List Byte) (s : State) : Host.Outcome State Fault Refusal :=
  s.answer (s.endLoad port (fun x => if status = 0 ∧ data.length = 4096 * x.len then 0 else 1) data)

/-- RDMA_LOAD_TIMEOUT: `data` are the chunks fetched before it. -/
def execRdmaLoadTimeout (port : Nat) (s : State) (data : List Byte := []) : Host.Outcome State Fault Refusal :=
  s.answer (s.endLoad port (fun _ => 1) data)

end Sys2Proof.Machine
end

