-- ==== Sys2Proof/Machine/Scratch.lean ====
section
/-! DEFINITION. The scratchpad outside the schedule: scrubbing (R65, R76, R77), slice power (R73), grout and regrout (R78 to
R81, R502 to R505). -/

namespace Sys2Proof.Machine

/-- A word of a row has been upset: a single-bit error, or an uncorrectable one (R76, R77). -/
def State.upsetWord (s : State) (ash slice row : Nat) (f : Nat × Bool) : State :=
  let k := s.physWord ash slice row f.1
  let v := if f.2 then 2 else max 1 (mapGet 0 s.bulk.upset k)
  { s with bulk := { s.bulk with upset := mapSet 0 s.bulk.upset k v } }

/-- The scrubber has read one word of a row: it writes back a corrected one and counts it, and records an uncorrectable one
without halting (R65, R76 to R78). -/
def State.scrubWord (s : State) (ash slice row col : Nat) : State :=
  let k := s.physWord ash slice row col
  match mapGet 0 s.bulk.upset k with
  | 0 => s
  | 1 => { s with bulk := { s.bulk with upset := mapSet 0 s.bulk.upset k 0 } }.logCE ash slice row
  | _ =>
    let p := partOf ash
    let i := idxOf ash
    let a := slice <<< 22 + row <<< 9 + col <<< 3
    let s := ((s.put (Reg.TILE_ECC_UE_ADDR.ADDR p i) a).put (Reg.TILE_ECC_UE_ADDR.VALID p i) 1).put (Reg.TILE_STATUS.UE p i) 1
    s.logEvent { code := 0x24, effect := 1, source := 3, part := p, ash := i, detail := detailAsh ash a slice }

/-- The row vector that an ashlar's scrubber comes to next (R65): slice by slice and row by row, over the slices that are
READY; the order is the model's choice (log entry 96, DESIGN CHOICE). -/
def State.scrubNext (s : State) (ash : Nat) : Option (Nat × Nat) :=
  let n := (mapGet (0, 0) s.scrub ash).1 % 65536
  let slices := (List.range 9).map fun i => ((n / 8192 + i) % 8, if i = 0 then n % 8192 else 0)
  slices.find? fun x => s.sliceReady ash x.1

/-- The scrubber of an ashlar can read and write a row vector of a slice in bank cycle `at_`: neither engines nor landings use
its banks, and INTERVAL cycles have passed since it started the one before (R65). -/
def State.scrubFree (s : State) (ash slice at_ : Nat) : Bool :=
  s.turn (s.domOf ash) at_ && (s.accesses ash slice at_).isEmpty && decide ((mapGet (0, 0) s.scrub ash).2 ≤ at_)
    && (match mapGet? s.fab.landLog (ash * 8 + slice) with | some (t, _) => decide (t ≠ at_) | none => true)

/-- The environment names the words of a row that have been upset; and in bank cycle `at_` the scrubber, while it is enabled,
reads, corrects and writes back the row, where its walk has come to it (R65). -/
def State.scrubOp (s : State) (ash slice row at_ : Nat) (found : List (Nat × Bool)) : State :=
  if s.sliceReady ash slice then
    let s := forAll found (fun s f => s.upsetWord ash slice row f) s
    let ctl := Reg.TILE_SCRUB_CTRL.EN (partOf ash) (idxOf ash)
    if s.get ctl = 1 ∧ s.scrubNext ash = some (slice, row) ∧ s.scrubFree ash slice at_ = true then
      let s := s.reachWall (s.domOf ash) at_
      let next := (slice * 8192 + row + 1, at_ + s.get (Reg.TILE_SCRUB_CTRL.INTERVAL (partOf ash) (idxOf ash)))
      let s := { s with scrub := mapSet (0, 0) s.scrub ash next }
      forAll (List.range 64) (fun s c => s.scrubWord ash slice row c) s
    else s
  else s

/-- SCRUB_ROW. -/
def execScrubRow (ash slice row : Nat) (found : List (Nat × Bool)) (s : State) (at_ : Nat := 0) : Host.Outcome State Fault Refusal :=
  s.answer (s.scrubOp ash slice row at_ found)

/-- Power-up and clearing of a slice have finished (R73). -/
def State.sliceReadyOp (s : State) (ash slice : Nat) : State :=
  let p := partOf ash
  let i := idxOf ash
  let r := Reg.TILE_SLICE_PWR.READY p i
  if bitOf (s.get (Reg.TILE_SLICE_PWR.PWR_EN p i)) slice && !s.sliceReady ash slice then
    (s.wipeSlice ash slice).put r (s.get r ||| 2 ^ slice)
  else s

/-- SLICE_READY. -/
def execSliceReady (ash slice : Nat) (s : State) : Host.Outcome State Fault Refusal := s.answer (s.sliceReadyOp ash slice)

/-- The bank copy of a slice has ended: its words are in the spare bank, and the entry is activated (R505). -/
def State.bankCopyOp (s : State) (ash slice : Nat) : State :=
  match s.mgmt.groutCopy.find? fun c => c.1 = ash && c.2.1 = slice with
  | none => s
  | some (_, _, v) =>
    let bank := v.toNat % 64
    let s := forAll (List.range 8192) (fun s row =>
      let w := s.physWord ash slice row ((bank + 8192 - row) % 64)
      s.copyWord w (w - w % 65 + 64)) s
    let s := s.storeReg .fw (Reg.TILE_GROUT_BANK.addr (partOf ash) (idxOf ash) slice) v
    { s with mgmt := { s.mgmt with groutCopy := s.mgmt.groutCopy.filter fun c => ¬ (c.1 = ash ∧ c.2.1 = slice) } }

/-- GROUT_BANK_COPY_END. -/
def execGroutBankCopyEnd (ash slice : Nat) (s : State) : Host.Outcome State Fault Refusal := s.answer (s.bankCopyOp ash slice)

/-! ## Regrout (R502, R504) -/

/-- The log entry of a slice whose count has reached the threshold (R78). -/
def State.wornEntry (s : State) (ash slice : Nat) : Option Nat :=
  let p := partOf ash
  let i := idxOf ash
  ([0, 1, 2, 3].map (slice * 4 + ·)).find? fun e =>
    s.get (Reg.TILE_CE_LOG.VALID p i e) = 1 && decide (s.get (Reg.TILE_CE_THRESHOLD.THRESHOLD p i) ≤ s.get (Reg.TILE_CE_LOG.COUNT p i e))

/-- The lowest-numbered spare row of a slice whose entry is not valid. -/
def State.freeSpare (s : State) (ash slice : Nat) : Option Nat :=
  (List.range 32).find? fun j => s.get (Reg.TILE_GROUT_ROW.VALID (partOf ash) (idxOf ash) (slice * 32 + j)) = 0

/-- The grout map entries of a slice go to flash (R427). -/
def State.flashGrout (s : State) (ash slice : Nat) : State :=
  let g := forAll (List.range 32) (fun (m : SMap Word) j =>
    mapSet 0 m (ash * 264 + slice * 32 + j) (s.rw (Reg.TILE_GROUT_ROW.addr (partOf ash) (idxOf ash) (slice * 32 + j)))) s.mgmt.flash.grout
  let g := mapSet 0 g (ash * 264 + 256 + slice) (s.rw (Reg.TILE_GROUT_BANK.addr (partOf ash) (idxOf ash) slice))
  { s with mgmt := { s.mgmt with flash := { s.mgmt.flash with grout := g } } }

/-- Boluk queues the new entry, and directly behind it the clearing of the worn spare row's own entry. -/
def State.regroutStart (s : State) (ash slice e : Nat) : State :=
  let p := partOf ash
  let i := idxOf ash
  let row := s.get (Reg.TILE_CE_LOG.ROW p i e)
  match s.freeSpare ash slice with
  | none =>
    let k := ash * 8 + slice
    if s.flt.spareLogged.contains k then s
    else
      let s := s.logOnce { code := 0x27, effect := 1, source := 3, part := p, ash := i, detail := detailAsh ash (slice <<< 22 + row <<< 9) slice }
      { s with flt := { s.flt with spareLogged := k :: s.flt.spareLogged } }
  | some j =>
    let old := s.spareRow ash slice row
    let s := s.pendWrite .fw (.reg (Reg.TILE_GROUT_ROW.addr p i (slice * 32 + j)) (BitVec.ofNat 32 (row + 2 ^ 15)))
    let s := match old with
      | some k => s.pendWrite .fw (.reg (Reg.TILE_GROUT_ROW.addr p i (slice * 32 + k)) 0)
      | none => s
    { s with mgmt := { s.mgmt with regrouts := s.mgmt.regrouts ++ [(ash, slice, row, j, e)] } }

/-- A pending write of a grout entry of a slice still waits. -/
def State.groutWaits (s : State) (ash slice : Nat) : Bool :=
  let q := s.pendAt (partOf ash)
  let here (x : PendWhat) : Bool := match x with
    | .reg a _ => (List.range 32).any fun j => a = Reg.TILE_GROUT_ROW.addr (partOf ash) (idxOf ash) (slice * 32 + j)
    | _ => false
  q.queue.any here || q.waiting.any fun h => here h.what

/-- One step of Boluk's response to CE_EVENT: queue the entries; once they are applied, free the log entry and write the
flash. Another row of the slice that has reached its threshold meanwhile waits for the next. -/
def State.regroutOp (s : State) (ash slice : Nat) : State :=
  let p := partOf ash
  let i := idxOf ash
  if s.mgmt.boluk = false ∨ s.mgmt.policy.regrout = 0 then s
  else match s.mgmt.regrouts.find? fun r => r.1 = ash && r.2.1 = slice with
    | some (_, _, _, _, e) =>
      if s.groutWaits ash slice then s
      else
        let s := s.ww (Reg.TILE_CE_LOG.addr p i e) 0
        let s := s.flashGrout ash slice
        { s with mgmt := { s.mgmt with
          regrouts := s.mgmt.regrouts.filter fun r => ¬ (r.1 = ash ∧ r.2.1 = slice)
          eventsWaiting := s.mgmt.eventsWaiting.erase (ash, slice) } }
    | none =>
      if s.mgmt.eventsWaiting.contains (ash, slice) then
        match s.wornEntry ash slice with
        | some e => s.regroutStart ash slice e
        | none => s
      else s

/-- REGROUT. -/
def execRegrout (ash slice : Nat) (s : State) : Host.Outcome State Fault Refusal := s.answer (s.regroutOp ash slice)

end Sys2Proof.Machine
end

