-- ==== Sys2Proof/WellFormed.lean ====
section
/-! DEFINITION. Which commands name parts of the module that exist. -/

namespace Sys2Proof

/-- A partition number (12 partitions, R1). -/
def wfPart (p : Nat) : Bool := decide (p < 12)
/-- A logical ashlar and a slice of it (576 ashlars, 8 slices, R49, R54). -/
def wfAsh (a : Nat) : Bool := decide (a < 576)
def wfSlice (x : Nat) : Bool := decide (x < 8)
/-- A Ubnov port (32, R1). -/
def wfPort (p : Nat) : Bool := decide (p < 32)
/-- A virtual function is a partition's number (R523). -/
def wfWho : Who → Bool
  | .vf n => wfPart n
  | _ => true
/-- A register address is a multiple of 4 (R446). -/
def wfAddr (a : Nat) : Bool := decide (a % 4 = 0)
/-- What a pending write writes stays inside an ashlar's 32 MiB, the registers, or a cornice. -/
def wfPend : PendWhat → Bool
  | .scratch ash addr data => wfAsh ash && decide (addr + data.length ≤ 33554432)
  | .reg addr _ => wfAddr addr
  | .commit part ia _ => wfPart part && decide (ia < 6144)

/-- A rate of PCI Express from 2.5 to 64 GT/s, and a width that an endpoint of 16 lanes can have (R522, R544). -/
def wfPci (rate width : Nat) : Bool := decide (1 ≤ rate) && decide (rate ≤ 6) && [1, 2, 4, 8, 16].contains width
/-- A write to the endpoint names a function, and a vector that it has (R523). -/
def wfPciWrite : PciWrite → Bool
  | .config fn off _ => decide (fn < 13) && decide (off < 4096) && decide (off % 4 = 0)
  | .bar fn j _ => decide (fn < 13) && decide (j < 3)
  | .vector fn n .. => decide (fn < 13) && decide (n < if fn = 0 then 64 else 8)
  | .mask fn _ => decide (fn < 13)
/-- A channel has four associations (R533). -/
def wfSa : SaChange → Bool
  | .install _ an key _ => decide (an < 4) && decide (key.length = 32)
  | .remove _ an => decide (an < 4)

/-- Ashlars whose crossing entries come late (R301, R307). -/
def wfLate (l : List (Nat × Nat)) : Bool := l.all fun v => wfAsh v.1
/-- A fault of an array names one of its four arrays (R85) and a place in it. -/
def wfFault (f : ArrFault) : Bool :=
  wfAsh f.ash && decide (f.arr < 4)
    && (match f.place with
        | .cell r c => decide (r < 64) && decide (c < 64)
        | .column c => decide (c < 64)
        | .checkColumn r => decide (r < 64)
        | .shadowRow | .checkAcc => true)

/-- The command names partitions, ashlars, slices, ports, registers and mailboxes that exist. -/
def Instr.wf : Instr → Bool
  | .tickEnable w _ | .clkGlacierWrite w _ | .stepRequest w _ | .resvApply w _ | .planCommit w _ | .loadSubmit w _
  | .recCtrlWrite w _ => wfWho w
  | .tickParamWrite w a _ | .registerWrite w a _ | .morChainWrite w a _ => wfWho w && wfAddr a
  | .readToClear w a | .loLatchRead w a => wfWho w && wfAddr a
  | .arm w p _ | .disarm w p | .domainReset w p | .swapGo w p | .corniceDataLoRead w p | .corniceDataHiRead w p =>
    wfWho w && wfPart p
  | .corniceDataHiWrite w p _ | .fastCancel w p _ => wfWho w && wfPart p
  | .srvCtxWrite w p c off _ => wfWho w && wfPart p && decide (c < 256) && wfAddr off
  | .hostPartitionWrite w x => wfWho w && wfPend x
  | .hostDataWindowRead w .. | .hostDataWindowWrite w .. => wfWho w
  | .granuleLand a sl _ e _ => wfAsh a && wfSlice sl && decide (e < 3)
  | .scrubRow a sl row found _ => wfAsh a && wfSlice sl && decide (row < 8192) && found.all fun f => decide (f.1 < 64)
  | .slicePowerCtrl w a _ => wfWho w && wfAsh a
  | .sliceReady a sl | .groutBankCopyEnd a sl | .regrout a sl => wfAsh a && wfSlice sl
  | .groutRowApply w a n _ => wfWho w && wfAsh a && decide (n < 256)
  | .groutBankWrite w a sl _ => wfWho w && wfAsh a && wfSlice sl
  | .ubnPacketReceive p .. | .egressSend p .. | .linkAck p .. | .linkReplay p _ | .replayComplete p _ | .linkDown p
  | .linkNarrowed p _ | .narrowingDone p | .linkBerWindow p .. | .portTrained p .. | .identityFrame p .. | .identTimeout p
  | .plannedLinkMissing p | .lightReturns p => wfPort p
  | .retrain w p _ => wfWho w && wfPort p
  | .ingressRelease a _ => wfAsh a
  | .droopStretch a .. | .stretchEnd a _ => wfAsh a
  | .arrayOpStart p faults => wfPart p && faults.all wfFault
  | .stepChangeApply late => wfLate late
  | .refreshShadow k | .moraineStackFailed k _ | .moraineStackHot k _ => decide (k < 32)
  | .moraineReadRetry c _ _ r => decide (c < 7) && decide (r < 3)
  | .morainePatrolScrub row r => decide (row < 4000000000) && decide (r < 3)
  | .loadComplete e .. | .rdmaLoadTimeout e _ | .rdmaWrite e .. | .streamFrameTransmit e | .ethFrameReceive e ..
  | .ptpEventMessage e .. => decide (e < 2)
  | .ethLinkChange e _ speed sas => decide (e < 2) && decide (speed < 3) && sas.all wfSa
  | .pciExpressLinkUp rate width _ writes => wfPci rate width && writes.all wfPciWrite
  | .ptpTsRead w e => wfWho w && decide (e < 2)
  | .ethFlowWrite w f _ _ => wfWho w && decide (f < 4096)
  | .getInfo m | .imageWrite m | .imageCommit m | .mbxReset m | .partitionLoad m | .faultRead m | .policyGet m
  | .policySet m | .planSet m | .mailboxBadOpcode m => decide (m < 13)
  | .temperatureSample ts _ late => decide (ts.length = 96) && wfLate late
  | .pendingWriteApply p | .courseStart p | .endcRetire p | .freezeEnd p | .freezeLimitExceeded p | .pendingQueueAdmit p
  | .vectorOpStart p | .transferOpStart p | .summaryArrival p
  | .mma p | .mmw p | .accz p | .win p | .chk p | .vch p | .vred p | .vsum p | .cvt p | .mxp p | .mxu p | .rsc p
  | .smp p | .smpCommit p | .emit p | .emitPresent p
  | .nop p | .loop p | .jmp p | .brs p | .call p | .endc p | .ovl p | .setq p | .addq p | .halt p
  | .movi p | .alu p | .cmpp p | .rdf p | .rdt p | .rdz p | .ldw p | .lda p | .st p | .xfer p | .mcast p | .stk p
  | .semp p | .semw p | .waitc p | .rel p | .acq p | .fence p
  | .overlayLoadStart p | .overlayLoadDone p | .overlayDeadlock p | .stkDeadline p
  | .servingBoundary p | .cmdOpen p | .cmdAppend p | .cmdGo p | .cmdCancel p | .cmdSet p | .cmdClose p | .cmdPark p
  | .cmdResume p | .cmdDrop p | .cmdAbort p | .cmdTouch p | .badOpcodeCommand p | .swapDone p _ => wfPart p
  | .resumeCommit p c | .resumeDataError p c _ => wfPart p && decide (c < 256)
  | .parkCommit slot | .handleExpiry slot => decide (slot < 65536)
  | .tick | .rackSyncEdge _ | .sempMessageArrival .. | .getReqArrival .. | .completionArrival .. | .stkRowComplete ..
  | .plumbCalibration .. | .refQualified _ | .referenceLost | .holdoverLimitExceeded | .phaseSlewEnd
  | .creditGrantArrival .. | .mcCopyRelease _ | .multicastStuck _ | .relayPacketArrival _
  | .powerOn .. | .powerLoss _ | .coldReset _ | .warmReset _ | .managementReset | .perstAssert | .bootRomVerify
  | .imageVerify | .imageApply | .firmwareWatchdog | .governorLoop _ | .throttleClear | .telemetrySample .. | .faultLogCopy
  | .replayEntryApply _ | .mctpMessage .. | .pldmFirmwareUpdate .. | .dieInitEnd
  | .moraineWritePerformed _ => true

end Sys2Proof
end

