-- ==== Sys2Proof/Machine/Boot.lean ====
section
/-! DEFINITION. Identity, the firmware mailbox, resets, power and the hardware's part of the boot (R51, R53, R452 to R459, R462 to
R465, R527, R541, R542). The whole of a reset is one step: the time it takes passes with the boot stages (log entry 50). -/

namespace Sys2Proof.Machine

/-! ## The mailbox (R462, R463) -/

/-- Where an instance lies: 0 to 11 the partitions' mailboxes, 12 the module's. -/
def mbxBase (m : Nat) : Nat := if m = 12 then 0x81000 else Reg.window m 0x10000
/-- The BUSY, DONE, OVERRUN and RESET_ABORT bits of an instance. -/
def mbxBit (m i : Nat) : Slot := ⟨mbxBase m + 0x2004, i, i⟩
def State.mbxBusy (s : State) (m : Nat) : Bool := s.get (mbxBit m 0) = 1
/-- A word of the request. -/
def State.mbxReq (s : State) (m i : Nat) : Nat := (s.rw (mbxBase m + 4 * i)).toNat
def State.mbxOpcode (s : State) (m : Nat) : Nat := s.mbxReq m 0 % 256
def State.mbxTag (s : State) (m : Nat) : Nat := bitsOf (s.mbxReq m 0) 31 16
/-- Length of the request's payload, at most 4,088 bytes. -/
def State.mbxLen (s : State) (m : Nat) : Nat := min 4088 (s.mbxReq m 1)
/-- The bytes of the request's payload. -/
def State.mbxData (s : State) (m : Nat) : List Byte :=
  ((List.range ((s.mbxLen m + 3) / 4)).flatMap fun i => leBytes 4 (s.mbxReq m (2 + i))).take (s.mbxLen m)
/-- A 64-bit word of the payload. -/
def State.mbxQuad (s : State) (m i : Nat) : Nat := leNat (((s.mbxData m).drop (8 * i)).take 8)

/-- A request ends: BUSY clears and DONE is set in one write, and the interrupts fire (R463, R524). -/
def State.mbxDone (s : State) (m : Nat) : State :=
  let s := (s.put (mbxBit m 0) 0).put (mbxBit m 1) 1
  if m = 12 then s.irq 0 0 else (s.irq 0 (4 + m)).irq (m + 1) 0

/-- The words of a byte string, four bytes each. -/
def wordsOf (b : List Byte) : List Nat := (List.range ((b.length + 3) / 4)).map fun i => leNat ((b.drop (4 * i)).take 4)

/-- Boluk writes the response in full. A request that came by MCTP is answered there as well (R536). -/
def State.mbxAnswer (s : State) (m status : Nat) (payload : List Byte) : State :=
  let rsp := mbxBase m + 0x1000
  let ws := [s.mbxOpcode m + status <<< 8 + s.mbxTag m <<< 16, payload.length] ++ wordsOf payload
  let s := ({ s with regs := mapClear s.regs rsp (rsp + 0x1000) } : State).wwList rsp ws
  let s :=
    if m = 12 && s.mgmt.mctpAsk then
      { s.send (.mctp 0x7E (ws.flatMap (leBytes 4)) s.mgmt.mctpVia) with mgmt := { s.mgmt with mctpAsk := false } }
    else s
  s.mbxDone m

/-- Every BUSY instance but one completes with RESET_ABORTED (R456, R465). -/
def State.mbxAbort (s : State) (keep : Option Nat) (mark : Bool) : State :=
  forAll ((List.range 13).filter fun m => s.mbxBusy m && decide (keep ≠ some m)) (fun s m =>
    let s := s.mbxAnswer m 0x0F []
    if mark then s.put (mbxBit m 3) 1 else s) s

/-- A write of GO. -/
def State.mbxGo (s : State) (m : Nat) : State := if s.mbxBusy m then s.put (mbxBit m 2) 1 else s.put (mbxBit m 0) 1

/-! ## Resets (R453, R454) -/

/-- Registers that a warm reset keeps: the time base, the measurements and the energy total, the fault log, the management
complex with its mailboxes, and the host link (log entry 51). -/
def warmKeeps (a : Nat) : Bool :=
  let within (lo hi : Nat) : Bool := decide (lo ≤ a) && decide (a < hi)
  within 0x18120 0x1813C || within 0x50010 0x50024 || within 0x60000 0x60014 || within 0x60018 0x60020 || within 0x60100 0x60280
    || within 0x70000 0x70010 || within 0x78000 0x80000 || within 0x80000 0x84000 || within 0x220000 0x22000C
    || (decide (0x01000000 ≤ a) && decide (a < 0x02000000) && decide (0x10000 ≤ a % 0x100000) && decide (a % 0x100000 < 0x13000))

/-- What a base-die reset clears among the management registers (R442, R466). -/
def State.clearBoot (s : State) : State :=
  let s := ((s.put Reg.MGT_BOOT_STATUS.IMAGE_SLOT 0).put Reg.MGT_BOOT_STATUS.FALLBACK 0).put Reg.MGT_BOOT_STATUS.SEALED 0
  let s := (s.put Reg.MGT_BOOT_STATUS.REASON 0).put Reg.MGT_IMAGE_ID.ID 0
  let s := (s.ww Reg.MGT_SEAL.addr 0).put Reg.MGT_SVN.IMAGE_SVN 0
  { s with regs := mapClear s.regs 0x80020 0x80050 }

/-- The repair map of a base-die reset: the dead ashlars of the fuses and of the repair record. -/
def State.deadNow (s : State) : List (Nat × Nat) := (s.fuses.dead ++ s.mgmt.flash.repair).eraseDups

/-- The station addresses of the board EEPROM (R535, R544). -/
def State.loadMac (s : State) : State :=
  let s := s.put2 (Reg.ETH_MAC_LO.MAC 0) (Reg.ETH_MAC_HI.MAC 0) s.fuses.mac0.toNat
  s.put2 (Reg.ETH_MAC_LO.MAC 1) (Reg.ETH_MAC_HI.MAC 1) s.fuses.mac1.toNat

/-- A cold reset: the whole module; the moraine, the park handles, the on-die log and the glacier count are lost. The flash
stays. `power` tells whether the module has power afterwards. -/
def State.coldState (s : State) (power : Bool) : State :=
  let dead := s.deadNow
  let t : State := { State.reset with
    fuses := s.fuses
    pending := s.pending
    out := s.out
    freeCtr := s.freeCtr
    mgmt := { flash := s.mgmt.flash, powered := power, dead := dead, disabled := deadParts dead } }
  t.loadMac

/-- A cold reset with its cause. Mailbox instances that are BUSY complete with RESET_ABORTED before it (R465). -/
def State.coldOp (s : State) (cause : Nat) (keep : Option Nat) : State :=
  if s.mgmt.powered then ((s.mbxAbort keep false).coldState true).put Reg.MGT_RESET_CAUSE.CAUSE cause else s

/-- A warm reset: the base die, the strata and the ports. No course finishes and nothing that has not been released is. The
moraine, the fault log, Boluk and the host link stay; all park handles are freed without records. -/
def State.warmOp (s : State) (cause : Nat) (keep : Option Nat) : State :=
  if s.mgmt.powered then
    let s := s.mbxAbort keep false
    let t := State.reset
    let dead := s.deadNow
    let s : State :=
      { s with
        regs := s.regs.filter fun e => warmKeeps e.1
        latches := []
        bulk := { moraine := s.bulk.moraine }
        clk := { glacier := s.clk.glacier, lostAt := s.clk.lostAt, holdLogged := s.clk.holdLogged, glacierLo := s.clk.glacierLo }
        doms := t.doms
        fab := { nextId := s.fab.nextId }
        ports := t.ports
        disc := {}
        haz := {}
        srv := t.srv
        park := { gens := s.park.gens }
        mor := { bad := s.mor.bad }
        pend := t.pend
        posted := []
        scrub := []
        mgmt := { s.mgmt with
          policy := {}
          dieDone := false
          calDone := false
          verDone := none
          moduleDigest := []
          dead := dead
          disabled := deadParts dead
          eventsWaiting := []
          groutCopy := []
          regrouts := []
          loading := none }
        flt := { toCopy := s.flt.copies }
        recd := {}
        eth := t.eth
        flowSeq := []
        rdata := .none }
    let s := s.clearBoot.loadMac.put Reg.MGT_RESET_CAUSE.CAUSE cause
    if s.mgmt.boluk then (s.put Reg.MGT_BOOT_STATUS.STAGE 1).moveStage else s
  else s

/-- A management reset: Boluk stops and is restarted from flash; requests that were BUSY are aborted, a PLDM update ends, and a
partition reset that has begun is finished by the next PARTITION_LOAD, since it takes effect entirely (R463). The hardware keeps
running (R456, R465). -/
def State.mgmtOp (s : State) : State :=
  if s.mgmt.boluk then
    let s := s.incSat Reg.MGT_RESET_CAUSE.MGMT_RESETS
    { s with mgmt := { s.mgmt with
      updKind := none
      loading := s.mgmt.loading.map fun (v : Nat × Nat × Nat) => (v.1, 13, v.2.2) } }.mbxAbort none true
  else s

/-- COLD_RESET. -/
def execColdReset (cause : Nat) (s : State) : Host.Outcome State Fault Refusal := s.answer (s.coldOp cause none)

/-- WARM_RESET. -/
def execWarmReset (cause : Nat) (s : State) : Host.Outcome State Fault Refusal := s.answer (s.warmOp cause none)

/-- MANAGEMENT_RESET. -/
def execManagementReset (s : State) : Host.Outcome State Fault Refusal := s.answerCtl s.mgmtOp

/-- FIRMWARE_WATCHDOG: 500 ms without service (R457). -/
def State.watchdogOp (s : State) : State :=
  if s.mgmt.boluk then (s.logOnce { code := 0xE0, effect := 2 }).mgmtOp else s

/-- FIRMWARE_WATCHDOG. -/
def execFirmwareWatchdog (s : State) : Host.Outcome State Fault Refusal := s.answerCtl s.watchdogOp

/-- A write of MGT_RESET_CTRL: only with KEY 0xA5; COLD before WARM before MGMT (R466). -/
def State.resetCtrlOp (s : State) (w : Who) (v : Word) : State :=
  s.gated w Reg.MGT_RESET_CTRL.addr .wo fun s =>
    if bitsOf v.toNat 15 8 ≠ 0xA5 then s
    else if bitOf v.toNat 1 then s.coldOp 1 none
    else if bitOf v.toNat 0 then s.warmOp 4 none
    else if bitOf v.toNat 2 then s.mgmtOp
    else s

/-! ## Power and PERST# (R527, R541, R542) -/

/-- The input rises through 44.0 V with PRESENT mated. -/
def State.powerOnOp (s : State) (mv : Nat) (present : Bool) : State :=
  if s.mgmt.powered then s
  else if present && decide (44000 ≤ mv) then ((s.coldState true).put Reg.MGT_RESET_CAUSE.CAUSE 0).send (.pwrOk true)
  else { s with mgmt := { s.mgmt with input := present && decide (0 < mv) } }

/-- POWER_ON. -/
def execPowerOn (mv : Nat) (present : Bool) (s : State) : Host.Outcome State Fault Refusal := s.answer (s.powerOnOp mv present)

/-- Turn-off: every load stops, everything but flash and fuses is lost; `mv` is left of the input. -/
def State.powerLossOp (s : State) (mv : Nat) : State :=
  let t := (s.coldState false).send (.pwrOk false)
  { t with mgmt := { t.mgmt with input := decide (0 < mv) } }

/-- POWER_LOSS. -/
def execPowerLoss (s : State) (mv : Nat := 0) : Host.Outcome State Fault Refusal := s.answer (s.powerLossOp mv)

/-- The endpoint alone is reset: the link is down, configuration space, BARs and MSI-X tables are at their reset values, host writes
not yet accepted are lost. -/
def State.endpointReset (s : State) : State :=
  let s := { s.ww Reg.MGT_PCI_LINK.addr 0 with
    pciUp := false
    pci := {}
    posted := [] }
  forAll (List.range 12) (fun s p =>
    let q := s.pendAt p
    s.setPend p { q with waiting := q.waiting.filter fun h => h.who = .fw }) s

/-- PERST# is asserted. -/
def State.perstOp (s : State) : State :=
  if s.mgmt.powered then
    let s := s.inc Reg.MGT_PCI_PERST_COUNT.COUNT
    match s.get Reg.MGT_RESET_CFG.PERST_ACTION with
    | 1 => s.warmOp 7 none
    | 2 => s.coldOp 3 none
    | _ => s.endpointReset
  else s

/-- PERST_ASSERT. -/
def execPerstAssert (s : State) : Host.Outcome State Fault Refusal := s.answer s.perstOp

/-- The vectors of a function that wait behind its mask fire as it is taken away. -/
def State.unmask (s : State) (fn : Nat) : State :=
  let s := { s with pci := { s.pci with masked := s.pci.masked.filter fun f => f ≠ fn } }
  forAll (s.pci.waiting.filter fun v => v.1 = fn) (fun s v => s.irq v.1 v.2)
    { s with pci := { s.pci with waiting := s.pci.waiting.filter fun v => v.1 ≠ fn } }

/-- The host writes to the endpoint's configuration space, BARs and MSI-X tables (R523, R524, R527). -/
def State.pciWrite (s : State) : PciWrite → State
  | .config fn off v => { s with pci := { s.pci with config := mapSet 0 s.pci.config (fn * 1024 + off / 4) v } }
  | .bar fn j v => { s with pci := { s.pci with bars := mapSet 0 s.pci.bars (fn * 4 + j) v } }
  | .vector fn n addr data => { s with pci := { s.pci with vectors := mapSet (0, 0) s.pci.vectors (fn * 64 + n) (addr, data) } }
  | .mask fn true => if s.pci.masked.contains fn then s else { s with pci := { s.pci with masked := s.pci.masked ++ [fn] } }
  | .mask fn false => s.unmask fn

/-- The host link trains (R522, R527): its rate, its width; Flit mode at 64 GT/s, and at a lower rate where the link has negotiated
it. Then the host sets up the endpoint. -/
def State.pciLinkOp (s : State) (rate width : Nat) (flit : Bool) (writes : List PciWrite) : State :=
  if s.mgmt.powered && wfPci rate width then
    let s := { ((s.put Reg.MGT_PCI_LINK.RATE rate).put Reg.MGT_PCI_LINK.WIDTH width).put Reg.MGT_PCI_LINK.FLIT
        (if rate = 6 || flit then 1 else 0) with pciUp := true }
    forAll writes (fun s w => s.pciWrite w) s
  else s

/-- PCI_EXPRESS_LINK_UP: also the host's later writes to the endpoint, while the link stays as it is (log entry 75). -/
def execPciExpressLinkUp (rate width : Nat) (s : State) (flit : Bool := false) (writes : List PciWrite := []) :
    Host.Outcome State Fault Refusal := s.answerCtl (s.pciLinkOp rate width flit writes)

/-! ## DIE_INIT (R458) -/

/-- The grout map comes from flash. -/
def State.loadGrout (s : State) : State :=
  forAll s.mgmt.flash.grout (fun s e =>
    let ash := e.1 / 264
    let n := e.1 % 264
    s.ww (if n < 256 then Reg.TILE_GROUT_ROW.addr (partOf ash) (idxOf ash) n
      else Reg.TILE_GROUT_BANK.addr (partOf ash) (idxOf ash) (n - 256)) e.2) s

/-- DIE_INIT ends: the carrier links are up, calibration begins with the load of the grout map, and the enabled Ubnov ports
start training. -/
def State.dieInitOp (s : State) : State :=
  if s.mgmt.boluk && !s.mgmt.dieDone then
    let s := s.put Reg.MOR_STATUS.LINK_UP 15
    let s := s.loadGrout
    let s := forAll (List.range 32) (fun s p =>
      if s.get (Reg.UBN_PORT_CTRL.EN p) = 1 then s.put (Reg.UBN_PORT_STATUS.STATE p) 1 else s) s
    { s with mgmt := { s.mgmt with dieDone := true } }.moveStage
  else s

/-- DIE_INIT_END. -/
def execDieInitEnd (s : State) : Host.Outcome State Fault Refusal := s.answerCtl s.dieInitOp

end Sys2Proof.Machine
end

