-- ==== Sys2Proof/Machine/Compute.lean ====
section
/-! DEFINITION. Issue of the array, vector, conversion and serving instructions: their checks and the queue entry they take
(R213, R240, R241, R244 to R255, R258). What they do from their start on is in Array, Vector, Transfer and Serving. -/

namespace Sys2Proof.Machine

/-- An a-register's selector (R214). -/
def selA (n : Nat) : Nat := 32 + n

/-- An instruction bound for an engine queue: it waits for the registers it reads, is checked in each ashlar, and takes its
entry. -/
def State.engineOp (s : State) (d : Nat) (w : Quad) (ia : Nat) (e : Eng) (reads : List Nat) (chk : Nat → Option Nat) : IssueRes :=
  s.reading d reads fun _ => s.checked d ia w chk fun _ => s.enqueue d ia w e

/-! ## Array -/

/-- Registers a pass reads (R243). -/
def Pass.reads' (p : Pass) : List Nat :=
  [selA p.aw, selA p.ax] ++ if isMx p.wf then [selA p.aws, selA p.axs] else []

/-- MMA and MMW (R244, R245). -/
def State.passAct (s : State) (d : Nat) (w : Quad) (ia : Nat) : IssueRes :=
  let p := passOf w
  s.engineOp d w ia .array p.reads' fun a => rangeIf (!p.areasOk s.bulk.core a)

/-- An array instruction without register operands (R246). -/
def State.arrayAct (s : State) (d : Nat) (w : Quad) (ia : Nat) : IssueRes := s.enqueue d ia w .array

/-- MMA. -/
def execMma (d : Nat) (s : State) : Host.Outcome State Fault Refusal := s.answer (s.issueOp d 4 0 fun s w ia => s.passAct d w ia)
/-- MMW. -/
def execMmw (d : Nat) (s : State) : Host.Outcome State Fault Refusal := s.answer (s.issueOp d 4 1 fun s w ia => s.passAct d w ia)
/-- ACCZ. -/
def execAccz (d : Nat) (s : State) : Host.Outcome State Fault Refusal := s.answer (s.issueOp d 4 2 fun s w ia => s.arrayAct d w ia)
/-- WIN. -/
def execWin (d : Nat) (s : State) : Host.Outcome State Fault Refusal := s.answer (s.issueOp d 4 3 fun s w ia => s.arrayAct d w ia)
/-- CHK. -/
def execChk (d : Nat) (s : State) : Host.Outcome State Fault Refusal := s.answer (s.issueOp d 4 4 fun s w ia => s.arrayAct d w ia)

/-! ## Vector and conversion -/

/-- The a-registers of a SLICE operand: base, stride, scale offset (R136, R247). -/
def sliceRegs (r : Nat × Nat) : List Nat := [selA r.2, selA (r.2 + 1)] ++ if isMx r.1 then [selA (r.2 + 2)] else []

/-- Registers a vector operation reads (R222). -/
def VOp.reads (v : VOp) : List Nat :=
  v.slices.flatMap sliceRegs ++ (if v.nk = 0 then sliceRegs (v.nf, v.nsel / 4) else [])
    ++ (match v.tab with | some a => [selA a] | none => []) ++ (v.args.filter fun a => a.kind = 2).map (·.idx)
    ++ (if v.cbEn then [v.cbSreg] else []) ++ (if v.sdstEn && v.sdstSlice then [selA (v.sdst % 16)] else [])

/-- An instruction of class 0x5 or 0x6 (R241, R247, R250, R253). -/
def State.vectorAct (s : State) (d : Nat) (w : Quad) (ia : Nat) : IssueRes :=
  match s.vopOf d w with
  | none => .done (s.seqHalt d 0x03 ia) .seq
  | some v => s.engineOp d w ia .vector v.reads fun a => rangeIf (!v.regsOk s.bulk.core a)

/-- VCH. -/
def execVch (d : Nat) (s : State) : Host.Outcome State Fault Refusal := s.answer (s.issueOp d 5 0 fun s w ia => s.vectorAct d w ia)
/-- VRED. -/
def execVred (d : Nat) (s : State) : Host.Outcome State Fault Refusal := s.answer (s.issueOp d 5 1 fun s w ia => s.vectorAct d w ia)
/-- VSUM. -/
def execVsum (d : Nat) (s : State) : Host.Outcome State Fault Refusal := s.answer (s.issueOp d 5 2 fun s w ia => s.vectorAct d w ia)
/-- CVT. -/
def execCvt (d : Nat) (s : State) : Host.Outcome State Fault Refusal := s.answer (s.issueOp d 6 0 fun s w ia => s.vectorAct d w ia)
/-- MXP. -/
def execMxp (d : Nat) (s : State) : Host.Outcome State Fault Refusal := s.answer (s.issueOp d 6 1 fun s w ia => s.vectorAct d w ia)
/-- MXU. -/
def execMxu (d : Nat) (s : State) : Host.Outcome State Fault Refusal := s.answer (s.issueOp d 6 2 fun s w ia => s.vectorAct d w ia)
/-- RSC. -/
def execRsc (d : Nat) (s : State) : Host.Outcome State Fault Refusal := s.answer (s.issueOp d 6 3 fun s w ia => s.vectorAct d w ia)

/-! ## Serving -/

/-- The serving engine an instruction names exists in the domain (R255, R258). -/
def State.rankOk (s : State) (d : Nat) (w : Quad) : Bool := decide (fld w 43 40 < (s.members d).length)

/-- SMP (R255). -/
def State.smpAct (s : State) (d : Nat) (w : Quad) (ia : Nat) : IssueRes :=
  if !s.rankOk d w then .done (s.seqHalt d 0x03 ia) .seq
  else s.engineOp d w ia .vector [fld w 39 35, fld w 34 30, selA (fld w 29 26), selA (fld w 29 26 + 1)]
    fun a => rangeIf (!smpOk w s.bulk.core a)

/-- SMP. -/
def execSmp (d : Nat) (s : State) : Host.Outcome State Fault Refusal := s.answer (s.issueOp d 7 1 fun s w ia => s.smpAct d w ia)

/-- The payload of an EMIT with MODE 1 lies within one slice (R258). -/
def emitOk (w : Quad) (core : SMap Word) (ash : Nat) : Bool :=
  fld w 34 34 = 0 || regionOk (aReg core ash (fld w 33 30)) (64 * emitLen w) 64

/-- EMIT (R258). -/
def State.emitAct (s : State) (d : Nat) (w : Quad) (ia : Nat) : IssueRes :=
  if !s.rankOk d w then .done (s.seqHalt d 0x03 ia) .seq
  else s.engineOp d w ia .transfer (fld w 39 35 :: if fld w 34 34 = 1 then [selA (fld w 33 30)] else [])
    fun a => rangeIf (!emitOk w s.bulk.core a)

/-- EMIT. -/
def execEmit (d : Nat) (s : State) : Host.Outcome State Fault Refusal := s.answer (s.issueOp d 7 0 fun s w ia => s.emitAct d w ia)

end Sys2Proof.Machine
end

