-- ==== Sys2Proof/Machine/EthPorts.lean ====
section
/-! DEFINITION. The Ethernet ports: links, RDMA WRITE, stream frames, MACsec drops, PTP stamps, flows (R528 to R534, R544). -/

namespace Sys2Proof.Machine

/-- A port is enabled and its link is up. -/
def State.ethUp (s : State) (e : Nat) : Bool := s.get (Reg.ETH_CTRL.EN e) = 1 && s.get (Reg.ETH_STATUS.LINK_UP e) = 1

/-- A port reports a link (R528, R533): it is enabled, its physical link is up at the speed that ETH_CTRL selects, and with
MACSEC_EN a transmit association is installed. -/
def State.ethLinked (s : State) (e : Nat) : Bool :=
  s.get (Reg.ETH_CTRL.EN e) = 1 && decide ((s.ethAt e).phy = some (s.get (Reg.ETH_CTRL.SPEED e)))
    && (s.get (Reg.ETH_CTRL.MACSEC_EN e) = 0 || !(s.ethAt e).txSa.isEmpty)

/-- LINK_UP follows, and SPEED with it. -/
def State.ethLink (s : State) (e : Nat) : State :=
  if s.ethLinked e then (s.put (Reg.ETH_STATUS.LINK_UP e) 1).put (Reg.ETH_STATUS.SPEED e) (s.get (Reg.ETH_CTRL.SPEED e))
  else s.put (Reg.ETH_STATUS.LINK_UP e) 0

/-- Boluk installs or removes an association; the transmit association installed last is the one in use (R533, log entry 58). -/
def Eth.sa (x : Eth) : SaChange → Eth
  | .install true an key xpn => { x with txSa := { an := an % 4, key, xpn } :: x.txSa.filter fun a => a.an ≠ an % 4 }
  | .install false an key xpn => { x with rxSa := { an := an % 4, key, xpn } :: x.rxSa.filter fun a => a.an ≠ an % 4 }
  | .remove true an => { x with txSa := x.txSa.filter fun a => a.an ≠ an % 4 }
  | .remove false an => { x with rxSa := x.rxSa.filter fun a => a.an ≠ an % 4 }

/-- A port's physical link comes up at a speed or goes down: an enabled port's, at one of the three speeds (R528). Boluk installs
and removes associations as MKA has it. -/
def State.ethLinkOp (s : State) (e : Nat) (up : Bool) (speed : Nat) (sas : List SaChange) : State :=
  let x := if s.mgmt.boluk then sas.foldl Eth.sa (s.ethAt e) else s.ethAt e
  let on := up && s.get (Reg.ETH_CTRL.EN e) = 1 && s.mgmt.powered && decide (speed < 3)
  (s.setEth e { x with phy := if on then some speed else none }).ethLink e

/-- ETH_LINK_CHANGE. -/
def execEthLinkChange (e : Nat) (up : Bool) (speed : Nat) (s : State) (sas : List SaChange := []) : Host.Outcome State Fault Refusal :=
  s.answerCtl (s.ethLinkOp e up speed sas)

/-- A write of ETH_CTRL: the link follows EN, SPEED and MACSEC_EN. -/
def State.ethCtrlOp (s : State) (w : Who) (e : Nat) (v : Word) : State :=
  s.gated w (Reg.ETH_CTRL.addr e) .rw fun s =>
    let s := s.storeReg w (Reg.ETH_CTRL.addr e) v
    (if bitOf v.toNat 0 then s else s.setEth e { s.ethAt e with phy := none }).ethLink e

/-! ## RDMA WRITE (R529, R530) -/

/-- The region that a key names. -/
def State.regionOf (s : State) (rkey : Nat) : Option Nat :=
  (List.range 256).find? fun m => s.get (Reg.ETH_MR_CFG.VALID m) = 1 && s.get (Reg.ETH_MR_RKEY.RKEY m) = rkey

/-- An RDMA WRITE is turned away. -/
def State.rdmaDeny (s : State) (e : Nat) : State := (s.inc (Reg.ETH_RDMA_NAK.COUNT e)).sendEth e (.rdmaNak e false)

/-- A write may land in region `m`: it lies inside, in units of 64 bytes, and the partition takes it (R432, R455, R515). -/
def State.rdmaFits (s : State) (m addr srcMod srcAsh len : Nat) : Bool :=
  let base := s.get (Reg.ETH_MR_BASE.BASE m)
  let p := s.get (Reg.ETH_MR_CFG.PART m)
  let ash := s.get (Reg.ETH_MR_CFG.ASHLAR m)
  decide (base ≤ addr) && decide (addr + len ≤ base + s.get (Reg.ETH_MR_LEN.LEN m)) && decide (addr % 64 = 0) && decide (len % 64 = 0)
    && s.reachable ash && !s.resetting p && !s.replaying p && s.accepts p { srcMod, srcAsh }

/-- An RDMA WRITE: its remote address is a tile-local address of the region's ashlar (log entry 59). -/
def State.rdmaWriteOp (s : State) (e rkey addr srcMod srcAsh : Nat) (data : List Byte) : State :=
  if !s.ethUp e then s
  else match s.regionOf rkey with
  | none => s.rdmaDeny e
  | some m =>
    if s.rdmaFits m addr srcMod srcAsh data.length then
      let ash := s.get (Reg.ETH_MR_CFG.ASHLAR m)
      let inc := s.get (Reg.ETH_MR_CFG.INC m) * (data.length / 64)
      (s.landSoon ash addr data (s.get (Reg.ETH_MR_CFG.CAIRN m)) inc (.eth srcMod)).sendEth e (.rdmaAck e)
    else s.rdmaDeny e

/-- RDMA_WRITE. -/
def execRdmaWrite (e rkey addr srcMod srcAsh : Nat) (data : List Byte) (s : State) : Host.Outcome State Fault Refusal :=
  s.answerCtl (s.rdmaWriteOp e rkey addr srcMod srcAsh data)

/-! ## Frames (R528, R531 to R533) -/

/-- Big-endian bytes of a number. -/
def beBytes (n x : Nat) : List Byte := (leBytes n x).reverse

/-- The stream header. -/
def streamHeader (f seq stamp : Nat) : List Byte :=
  beBytes 2 0x4753 ++ [1, 0] ++ beBytes 2 (f % 4096) ++ [0, 0] ++ beBytes 4 seq ++ beBytes 4 (stamp % 2 ^ 32)

/-- What a pause has held back leaves (R528). -/
def State.sendHeld (s : State) (e : Nat) : State :=
  if s.ethUp e && !s.ethPaused e then
    forAll (s.ethAt e).held (fun s o => s.sendFrame e o) (s.setEth e { s.ethAt e with held := [] })
  else s

/-- The oldest frame of a port's queue is sent, unless its priority is paused (R528); its record carries PHASE 0 (log entry 22). -/
def State.streamSendOp (s : State) (e : Nat) : State :=
  let s := s.sendHeld e
  match (s.ethAt e).queue with
  | [] => s
  | (f, ws, r) :: l =>
    if s.ethUp e && !s.ethPaused e then
      let seq := mapGet 0 s.flowSeq f
      let s := s.setEth e { s.ethAt e with queue := l }
      { s.sendFrame e (.udp e ws (streamHeader f seq s.now ++ quadBytes (r.words false) ++ r.payload)) with
        flowSeq := mapSet 0 s.flowSeq f ((seq + 1) % 2 ^ 32) }
    else s

/-- STREAM_FRAME_TRANSMIT. -/
def execStreamFrameTransmit (e : Nat) (s : State) : Host.Outcome State Fault Refusal := s.answerCtl (s.streamSendOp e)

/-- A port hears: it is enabled and its physical link is up, whatever MACsec says of sending. -/
def State.ethHears (s : State) (e : Nat) : Bool := s.get (Reg.ETH_CTRL.EN e) = 1 && (s.ethAt e).phy.isSome

/-- A frame does not validate (R533): it is unprotected, or fails, or no receive association is installed under its number. -/
def State.ethInvalid (s : State) (e an : Nat) (f : EthFrame) : Bool :=
  f = .unprotected || f = .invalid || !(s.ethAt e).rxSa.any fun a => decide (a.an = an)

/-- Glacier counts that a number of pause quanta, of 512 bit times each, takes at a speed (IEEE 802.1Qbb, R528). -/
def pauseTime (speed quanta : Nat) : Nat := ceilDiv (quanta * 512 * 2 ^ speed) 8000

/-- Priority flow control: the priority of PFC_PRIO is paused, or goes on; other pause frames are ignored (R528). -/
def State.pauseOp (s : State) (e prio quanta : Nat) : State :=
  if prio = s.get (Reg.ETH_CTRL.PFC_PRIO e) then
    (s.setEth e { s.ethAt e with pausedTo := s.now + pauseTime (s.get (Reg.ETH_CTRL.SPEED e)) quanta }).sendHeld e
  else s

/-- A CNP reduces its queue pair's rate, to a free value below it (R529; log entry 123); the lowest rate stays. -/
def State.cnpOp (s : State) (e qpn : Nat) : State :=
  let x := s.ethAt e
  let r := mapGet 65536 x.rate qpn
  s.setEth e { x with rate := mapInsert x.rate qpn (if r ≤ 1 then r else 1 + Config.cnpRate r % (r - 1)) }

/-- A frame of `len` bytes is received, protected under association `an`; `ecn` is the queue pair of an ECN-marked packet. -/
def State.ethReceiveOp (s : State) (e len : Nat) (f : EthFrame) (an : Nat) (ecn : Option Nat) : State :=
  let macsec := s.get (Reg.ETH_CTRL.MACSEC_EN e) = 1
  if !s.ethHears e then s
  else if f = .bad then s.inc (Reg.ETH_FCS_ERR.COUNT e)
  else if min 9216 (s.get (Reg.ETH_CTRL.MTU e)) < len then s
  else match f with
    | .bad => s
    | .pause prio quanta => s.pauseOp e prio quanta
    | f =>
      if macsec && s.ethInvalid e an f then s.inc (Reg.ETH_MACSEC_DROP.COUNT e)
      else if !s.ethUp e then s
      else
        let s := match ecn with | some q => s.sendEth e (.cnp e q) | none => s
        match f with
        | .rdmaOp => s.sendEth e (.rdmaNak e true)
        | .rdmaWrite rkey addr srcMod srcAsh data => s.rdmaWriteOp e rkey addr srcMod srcAsh data
        | .cnp qpn => if qpn < 128 then s.cnpOp e qpn else s
        | _ => s

/-- ETH_FRAME_RECEIVE. -/
def execEthFrameReceive (e len : Nat) (f : EthFrame) (s : State) (an : Nat := 0) (ecn : Option Nat := none) :
    Host.Outcome State Fault Refusal := s.answerCtl (s.ethReceiveOp e len f an ecn)

/-- A write of a flow entry restarts its SEQ. -/
def State.ethFlowOp (s : State) (w : Who) (f : Nat) (hi : Bool) (v : Word) : State :=
  let a := if hi then Reg.ETH_FLOW_HI.addr f else Reg.ETH_FLOW_LO.addr f
  s.gated w a .rw fun s => { s.storeReg w a v with flowSeq := mapErase s.flowSeq f }

/-- ETH_FLOW_WRITE. -/
def execEthFlowWrite (w : Who) (f : Nat) (hi : Bool) (v : Word) (s : State) : Host.Outcome State Fault Refusal :=
  s.answerCtl (s.posting w (.reg (0x210000 + 8 * f + if hi then 4 else 0) v) fun s => s.ethFlowOp w f hi v)

/-! ## PTP (R534) -/

/-- A PTP event message is stamped, `frac` sixteenths into the count. -/
def State.ptpEventOp (s : State) (e : Nat) (tx : Bool) (seqId frac : Nat) : State :=
  let x := s.ethAt e
  if !s.ethUp e then s
  else if 16 ≤ x.stamps.length then s.put (Reg.ETH_STATUS.OVF e) 1
  else s.setEth e { x with stamps := x.stamps ++ [((s.now * 16 + frac % 16) % 2 ^ 64, seqId % 65536, tx)] }

/-- PTP_EVENT_MESSAGE. -/
def execPtpEventMessage (e : Nat) (tx : Bool) (seqId frac : Nat) (s : State) : Host.Outcome State Fault Refusal :=
  s.answerCtl (s.ptpEventOp e tx seqId frac)

/-- The oldest stamp of a port, zero if there is none. -/
def State.ptpOldest (s : State) (e : Nat) : Nat := ((s.ethAt e).stamps.head?.map (·.1)).getD 0

/-- Half of a 64-bit value. -/
def hiWord (x : Nat) : Word := BitVec.ofNat 32 (x >>> 32)

/-- A read of ETH_PTP_TS_HI answers and removes the oldest stamp. -/
def State.ptpReadOp (s : State) (w : Who) (e : Nat) : State :=
  if s.hostOpen w (Reg.ETH_PTP_TS_HI.addr e) && whoReaches w (Reg.ETH_PTP_TS_HI.addr e) then
    let v := hiWord (s.ptpOldest e)
    { s.setEth e { s.ethAt e with stamps := (s.ethAt e).stamps.drop 1 } with rdata := .word v }
  else { s with rdata := .word 0 }

/-- PTP_TS_READ. -/
def execPtpTsRead (w : Who) (e : Nat) (s : State) : Host.Outcome State Fault Refusal := s.answerCtl (s.ptpReadOp w e)

end Sys2Proof.Machine
end

