-- ==== Sys2Proof/Machine/Governor.lean ====
section
/-! DEFINITION. The governor and the telemetry unit (R469 to R484). Powers are in uW, energies in pJ: a power that lasts one
microsecond is that many pJ. Quotients are rounded down to these units (log entry 54). -/

namespace Sys2Proof.Machine

/-- Watts in uW, joules in pJ. -/
def watt : Nat := 1000000
def joule : Nat := 1000000000000

/-- Change the governor's state. -/
def State.modGov (s : State) (f : Gov → Gov) : State := { s with gov := f s.gov }

/-- Set a bit of GOV_STATUS; the interrupt fires when it was 0 (R524). -/
def State.govBit (s : State) (f : Slot) (on : Bool) : State :=
  if on then (if s.get f = 1 then s else (s.put f 1).irq 0 3) else s.put f 0

/-- The active cap (R470). -/
def State.capActive (s : State) : Nat := min (s.get Reg.GOV_CAP.CAP_W * watt) (s.gov.vinMean * 90 * 1000)
/-- The slew in force, in W per ms (R469, R485). -/
def State.slew (s : State) : Nat := min (s.get Reg.GOV_SLEW.SLEW) (s.get Reg.GOV_FUSE.SLEW_MAX)

/-! ## The forecast (R476) -/

/-- The step whose scale a half's domains have: that of an accepted request from its acceptance on. -/
def State.forecastStep (s : State) (d : Nat) : Nat :=
  if s.get Reg.CLK_STEP_PLAN.PENDING = 1 then
    (if d < 6 then s.get Reg.CLK_STEP_PLAN.NEXT_W else s.get Reg.CLK_STEP_PLAN.NEXT_E)
  else s.stepOf d

/-- The scaled D of an armed domain, 0 for any other. -/
def State.domainPower (s : State) (d : Nat) : Nat :=
  match (s.dom d).profile with
  | some f =>
    if s.armed d then
      let later := if f.lead = 0 then 0 else f.forecast * watt - s.slew * f.lead * s.get Reg.CLK_COURSE_PERIOD.PERIOD * 10
      max (f.mean * watt) later * s.get (Reg.GOV_STEP_SCALE.SCALE (s.forecastStep d)) / 256
    else 0
  | none => 0

/-- The forecast. -/
def State.forecast (s : State) : Nat :=
  (List.range 12).foldl (fun n d => n + s.domainPower d) (s.get Reg.GOV_STATIC.STATIC_W * watt)

/-! ## Throttle freezes (R479 to R481) -/

/-- A throttle freeze is requested, unless one runs. -/
def State.requestThrottle (s : State) : State :=
  if s.gov.throttle.isSome then s
  else
    let len := s.get Reg.GOV_THROTTLE_LEN.COUNTS
    let s := (s.inc Reg.GOV_THROTTLE_COUNT.COUNT).inc Reg.GOV_THROTTLE_TIME.COUNTS len
    let s := (s.modGov fun v => { v with throttle := some (s.now, len) }).govBit Reg.GOV_STATUS.THROTTLING true
    forAll ((List.range 12).filter fun d => s.armed d && s.running d) (fun s d =>
      let w := s.wallNow d
      s.addFrz d { kind := .throttle, ref := .throttle, due := w, eff := s.cycleAt d w + Config.H }) s

/-- The requested number of glacier counts has elapsed. -/
def State.throttleClearOp (s : State) : State :=
  match s.gov.throttle with
  | none => s
  | some (g, len) =>
    let s := s.atLeast (g + len)
    let s := (s.modGov fun v => { v with throttle := none }).govBit Reg.GOV_STATUS.THROTTLING false
    forAll (List.range 12) (fun s d => if s.running d then s.clearFrz d (s.wallAt d (g + len)) fun r => r = .throttle else s) s

/-- THROTTLE_CLEAR. -/
def execThrottleClear (s : State) : Host.Outcome State Fault Refusal := s.answerCtl s.throttleClearOp

/-! ## The loop (R472, R473, R477, R478) -/

/-- An integer clamped to [lo, hi]. -/
def satInt (v lo hi : Int) : Int := min (max v lo) hi

/-- What the ballast generators of the enabled ashlars draw, in uW: 0.2 W each at every level (R477). -/
def State.ballastPower (s : State) : Nat := s.gov.ballast * 200000 * (48 * ((List.range 12).filter s.avail).length)

/-- The buffer's energy after a microsecond in which it gave `pLoad`. If it reaches E_MAX with ballast at its top, the input
converter draws nothing in that microsecond (R478). -/
def State.stepEnergy (s : State) (pLoad : Nat) : State :=
  let e : Int := (s.gov.e : Int) + s.gov.pIn - pLoad
  let stop := decide ((15 * joule : Int) ≤ e) && decide (s.gov.ballast = 15)
  let s := if stop then s.govBit Reg.GOV_STATUS.SLEW_BREACH true else s
  let v := (satInt (if stop then e - s.gov.pIn else e) 0 (15 * joule)).toNat
  let s := if 2 * joule ≤ s.gov.e ∧ v < 2 * joule then s.govBit Reg.GOV_STATUS.LOW_ENERGY true else s
  (s.modGov fun g => { g with
    e := v
    stopped := stop }).put Reg.GOV_E.E_MJ (v / 1000000000)

/-- The command to the input converter. -/
def State.stepCommand (s : State) : State :=
  let pull := satInt (((9 * joule : Int) - s.gov.e) / 1000) (-(200 * watt : Int)) (200 * watt)
  let want : Int := min ((s.forecast : Int) + pull) s.capActive
  let d := s.slew * 1000
  let cmd := ((s.gov.pCmd : Int) + satInt (want - s.gov.pCmd) (-(d : Int)) d).toNat
  let s := s.modGov fun g => { g with pCmd := cmd }
  (s.put Reg.GOV_TARGET.W (want.toNat / watt)).put Reg.GOV_P_CMD.W (cmd / watt)

/-- The ballast level takes a value (R477, R485). -/
def State.setBallast (s : State) (l : Nat) : State :=
  ((s.modGov fun g => { g with ballast := l }).put Reg.GOV_BALLAST.LEVEL l).govBit Reg.GOV_STATUS.BALLAST_ON (0 < l)

/-- The ballast level moves by at most one. -/
def State.stepBallast (s : State) : State :=
  if 14 * joule < s.gov.e ∧ s.get Reg.GOV_CTRL.BALLAST_EN = 1 then s.setBallast (min 15 (s.gov.ballast + 1))
  else if s.gov.e < 13 * joule then s.setBallast (s.gov.ballast - 1)
  else s

/-- One pass of the loop: `pLoad` is the power drawn from the buffer by everything but the ballast, in mW. -/
def State.governorOp (s : State) (pLoad : Nat) : State :=
  if s.mgmt.powered then
    let s := ((s.stepEnergy (pLoad * 1000 + s.ballastPower)).stepCommand).stepBallast
    if s.gov.e < 2 * joule ∨ s.gov.hardEpisode ∨ s.gov.tempEpisode then s.requestThrottle else s
  else s

/-- GOVERNOR_LOOP. -/
def execGovernorLoop (pLoad : Nat) (s : State) : Host.Outcome State Fault Refusal := s.answerCtl (s.governorOp pLoad)

/-! ## Measurement (R471, R482, R483) -/

/-- Mean of a list, rounded down. -/
def meanOf (l : List Nat) : Nat := l.foldl (· + ·) 0 / l.length

/-- A breach of the hard cap (R471). -/
def State.hardCap (s : State) (mean : Nat) : State :=
  let s := if s.gov.hardEpisode then s
    else (s.logOnce { code := 0xC3, effect := 1, detail := mean / watt }).govBit Reg.GOV_STATUS.HARD_CAP true
  let cmd := min s.gov.pCmd (s.capActive - 200 * watt)
  let s := (s.setBallast 0).modGov fun g => { g with
    hardEpisode := true
    underRun := 0
    pCmd := cmd }
  (s.put Reg.GOV_P_CMD.W (cmd / watt)).requestThrottle

/-- The cap checks on a 10 us mean; an episode ends after 1 ms below the active cap. -/
def State.capCheck (s : State) (mean : Nat) : State :=
  let ov := if s.get Reg.GOV_CAP.CAP_W * watt < mean then s.gov.overRun + 1 else 0
  let under := if mean < s.capActive then s.gov.underRun + 1 else 0
  let s := s.modGov fun g => { g with
    overRun := ov
    underRun := under }
  if s.get Reg.GOV_FUSE.HARD_CAP_W * watt < mean ∨ 1000 < ov then s.hardCap mean
  else if 100 ≤ under then s.modGov fun g => { g with hardEpisode := false }
  else s

/-- The voltage check on a 10 us mean. -/
def State.vinCheck (s : State) (mv : Nat) : State :=
  let run := if mv < 44000 ∨ 58000 < mv then s.gov.vinRun + 1 else 0
  let s := s.modGov fun g => { g with
    vinRun := run
    vinMean := mv
    vinEpisode := g.vinEpisode && decide (0 < run) }
  if 10 ≤ run ∧ s.gov.vinEpisode = false then
    ((s.logOnce { code := 0xC9, effect := 1, detail := mv }).govBit Reg.GOV_STATUS.VIN_RANGE true).modGov
      fun g => { g with vinEpisode := true }
  else s

/-- Ten samples make a 10 us mean, a hundred means a 1 ms mean. -/
def State.tenSamples (s : State) : State :=
  let mv := meanOf (s.gov.samples.map (·.1))
  let p := meanOf (s.gov.samples.map fun x => x.1 * x.2)
  let s := (s.put Reg.TEL_PIN.W (p / watt)).put Reg.TEL_PIN_PEAK.W (max (p / watt) (s.get Reg.TEL_PIN_PEAK.W))
  let ms := s.gov.means ++ [p]
  let s := if ms.length = 100 then s.put Reg.TEL_PIN.MEAN_1MS (meanOf ms / watt) else s
  let s := s.modGov fun g => { g with
    samples := []
    means := if ms.length = 100 then [] else ms }
  (s.vinCheck mv).capCheck p

/-- One sample, in mV and mA. -/
def State.sampleOp (s : State) (mv ma : Nat) : State :=
  if s.mgmt.powered then
    let s := (s.put Reg.TEL_VIN.MV mv).put Reg.TEL_IIN.I (ma / 10)
    let s := s.put2 Reg.TEL_STAMP_LO.COUNT Reg.TEL_STAMP_HI.COUNT s.now
    let s := s.modGov fun g => { g with
      pIn := mv * ma
      energy := g.energy + mv * ma
      samples := g.samples ++ [(mv, ma)] }
    let s := s.put2 Reg.TEL_ENERGY_LO.MJ Reg.TEL_ENERGY_HI.MJ (s.gov.energy / 1000000000)
    if s.gov.samples.length = 10 then s.tenSamples else s
  else s

/-- TELEMETRY_SAMPLE. -/
def execTelemetrySample (mv ma : Nat) (s : State) : Host.Outcome State Fault Refusal := s.answerCtl (s.sampleOp mv ma)

/-- The sensors are read, in 1/16 degree. -/
def State.temperatureOp (s : State) (temps : List Nat) : State :=
  if s.mgmt.powered then
    let s := forAll temps.zipIdx (fun s t => if t.2 < 96 then s.put (Reg.TEL_TEMP.TEMP t.2) t.1 else s) s
    let warn := s.get Reg.TEL_TEMP_TRIP.WARN * 16
    let trip := s.get Reg.TEL_TEMP_TRIP.TRIP * 16
    let s := if temps.any fun t => decide (warn ≤ t) then s.govBit Reg.GOV_STATUS.TEMP_WARN true else s
    match temps.zipIdx.find? fun t => decide (trip ≤ t.1) with
    | some (t, k) =>
      let s := if s.gov.tempEpisode then s else s.logOnce { code := 0xCA, effect := 1, detail := t + k <<< 32 }
      (s.modGov fun g => { g with tempEpisode := true }).requestThrottle
    | none =>
      if temps.all fun t => decide (t + 80 ≤ trip) then s.modGov fun g => { g with tempEpisode := false } else s
  else s

/-- The phase monitors' smallest margin since the last sample, in ps, and the ashlars whose crossing entries a drift of
temperature or voltage has made late, with the cycles of it (R301). -/
def State.marginSeen (s : State) (margin : Nat) (late : List (Nat × Nat)) : State :=
  (s.put Reg.CLK_PLUMB_MARGIN.MIN_MARGIN (min margin (s.get Reg.CLK_PLUMB_MARGIN.MIN_MARGIN))).lateEntries late

/-- TEMPERATURE_SAMPLE: the sensors, and what the phase monitors have seen since the last one (R301). -/
def execTemperatureSample (temps : List Nat) (s : State) (margin : Nat := 65535) (late : List (Nat × Nat) := []) :
    Host.Outcome State Fault Refusal :=
  s.answerCtl ((s.temperatureOp temps).marginSeen margin late)

end Sys2Proof.Machine
end

