-- ==== Sys2Proof/Machine/Replay.lean ====
section
/-! DEFINITION. The persistent fault log and field repair (R494, R501), the record and replay engine's commands (R510, R515, R516,
R520). -/

namespace Sys2Proof.Machine

/-! ## The persistent log (R494) -/

/-- Records join the persistent log, which keeps the latest 65,536. -/
def State.flashLog (s : State) (rs : List FRec) : State :=
  let l := s.mgmt.flash.log ++ rs
  { s with mgmt := { s.mgmt with flash := { s.mgmt.flash with log := l.drop (l.length - 65536) } } }

/-- An ashlar with two mismatches of one array within 10^6 courses is recorded as dead (R501). -/
def failing (ms : List (Nat × Nat × Nat)) (m : Nat × Nat × Nat) : Bool :=
  decide (2 ≤ (ms.filter fun x => x.1 = m.1 && x.2.1 = m.2.1 && decide (max x.2.2 m.2.2 - min x.2.2 m.2.2 ≤ 1000000)).length)

/-- Boluk looks through the mismatches it has been told of. -/
def State.recordDead (s : State) : State :=
  let ms := s.mgmt.badMismatch
  let dead := ((ms.filter (failing ms)).map (·.1)).eraseDups
  let repair := (s.mgmt.flash.repair ++ dead.map s.physPlace).eraseDups
  { s with mgmt := { s.mgmt with
    badMismatch := ms.filter fun m => !dead.contains m.1
    flash := { s.mgmt.flash with repair := repair } } }

/-- The array mismatches that records name: ashlar, array, course (R101, R501). -/
def mismatchesOf (rs : List FRec) : List (Nat × Nat × Nat) :=
  (rs.filter fun r => r.code = 0x40).map fun r => (ashOf r.part r.ash, bitsOf r.detail 7 6, r.course)

/-- Boluk copies the records that wait, and notes the mismatches among them. -/
def State.logCopyOp (s : State) : State :=
  if s.mgmt.boluk then
    let s := s.flashLog s.flt.copies
    let s : State := { s with mgmt := { s.mgmt with badMismatch := s.mgmt.badMismatch ++ mismatchesOf s.flt.copies } }
    { s.atLeast (s.flt.lastG + 1) with flt := { s.flt with toCopy := [], cur := [] } }.recordDead
  else s

/-- FAULT_LOG_COPY. -/
def execFaultLogCopy (s : State) : Host.Outcome State Fault Refusal := s.answerCtl s.logCopyOp

/-! ## REC_CTRL (R520) -/

/-- A write of REC_CTRL: MODE waits for the next serving boundary. -/
def State.recCtrlOp (s : State) (w : Who) (v : Word) : State :=
  s.gated w Reg.REC_CTRL.addr .rw fun s =>
    let s := s.storeReg w Reg.REC_CTRL.addr v
    { s with recd := { s.recd with want := some (v.toNat % 4) } }

/-- REC_CTRL_WRITE. -/
def execRecCtrlWrite (w : Who) (v : Word) (s : State) : Host.Outcome State Fault Refusal :=
  s.answerCtl (s.posting w (.reg Reg.REC_CTRL.addr v) fun s => s.recCtrlOp w v)

/-! ## Replay (R515, R516) -/

/-- The tokens of a payload, packed in 32-bit slots. -/
def payloadToks (n : Nat) (b : List Byte) : List Nat := (List.range n).map fun i => leNat ((b.drop (4 * i)).take 4)

/-- A command from its two recorded words. -/
def cmdOf (a b : Nat) : SrvCmd :=
  { op := a % 256, ctx := bitsOf a 15 8, tag := bitsOf a 31 16, arg0 := BitVec.ofNat 32 (a >>> 32), arg1 := BitVec.ofNat 32 b,
    at_ := bitsOf b 47 32, atEn := bitOf b 48 }

/-- A recorded RESUME restores its context from its PARK_IMAGE data. -/
def State.replayResume (s : State) (p : Nat) (k : SrvCmd) (img : List Byte) : State :=
  let new := (s.freePages p).take (img.length / 65536 / 48)
  let s := { s with recd := { s.recd with images := (p * 256 + k.ctx, img) :: s.recd.images } }
  (s.setCtxState p k.ctx 4).modCtx p k.ctx fun x =>
    { live := true, pages := new, xfer := some (replaySlot, k.tag), gapOut := x.gapOut, desc := x.desc, table := x.table }

/-- A recorded COMMAND takes effect; `img` are its PARK_IMAGE data. -/
def State.replayCmd (s : State) (p : Nat) (k : SrvCmd) (img : List Byte) : State :=
  if k.op = 8 ∧ img ≠ [] then s.replayResume p k img else s.runCmd p k

/-- A recorded WRITE. -/
def State.replayWrite (s : State) (e : REnt) (w : Nat) : State :=
  let b := bitOf w 63
  let o := bitsOf w 24 0
  let n := bitsOf w 41 35
  if b && o = 0x104 && n = 8 then
    s.applyPend e.boundary (.commit e.part (leNat ((e.payload.drop 8).take 8)) (BitVec.ofNat 64 (leNat (e.payload.take 8))))
  else if b then s.applyPend e.boundary (.reg (Reg.window e.part o) (BitVec.ofNat 32 (leNat (e.payload.take 4))))
  else s.applyPend e.boundary (.scratch (bitsOf w 34 25) o (e.payload.take n))

/-- The granules of a recorded LANDING land. -/
def State.landEntry (s : State) (e : REnt) : State :=
  let w : Nat := e.body[0]?.getD 0
  if e.landed then s else s.applyScratch (bitsOf w 34 25) (bitsOf w 24 0) e.payload

/-- A recorded LANDING at its position: its increment, after its granules (R515). -/
def State.replayLanding (s : State) (e : REnt) (w : Nat) : State :=
  let ash := bitsOf w 34 25
  let s := s.landEntry e
  let inc := bitsOf w 47 41
  if inc = 0 then s else s.cairnAdd ash (bitsOf w 40 35) inc (s.wallNow (s.domOf ash))

/-- A recorded entry takes effect. Stream work whose source is itself replayed flows live. -/
def State.replayEnt (s : State) (e : REnt) (img : List Byte) : State :=
  let p := e.part
  let c := e.ctx
  let w : Nat := e.body[0]?.getD 0
  let v : Nat := e.body[1]?.getD 0
  let src := bitsOf w 51 48
  match e.kind with
  | 1 => s.replayCmd p (cmdOf w v) img
  | 2 => s.latchCancel p c (w % 65536)
  | 3 => if s.replaying src then s
    else s.takeTokens p c src false ((payloadToks (w % 64) e.payload).map fun t => { pos := 0, tok := t, gen := 0 })
  | 4 => if s.replaying src then s
    else s.takeTokens p c src true ((payloadToks (w % 32) e.payload).zipIdx.map fun t =>
      { pos := v + t.2, tok := t.1, gen := bitsOf w 47 16 })
  | 5 => if s.replaying src then s
    else s.takeSync p c src (w % 2 ^ 32) v (payloadToks (e.body[2]?.getD 0) e.payload)
  | 6 => s.put (Reg.SRV_CTX_STATE.KV_WAIT p c) (w % 2)
  | 7 => s.replayWrite e w
  | 8 => s.replayLanding e w
  | _ => s

/-- An entry of a domain that was staged too late still holds it (R516). -/
def State.stagedLate (s : State) (d : Nat) : Bool :=
  (s.dom d).frz.any fun f => f.ref = .staged && f.blocks (s.dom d).cyc (s.dom d).wall

/-- An entry is staged `late` cycles after H cycles before its position: a moraine cause of its domain (R34, R516). -/
def State.lateEntry (s : State) (d late : Nat) : State :=
  let t := (s.dom d).wall - Config.H
  s.addFrz d { kind := .moraine, ref := .staged, due := t, eff := (s.dom d).cyc, clr := some (t + late) }

/-- The first entry that is due is applied; one that is staged late first freezes its domain. The granules of a LANDING land ahead of
it. -/
def State.replayApplyOp (s : State) (late : Nat) : State :=
  match s.recd.todo.findIdx? fun e => s.replayDue e || s.replayAhead e with
  | none => s
  | some i =>
    match s.recd.todo[i]? with
    | none => s
    | some e =>
      let d := s.leadOf e.part
      let within := !(e.pre || e.boundary)
      if s.replayAhead e then
        let t := s.landEntry e
        { t with recd := { t.recd with todo := t.recd.todo.take i ++ { e with landed := true } :: t.recd.todo.drop (i + 1) } }
      else if within && s.stagedLate d then s
      else if within && decide (0 < late) then s.lateEntry d late
      else
      let rest := dropAt s.recd.todo i
      let mine (x : REnt) : Bool :=
        e.kind = 1 && x.kind = 9 && x.part = e.part && x.ctx = e.ctx && x.course = e.course && x.schedAt = e.schedAt
      let img := (rest.filter mine).flatMap fun x => x.payload
      let s := if e.boundary then s.openBoundary e.part else s
      ({ s with recd := { s.recd with todo := rest.filter fun x => !mine x } } : State).replayEnt e img

/-- REPLAY_ENTRY_APPLY: `late` is by how many cycles the entry is staged after H cycles before its position. -/
def execReplayEntryApply (s : State) (late : Nat := 0) : Host.Outcome State Fault Refusal := s.answer (s.replayApplyOp late)

end Sys2Proof.Machine
end

