-- ==== Sys2Proof/Machine/HostIf.lean ====
section
/-! DEFINITION. What the host and the management complex see of the register space and the apertures: reads (R2, R10, R21, R47,
R209, R283, R446 to R452), the writes that have an effect of their own, and the data windows (R449, R450, R526). -/

namespace Sys2Proof.Machine

/-! ## Where a read looks -/

/-- Registers of a non-lead member that read the lead's value (R21, R209). -/
def leadShared (o : Nat) : Bool :=
  (decide (4 ≤ o) && decide (o < 0xC0) && o != 8) || (decide (0x200 ≤ o) && decide (o < 0x400))
    || (decide (0x404 ≤ o) && decide (o < 0x460))

/-- The address whose register a read of an address returns: the feature mirror of a window (R452), the lead's register for a
non-lead member. -/
def State.aliasOf (s : State) (a : Nat) : Nat :=
  match spaceOf a with
  | (.partition, o) =>
    let p := (addrPart a).getD 0
    if 0x1F00 ≤ o ∧ o < 0x1F5C then o - 0x1F00 + 0x100
    else if leadShared o then Reg.window (s.leadOf p) o
    else a
  | _ => a

/-! ## Fields computed when they are read -/

/-- A word from fields: low bit and value. -/
def wordOf (l : List (Nat × Nat)) : Word := BitVec.ofNat 32 (l.foldl (fun n f => n + f.2 <<< f.1) 0)
/-- A one-bit field. -/
def bit01 (b : Bool) : Nat := if b then 1 else 0

/-- SEQ_STATUS (R209). -/
def State.seqStatus (s : State) (d : Nat) : Word :=
  let x := s.dom d
  wordOf [(0, bit01 (s.halted d)), (1, bit01 (!x.ovq.isEmpty || x.ovLoad.isSome)), (2, bit01 (decide (0 < x.fetchWait))),
    (3, bit01 x.queueStall), (4, s.get (Reg.SEQ_STATUS.Q_COLLIDE d)), (8, x.loops.length), (11, bit01 x.call.isSome)]

/-- SEQ_LOOP_COUNT_n and SEQ_LOOP_BODY_n: level 0 is the outermost. -/
def State.loopWord (s : State) (d o : Nat) : Word :=
  match (s.dom d).loops[(o - 0x40) / 4 % 4]? with
  | none => 0
  | some l => if o < 0x50 then BitVec.ofNat 32 l.remaining else wordOf [(0, l.first), (17, l.last + 1 - l.first), (31, 1)]

/-- SEQ_BANK_b. -/
def State.bankWord (s : State) (p o : Nat) : Word :=
  let b := (o - 0xC0) / 4
  let d := s.leadOf p
  setBits (s.rw (Reg.SEQ_BANK.addr p b)) 2 2 (bit01 (s.running d && s.leased d (s.rankOf d p * 12 + b)))

/-- SEQ_NUM_STICKY: the flags of all 48 ashlars together (R132). -/
def State.stickyWord (s : State) (p : Nat) : Word :=
  (List.range 48).foldl (fun w i => w ||| s.rw (Reg.SEQ_NUM_FLAGS.addr p i)) 0

/-- A register of a partition window as it reads. -/
def State.partView (s : State) (p o : Nat) : Word :=
  let w := s.rw (Reg.window p o)
  if o = 0x4 then s.seqStatus p
  else if 0x40 ≤ o ∧ o < 0x60 then s.loopWord p o
  else if 0xC0 ≤ o ∧ o < 0xF0 then s.bankWord p o
  else if o = 0x410 then setBits w 7 7 (bit01 (s.running p && s.frozen p))
  else if o = 0x450 then BitVec.ofNat 32 (s.freezeTotal p (s.freezeSoFar p (s.wallNow p)))
  else if o = 0x454 then hiWord (s.freezeTotal p (s.freezeSoFar p (s.wallNow p)))
  else if o = 0x458 then BitVec.ofNat 32 (s.freezeMax p (s.freezeSoFar p (s.wallNow p)))
  else if o = 0xC08 then s.stickyWord p
  else if o = 0x1C00 then setBits w 6 0 (s.pendAt p).queue.length
  else if o = 0x1F80 then setBits (setBits w 3 3 (bit01 (s.avail p))) 1 1 (bit01 (s.partSealed p))
  else if o = 0x201C then BitVec.ofNat 32 (s.freePages p).length
  else w

/-- TILE_REPAIR_i (R83). -/
def State.repairWord (s : State) (i : Nat) : Word :=
  let l := deadIn s.mgmt.dead i
  wordOf [(0, l.headD 24), (8, bit01 (decide (1 < l.length))), (9, (l[1]?).getD 0)]

/-- MOR_HOST_PENDING: the data-window writes accepted and not performed (R411); what a count past seven bits reads as, the spec
does not say. -/
def State.hostPendingWord (s : State) : Word :=
  let n := (s.mor.writes.filter fun w => w.host).length
  setBits 0 6 0 (if n < 128 then n else Config.countOverflow Reg.MOR_HOST_PENDING.addr % 128)

/-- MOR_LOAD_CMPL: the oldest completion (R419, R424). -/
def State.loadCmplWord (s : State) : Word :=
  match s.mor.cmpl with
  | [] => 0
  | c :: _ => wordOf [(0, c.1), (16, c.2), (31, 1)]

/-- ETH_PTP_TS_LO, _HI and ETH_PTP_INFO: the oldest stamp (R534). -/
def State.ptpWord (s : State) (e i : Nat) : Word :=
  match (s.ethAt e).stamps with
  | [] => 0
  | t :: _ => if i = 0 then BitVec.ofNat 32 t.1 else if i = 1 then hiWord t.1 else wordOf [(0, t.2.1), (16, bit01 t.2.2), (31, 1)]

/-- CLK_HOLDOVER_TIME: the running episode, or the latest one. -/
def State.holdoverWord (s : State) : Word :=
  match s.clk.lostAt with
  | some g => BitVec.ofInt 32 (((s.now : Int) - g) / 1000)
  | none => s.rw Reg.CLK_HOLDOVER_TIME.addr

/-- CLK_TIME_STATUS: while the counter slews, PHASE_ERR is the error left of the one it began with (R316). -/
def State.timeStatusWord (s : State) : Word :=
  let w := s.rw Reg.CLK_TIME_STATUS.addr
  if s.get Reg.CLK_TIME_STATUS.SLEWING = 0 then w
  else
    let e := signedOf 16 (s.get Reg.CLK_TIME_STATUS.PHASE_ERR)
    let done : Int := (Config.slewDone (s.now - s.clk.slewAt) % (min e.natAbs ((s.now - s.clk.slewAt) * 320 / 1000000) + 1) : Nat)
    setBits w 31 16 (wrapInt 16 (if 0 ≤ e then e - done else e + done))

/-- GOV_DOMAIN_W (R476, R485): what a power past its 13 bits reads as, the spec does not say. -/
def State.domainPowerWord (s : State) (n : Nat) : Word :=
  let v := s.domainPower n / watt
  BitVec.ofNat 32 (if v < 8192 then v else Config.countOverflow (Reg.GOV_DOMAIN_W.addr n) % 8192)

/-- A module register as it reads. -/
def State.modView (s : State) (o : Nat) : Word :=
  let w := s.rw o
  if o = 0x100 then s.identWord
  else if o = 0x104 then s.identParts
  else if o = 0x108 then BitVec.ofNat 32 s.fuses.serial.toNat
  else if o = 0x10C then hiWord s.fuses.serial.toNat
  else if o = 0x18124 then s.timeStatusWord
  else if o = 0x1812C then s.holdoverWord
  else if o = 0x18130 then BitVec.ofNat 32 s.now
  else if o = 0x18134 then hiWord s.now
  else if 0x20000 ≤ o ∧ o < 0x20060 then s.repairWord ((o - 0x20000) / 4)
  else if o = 0x30004 then BitVec.ofNat 32 s.handlesUsed
  else if o = 0x30008 then BitVec.ofNat 32 (s.parkSize - s.parkUsed.length)
  else if o = 0x40040 then s.hostPendingWord
  else if o = 0x40220 then BitVec.ofNat 32 (64 - s.mor.loads.length)
  else if o = 0x40224 then s.loadCmplWord
  else if 0x50080 ≤ o ∧ o < 0x500B0 then s.domainPowerWord ((o - 0x50080) / 4)
  else if o = 0x70224 then 0
  else if o = 0x70100 then setBits w 0 0 (bit01 s.debug)
  else if o = 0x80000 then setBits w 7 7 (bit01 s.moduleSealed)
  else if o = 0x80018 then setBits (setBits w 5 0 s.mgmt.flash.svnBoluk) 13 8 s.mgmt.flash.svnImage
  else if 0x120000 ≤ o ∧ o < 0x128000 ∧ o % 8 = 0 then setBits w 6 6 (bit01 (decide ((o - 0x120000) / 8 = s.moduleId)))
  else if o = 0x200050 ∨ o = 0x200054 then s.ptpWord 0 ((o - 0x200050) / 4)
  else if o = 0x201050 ∨ o = 0x201054 then s.ptpWord 1 ((o - 0x201050) / 4)
  else if o = 0x200058 then s.ptpWord 0 2
  else if o = 0x201058 then s.ptpWord 1 2
  else if o = 0x220008 then setBits w 2 0 s.fuses.strap
  else w

/-- A tile register as it reads. -/
def State.tileView (s : State) (a o : Nat) : Word :=
  if o = 0 then
    let ash := addrAsh a
    let pl := s.physPlace ash
    wordOf [(0, ash), (10, ash / 48), (14, ash % 48), (20, 25 * (pl.1 % 2) + pl.2)]
  else s.rw a

/-- A register as it reads. -/
def State.readView (s : State) (a : Nat) : Word :=
  if (findRow a).isNone then 0
  else match spaceOf a with
    | (.module, o) => s.modView o
    | (.partition, o) => s.partView ((addrPart a).getD 0) o
    | (.tile, o) => s.tileView a o
    | (.doorbell, o) => if o = 0x14 then BitVec.ofNat 32 (64 - (s.srvAt ((addrPart a).getD 0)).cmds.length) else 0

/-! ## Reads (R10, R47, R132, R319, R486) -/

/-- A _LO register whose read latches its _HI register. -/
def latchesHi (a : Nat) : Bool :=
  match spaceOf a with
  | (.module, o) => [0x18008, 0x18010, 0x18018, 0x18020, 0x18108, 0x18130, 0x6000C, 0x60018].contains o
  | (.partition, o) => decide (0xD00 ≤ o) && decide (o < 0x1000) && decide (o % 8 = 0)
  | _ => false

/-- RC fields return to their reset values; a register that presents a queue loses the entry it returned. -/
def State.readClear (s : State) (a : Nat) : State :=
  if a = Reg.MOR_LOAD_CMPL.addr then s.modMor fun m => { m with cmpl := m.cmpl.drop 1 }
  else match findRow a with
    | some r => (r.fields.filter fun f => f.acc = .rc).foldl (fun t f => t.put ⟨a, f.hi, f.lo⟩ f.reset) s
    | none => s

/-- A read of one register word. -/
def State.readWord (s : State) (a : Nat) : State :=
  match mapGet? s.latches a with
  | some v => { s.reply v with latches := mapErase s.latches a }
  | none =>
    let v := s.readView a
    let s := if latchesHi a then { s with latches := mapInsert s.latches (a + 4) (s.readView (a + 4)) } else s
    (s.readClear a).reply v

/-- A read by a requester: what it cannot reach reads as zero. -/
def State.readOp (s : State) (w : Who) (a : Nat) : State :=
  if !s.mayRead w a then s.reply 0
  else
    let p := (addrPart a).getD 0
    if a = Reg.SEQ_CORNICE_DATA_LO.addr p then s.corniceLoRead w p
    else if a = Reg.SEQ_CORNICE_DATA_HI.addr p then s.corniceHiRead w p
    else if a = Reg.ETH_PTP_TS_HI.addr 0 then s.ptpReadOp w 0
    else if a = Reg.ETH_PTP_TS_HI.addr 1 then s.ptpReadOp w 1
    else s.readWord (s.aliasOf a)

/-- READ_TO_CLEAR. -/
def execReadToClear (w : Who) (addr : Nat) (s : State) : Host.Outcome State Fault Refusal := s.answerCtl (s.readOp w addr)

/-- LO_LATCH_READ. -/
def execLoLatchRead (w : Who) (addr : Nat) (s : State) : Host.Outcome State Fault Refusal := s.answerCtl (s.readOp w addr)

/-! ## Writes -/

/-- A write to a module register (R14, R303, R317, R325, R336, R354, R419, R424, R463, R466, R510). -/
def State.writeModule (s : State) (w : Who) (a : Nat) (v : Word) : State :=
  if a = Reg.CLK_COURSE_CTRL.addr then s.tickEnableOp w v
  else if tickParam a then s.tickParamOp w a v
  else if a = Reg.CLK_STEP_PLAN.addr then s.stepRequestOp w v
  else if a = Reg.CLK_GLACIER_LO.addr then
    s.gated w a .rw fun s =>
      if s.tickEn then s.put Reg.CLK_TIME_STATUS.SET_REJECT 1 else { s with clk := { s.clk with glacierLo := v } }
  else if a = Reg.CLK_GLACIER_HI.addr then s.glacierWriteOp w v
  else if Reg.UBN_PORT_CTRL.addr 0 ≤ a ∧ a < Reg.UBN_PORT_CTRL.addr 32 ∧ (a - Reg.UBN_PORT_CTRL.addr 0) % 256 = 0 then
    s.retrainOp w ((a - Reg.UBN_PORT_CTRL.addr 0) / 256) v
  else if a = Reg.UBN_DISC_CTRL.addr then s.discCtrlOp w v
  else if a = Reg.UBN_CTRL.addr then s.resvApplyOp w v
  else if Reg.MOR_LOAD_D0.addr ≤ a ∧ a < Reg.MOR_LOAD_D7.addr then
    s.gated w a .wo fun s => s.modMor fun m => { m with loadRegs := mapSet 0 m.loadRegs ((a - Reg.MOR_LOAD_D0.addr) / 4) v }
  else if a = Reg.MOR_LOAD_D7.addr then s.loadSubmitOp w v
  else if 0x40400 ≤ a ∧ a < 0x40600 ∧ a % 32 < 16 then s.chainWriteOp w a v
  else if a = Reg.GOV_CAP.addr ∧ (v.toNat % 8192 < 1000 ∨ 4000 < v.toNat % 8192) then
    (if s.hostOpen w a && s.writeDenied w a then s.denied w else s)
  else if a = Reg.MGT_RESET_CTRL.addr then s.resetCtrlOp w v
  else if a = mbxBase 12 + 0x2000 then s.gated w a .wo fun s => if bitOf v.toNat 0 then s.mbxGo 12 else s
  else if mbxBase 12 ≤ a ∧ a < mbxBase 12 + 0x1000 ∧ s.mbxBusy 12 then s
  else if a = Reg.REC_CTRL.addr then s.recCtrlOp w v
  else if a = Reg.ETH_CTRL.addr 0 then s.ethCtrlOp w 0 v
  else if a = Reg.ETH_CTRL.addr 1 then s.ethCtrlOp w 1 v
  else if 0x210000 ≤ a ∧ a < 0x218000 then s.ethFlowOp w ((a - 0x210000) / 8) (a % 8 = 4) v
  else s.plainWrite w a v

/-- A write to a register of partition `p`'s window (R21, R207, R209, R210, R279, R371, R417, R462). -/
def State.writePart (s : State) (w : Who) (p o : Nat) (v : Word) : State :=
  let a := Reg.window p o
  if o = 0x0 then (if bitOf v.toNat 0 then s.domainResetWrite w p else s.plainWrite w a v)
  else if o = 0x108 then s.corniceHiWrite w p v
  else if o = 0x404 then
    (if bitOf v.toNat 0 then s.armWrite w p (bitOf v.toNat 1)
     else if bitOf v.toNat 1 then s.disarmWrite w p
     else s.plainWrite w a v)
  else if deferred a then s.pendWrite w (.reg a v)
  else if 0x8000 ≤ o ∧ o < 0xC000 then s.ctxWriteOp w p ((o - 0x8000) / 64) (o % 64) v
  else if o = 0x1E18 then (if bitOf v.toNat 0 then s.swapGoOp w p else s.plainWrite w a v)
  else if o = 0x12000 then s.gated w a .wo fun s => if bitOf v.toNat 0 then s.mbxGo p else s
  else if 0x10000 ≤ o ∧ o < 0x11000 ∧ s.mbxBusy p then s
  else s.plainWrite w a v

/-- A write to any register. -/
def State.writeReg (s : State) (w : Who) (a : Nat) (v : Word) : State :=
  let p := (addrPart a).getD 0
  match spaceOf a with
  | (.module, _) => s.writeModule w a v
  | (.partition, o) => s.writePart w p o v
  | (.tile, _) => if deferred a then s.pendWrite w (.reg a v) else s.plainWrite w a v
  | (.doorbell, o) => if o = 0x10 then s.fastCancelOp w p v else s.doorbell w p o v

/-- A host or firmware write to a partition: one that waits for the boundary window, or one of a register that does not (R279). -/
def State.partWrite (s : State) (w : Who) (x : PendWhat) : State :=
  match x with
  | .reg a v => s.writeReg w a v
  | _ => s.pendWrite w x

/-- HOST_PARTITION_WRITE. -/
def execHostPartitionWrite (w : Who) (x : PendWhat) (s : State) : Host.Outcome State Fault Refusal :=
  s.answer (s.posting w (.part x) fun s => s.partWrite w x)

/-- REGISTER_WRITE. -/
def execRegisterWrite (w : Who) (addr : Nat) (v : Word) (s : State) : Host.Outcome State Fault Refusal :=
  s.answer (s.posting w (.reg addr v) fun s => s.writeReg w addr v)

/-! ## Data windows (R283, R411, R448 to R451, R526) -/

/-- The selector of an aperture: eight for the PF and the management complex, two for a VF. -/
def State.selector (s : State) (w : Who) (ap : Nat) : Option Word :=
  match w with
  | .vf n => if ap < 2 then some (s.rw (Reg.MGT_PDW_SEL.addr n ap)) else none
  | _ => if ap < 8 then some (s.rw (Reg.MGT_DW_SEL.addr ap)) else none

/-- What a byte of an aperture stands for. -/
inductive Target where
  | nothing
  | scratch (ash addr : Nat)
  | moraine (a : Nat)
  deriving DecidableEq, Repr

/-- Where an access of an aperture goes (R449). -/
def State.target (s : State) (w : Who) (ap off : Nat) : Target :=
  match s.selector w ap with
  | none => .nothing
  | some sel =>
    let t := bitsOf sel.toNat 20 2
    if bitOf sel.toNat 31 = false then .nothing
    else if bitOf sel.toNat 0 then .moraine (t * 4194304 + off)
    else .scratch (t % 1024) (bitsOf t 12 10 * 4194304 + off)

/-- The apertures are open: the module is READY; the management complex is not a host (R451). -/
def State.windowOpen (s : State) (w : Who) : Bool := w = .fw || s.get Reg.MGT_BOOT_STATUS.STAGE = 6

/-- The partition a requester's aperture access is counted and logged for. -/
def whoPart : Who → Nat
  | .vf n => n
  | _ => 15

/-- An aperture names an ashlar that the requester may not name (R450). -/
def notOwn (w : Who) (ash : Nat) : Bool := decide (whoPart w ≠ 15) && decide (whoPart w ≠ partOf ash)

/-- A partition's scratchpads answer in an aperture: it is available, and not being reset for a host (R2, R451). -/
def State.partAnswers (s : State) (w : Who) (ash : Nat) : Bool :=
  decide (ash < 576) && s.avail (partOf ash) && (w = .fw || !s.resetting (partOf ash))

/-- A moraine row that a requester may read through an aperture: zero is read elsewhere (R406, R450). The second value tells
whether the access breaks a limit and is counted. -/
def State.morReadable (s : State) (w : Who) (row : Nat) : Bool × Bool :=
  match w with
  | .vf n => let ok := s.inRw n row 1 || s.inRead n row 1; (ok, !ok)
  | .pf => let park := s.inRegion 1 row 1; (s.inAnyRegion row && !park, park)
  | .fw => (s.inAnyRegion row, false)

/-- The same for a write. -/
def State.morWritable (s : State) (w : Who) (row : Nat) : Bool × Bool :=
  match w with
  | .vf n => let ok := s.inRw n row 1; (ok, !ok)
  | .pf =>
    let closed := s.inRegion 1 row 1 || s.inRegion 2 row 1
      || ((List.range 12).any (fun p => s.inRead p row 1) && !s.inRegion 0 row 1)
    (s.inAnyRegion row && !closed, closed)
  | .fw => (s.inAnyRegion row, false)

/-- Bytes that read as zero. -/
def zeros (n : Nat) : List Byte := List.replicate n 0

/-- A read outside the schedule meets an uncorrectable word: its address is recorded, and 0x24 logged without halting (R77,
R526). -/
def State.readUe (s : State) (ash a : Nat) : State :=
  let p := partOf ash
  let i := idxOf ash
  let s := ((s.put (Reg.TILE_ECC_UE_ADDR.ADDR p i) a).put (Reg.TILE_ECC_UE_ADDR.VALID p i) 1).put (Reg.TILE_STATUS.UE p i) 1
  s.logEvent { code := 0x24, effect := 1, source := 3, part := p, ash := i, detail := detailAsh ash a (bitsOf a 24 22) }

/-- One piece of a read: its bytes, and whether its completion is poisoned. A scratchpad word or moraine granule that is
uncorrectable poisons it. -/
def State.readPiece (s : State) (w : Who) (ap off n : Nat) : State × List Byte × Bool :=
  match s.target w ap off with
  | .nothing => (s, zeros n, false)
  | .scratch ash addr =>
    if !s.windowOpen w then (s, zeros n, false)
    else if notOwn w ash then (s.denied w, zeros n, false)
    else if !s.partAnswers w ash then (s, zeros n, false)
    else if !s.sliceReady ash (bitsOf addr 24 22) then (s, zeros n, false)
    else
      let bs := s.rdBytes ash addr n
      let s := s.ceBytes ash (addr - addr % 8) (ceilDiv (addr % 8 + n) 8 * 8)
      match s.ueBytes ash (addr - addr % 8) (ceilDiv (addr % 8 + n) 8 * 8) with
      | some a => (s.readUe ash a, bs, true)
      | none => (s, bs, false)
  | .moraine a =>
    let row := a / 512
    let (ok, bad) := s.morReadable w row
    let t := s.settleRows row (ceilDiv (a % 512 + n) 512) s.mor.writes.length
    if !s.windowOpen w then (s, zeros n, false)
    else if bad then (s.denied w, zeros n, false)
    else if !ok then (s, zeros n, false)
    else
    let s := t
    if s.stackFailed row || bitOf (mapGet 0 s.mor.bad row) (a / 64 % 8) then (s.logMorUe (whoPart w) 5 row, s.morBytes a n, true)
    else (s, s.morBytes a n, false)

/-- Lengths of the naturally aligned 64-byte pieces of an access. -/
def pieces : Nat → Nat → Nat → List (Nat × Nat)
  | 0, _, _ => []
  | fuel + 1, off, len => if len = 0 then [] else let n := min len (64 - off % 64); (off, n) :: pieces fuel (off + n) (len - n)

/-- A read through an aperture: all its pieces, in address order. -/
def State.windowRead (s : State) (w : Who) (ap off len : Nat) : State :=
  let len := min len (4194304 - off)
  let r := (pieces (len / 64 + 2) off len).foldl (fun (r : State × List Byte × List Bool) x =>
    let (s, bs, po) := r.1.readPiece w ap x.1 x.2
    (s, r.2.1 ++ bs, r.2.2 ++ [po])) (s, [], [])
  { r.1 with rdata := .bytes r.2.1 r.2.2 }

/-- HOST_DATA_WINDOW_READ. -/
def execHostDataWindowRead (w : Who) (ap off len : Nat) (s : State) : Host.Outcome State Fault Refusal :=
  s.answer (s.windowRead w ap off len)

/-- One piece of a write. -/
def State.writePiece (s : State) (w : Who) (ap off : Nat) (data : List Byte) : State :=
  match s.target w ap off with
  | .nothing => s
  | .scratch ash addr =>
    if !s.windowOpen w then s
    else if notOwn w ash then s.denied w
    else if s.partAnswers w ash then s.pendWrite w (.scratch ash addr data)
    else s
  | .moraine a =>
    let row := a / 512
    let (ok, bad) := s.morWritable w row
    if !s.windowOpen w then s
    else if bad then s.denied w
    else if !ok then s
    else
      s.modMor fun m => { m with writes := m.writes ++ [{ row := row, off := a % 512, data := data, host := true }] }

/-- A write through an aperture. -/
def State.windowWrite (s : State) (w : Who) (ap off : Nat) (data : List Byte) : State :=
  let data := data.take (4194304 - off)
  forAll (pieces (data.length / 64 + 2) off data.length) (fun s x =>
    s.writePiece w ap x.1 ((data.drop (x.1 - off)).take x.2)) s

/-- HOST_DATA_WINDOW_WRITE. -/
def execHostDataWindowWrite (w : Who) (ap off : Nat) (data : List Byte) (s : State) : Host.Outcome State Fault Refusal :=
  s.answer (s.posting w (.window ap off data) fun s => s.windowWrite w ap off data)

/-! ## Writes that have waited (R282) -/

/-- A posted host write that waited takes place. -/
def State.post (s : State) (x : Who × PostWhat) : State :=
  match x.2 with
  | .reg a v => s.writeReg x.1 a v
  | .part p => s.partWrite x.1 p
  | .window ap off data => s.windowWrite x.1 ap off data

/-- The posted host writes go on in their order, until one finds its queue full again. -/
def State.drainPosted (s : State) : Nat → State
  | 0 => s
  | fuel + 1 =>
    match s.posted with
    | [] => s
    | x :: l =>
      let t : State := { s with posted := [] }
      if t.hostWaits then s
      else
        let t := t.post x
        State.drainPosted { t with posted := l } fuel

/-- PENDING_QUEUE_ADMIT. -/
def execPendingQueueAdmit (p : Nat) (s : State) : Host.Outcome State Fault Refusal :=
  s.answer ((s.admitOp p).drainPosted s.posted.length)

end Sys2Proof.Machine
end

