-- ==== Sys2Proof/Machine/Crypto.lean ====
section
/-! DEFINITION. The two published functions that image verification names (R433, R435, R436): SHA-384 (FIPS 180-4) and ECDSA
verification on P-384 (FIPS 186-5). The spec names them and does not print them; they are taken from the standards
(PRESUMED, log entry 13). -/

namespace Sys2Proof.Machine

/-! ## SHA-384 -/

/-- Rotate a 64-bit value right. -/
def rotr64 (x n : Nat) : Nat := (x >>> n) ||| ((x <<< (64 - n)) % 2 ^ 64)
/-- The largest number whose `k`-th power is at most `n`, bit by bit from bit 71 down. -/
def rootNat (k n : Nat) : Nat :=
  (List.range 72).foldr (fun i r => if (r + 2 ^ i) ^ k ≤ n then r + 2 ^ i else r) 0
/-- The first 80 primes. -/
def shaPrimes : List Nat :=
  (List.range 410).filter fun p => decide (2 ≤ p) && (List.range p).all fun q => decide (q < 2) || decide (p % q ≠ 0)
/-- The first 64 bits of the fractional part of the `k`-th root of a number: what FIPS 180-4 makes its constants of. -/
def rootFrac (k p : Nat) : Nat := rootNat k (p * 2 ^ (64 * k)) % 2 ^ 64
/-- Initial hash value of SHA-384: square roots of the ninth to the sixteenth prime. -/
def shaInit : List Nat := ((shaPrimes.drop 8).take 8).map (rootFrac 2)
/-- Round constants: cube roots of the first 80 primes. -/
def shaK : List Nat := shaPrimes.map (rootFrac 3)

/-- Eight working variables. -/
structure ShaVars where
  (a b c d e f g h : Nat)
  deriving DecidableEq, Repr

/-- One round. -/
def shaRound (v : ShaVars) (k w : Nat) : ShaVars :=
  let s1 := rotr64 v.e 14 ^^^ rotr64 v.e 18 ^^^ rotr64 v.e 41
  let ch := (v.e &&& v.f) ^^^ ((2 ^ 64 - 1 - v.e) &&& v.g)
  let t1 := v.h + s1 + ch + k + w
  let s0 := rotr64 v.a 28 ^^^ rotr64 v.a 34 ^^^ rotr64 v.a 39
  let maj := (v.a &&& v.b) ^^^ (v.a &&& v.c) ^^^ (v.b &&& v.c)
  ⟨(t1 + s0 + maj) % 2 ^ 64, v.a, v.b, v.c, (v.d + t1) % 2 ^ 64, v.e, v.f, v.g⟩

/-- The word 16 places on of the message schedule, from the sixteen words before it. -/
def shaNext (w : List Nat) : Nat :=
  let x (i : Nat) : Nat := w[i]?.getD 0
  let s0 := rotr64 (x 1) 1 ^^^ rotr64 (x 1) 8 ^^^ (x 1 >>> 7)
  let s1 := rotr64 (x 14) 19 ^^^ rotr64 (x 14) 61 ^^^ (x 14 >>> 6)
  (s1 + x 9 + s0 + x 0) % 2 ^ 64

/-- The rounds of one block: the constants that are left, the next sixteen words of the schedule. -/
def shaRounds : List Nat → List Nat → ShaVars → ShaVars
  | [], _, v => v
  | k :: ks, w, v => shaRounds ks (w.drop 1 ++ [shaNext w]) (shaRound v k (w.headD 0))

/-- The number that big-endian bytes spell. -/
def beNat (b : List Byte) : Nat := b.foldl (fun n x => n * 256 + x.toNat) 0

/-- One block of 128 bytes. -/
def shaBlock (v : ShaVars) (b : List Byte) : ShaVars :=
  let w := (List.range 16).map fun i => beNat ((b.drop (8 * i)).take 8)
  let r := shaRounds shaK w v
  let add (x y : Nat) : Nat := (x + y) % 2 ^ 64
  ⟨add v.a r.a, add v.b r.b, add v.c r.c, add v.d r.d, add v.e r.e, add v.f r.f, add v.g r.g, add v.h r.h⟩

/-- The blocks of a padded message. -/
def shaBlocks : Nat → List Byte → ShaVars → ShaVars
  | 0, _, v => v
  | n + 1, b, v => shaBlocks n (b.drop 128) (shaBlock v (b.take 128))

/-- SHA-384 of a byte string: 48 bytes. -/
def sha384 (m : List Byte) : List Byte :=
  let n := m.length
  let pad := m ++ [0x80] ++ List.replicate ((239 - n % 128) % 128) 0 ++ (leBytes 16 (8 * n)).reverse
  let i (k : Nat) : Nat := shaInit[k]?.getD 0
  let v := shaBlocks (pad.length / 128) pad ⟨i 0, i 1, i 2, i 3, i 4, i 5, i 6, i 7⟩
  [v.a, v.b, v.c, v.d, v.e, v.f].flatMap fun x => (leBytes 8 x).reverse

/-! ## ECDSA on P-384 -/

def p384P : Nat := 2 ^ 384 - 2 ^ 128 - 2 ^ 96 + 2 ^ 32 - 1
def p384N : Nat := 0xffffffffffffffffffffffffffffffffffffffffffffffffc7634d81f4372ddf581a0db248b0a77aecec196accc52973
def p384B : Nat := 0xb3312fa7e23ee7e4988e056be3f82d19181d9c6efe8141120314088f5013875ac656398d8a2ed19d2a85c8edd3ec2aef
def p384Gx : Nat := 0xaa87ca22be8b05378eb1c71ef320ad746e1d3b628ba79b9859f741e082542a385502f25dbf55296c3a545e3872760ab7
def p384Gy : Nat := 0x3617de4a96262c6f5d9e98bf9292dc29f8f41dbd289a147ce9da3113b5f0b8c00a60b1ce1d7e819d7a431d7c90ea0e5f

/-- A point in Jacobian coordinates; Z = 0 is the point at infinity. -/
structure EcPoint where
  x : Nat
  y : Nat
  z : Nat
  deriving DecidableEq, Repr

/-- Difference modulo p. -/
def ecSub (a b : Nat) : Nat := (a + (p384P - b % p384P)) % p384P

/-- Twice a point. -/
def ecDouble (q : EcPoint) : EcPoint :=
  let p := p384P
  let yy := q.y * q.y % p
  let s := 4 * q.x * yy % p
  let zz := q.z * q.z % p
  let m := 3 * (ecSub q.x zz) * (q.x + zz) % p
  let x := ecSub (m * m) (2 * s)
  ⟨x, ecSub (m * ecSub s x) (8 * yy * yy), 2 * q.y * q.z % p⟩

/-- Sum of two points. -/
def ecAdd (q r : EcPoint) : EcPoint :=
  let p := p384P
  if q.z = 0 then r
  else if r.z = 0 then q
  else
    let zq := q.z * q.z % p
    let zr := r.z * r.z % p
    let u1 := q.x * zr % p
    let u2 := r.x * zq % p
    let s1 := q.y * zr * r.z % p
    let s2 := r.y * zq * q.z % p
    if u1 = u2 then (if s1 = s2 then ecDouble q else ⟨1, 1, 0⟩)
    else
      let h := ecSub u2 u1
      let hh := h * h % p
      let hhh := h * hh % p
      let t := ecSub s2 s1
      let v := u1 * hh % p
      let x := ecSub (t * t) (hhh + 2 * v)
      ⟨x, ecSub (t * ecSub v x) (s1 * hhh), h * q.z * r.z % p⟩

/-- The bits of a 384-bit number, most significant first. -/
def bits384 (k : Nat) : List Bool := (List.range 384).reverse.map fun i => bitOf k i

/-- A multiple of a point. -/
def ecMul (k : Nat) (q : EcPoint) : EcPoint :=
  (bits384 k).foldl (fun r b => if b then ecAdd (ecDouble r) q else ecDouble r) ⟨1, 1, 0⟩

/-- A power modulo m. -/
def powMod (b e m : Nat) : Nat := (bits384 e).foldl (fun r x => if x then r * r % m * b % m else r * r % m) 1

/-- A signature (r, then s, each big-endian) of a message verifies with a public key (an uncompressed SEC1 point). -/
def ecdsaP384 (pub msg sig : List Byte) : Bool :=
  let p := p384P
  let n := p384N
  let x := beNat ((pub.drop 1).take 48)
  let y := beNat ((pub.drop 49).take 48)
  let r := beNat (sig.take 48)
  let s := beNat ((sig.drop 48).take 48)
  let w := powMod s (n - 2) n
  let e := beNat (sha384 msg)
  let q := ecAdd (ecMul (e * w % n) ⟨p384Gx, p384Gy, 1⟩) (ecMul (r * w % n) ⟨x, y, 1⟩)
  let zz := q.z * q.z % p
  decide (pub.length = 97) && decide (sig.length = 96) && pub.headD 0 = 4
    && decide (x < p) && decide (y < p) && decide (y * y % p = (x * x * x + (p - 3) * x + p384B) % p)
    && decide (0 < r) && decide (r < n) && decide (0 < s) && decide (s < n)
    && decide (q.z ≠ 0) && (decide (q.x = r * zz % p) || (decide (r + n < p) && decide (q.x = (r + n) * zz % p)))

end Sys2Proof.Machine
end

