-- ==== Sys2Proof/Machine/Images.lean ====
section
/-! DEFINITION. Images: their layout (R428, R433, R434), their checks (R405, R406, R429, R435, R436, R438, R441, R461), their
application (R439, R440), the boot stages that verify and apply them (R458, R459), and the partition reset (R455). -/

namespace Sys2Proof.Machine

/-! ## Layout -/

/-- Bytes [a, a + n) of a flash slot: what nothing has written reads as zero (log entry 52). -/
def imgBytes (img : List Byte) (a n : Nat) : List Byte :=
  let b := (img.drop a).take n
  b ++ List.replicate (n - b.length) 0
/-- A little-endian number of an image. -/
def imgNat (img : List Byte) (a n : Nat) : Nat := leNat (imgBytes img a n)

/-- One entry of the section table. -/
structure Sect where
  typ : Nat
  part : Nat
  off : Nat
  len : Nat
  deriving DecidableEq, Repr

def imgCount (img : List Byte) : Nat := imgNat img 0x00E 2
/-- Byte 0 of entry `k` of the section table. -/
def sectAddr (k : Nat) : Nat := 0x200 + 64 * k
def sectOf (img : List Byte) (k : Nat) : Sect :=
  let a := sectAddr k
  ⟨imgNat img a 1, imgNat img (a + 1) 1, imgNat img (a + 4) 4, imgNat img (a + 8) 4⟩
def sectsOf (img : List Byte) : List Sect := (List.range (imgCount img)).map (sectOf img)
/-- Sections of a type, in table order. -/
def sectsOfType (img : List Byte) (t : Nat) : List Sect := (sectsOf img).filter fun x => x.typ = t

/-- A word of STRUCTURE (R428). -/
def structWord (img : List Byte) (n : Nat) : Nat :=
  match sectsOfType img 1 with
  | x :: _ => imgNat img (x.off + 4 * n) 4
  | [] => 0
def usedIn (img : List Byte) (n : Nat) : Bool := decide (n < 12) && bitOf (structWord img n) 0
def leadIn (img : List Byte) (n : Nat) : Nat := bitsOf (structWord img n) 4 1
def slicesIn (img : List Byte) (n : Nat) : Nat := bitsOf (structWord img n) 15 8

/-- Entries of `n` bytes of a section, as numbers. -/
def entriesOf (img : List Byte) (x : Sect) (n : Nat) : List Nat := (List.range (x.len / n)).map fun i => imgNat img (x.off + n * i) n

/-- REGISTERS entries in the order of R439: module-wide sections first, then partitions in ascending order: the address in
the register space, the value. -/
def regEntry (x : Sect) (e : Nat) : Nat × Word := (if x.part < 12 then Reg.window x.part (e % 2 ^ 32) else e % 2 ^ 32, BitVec.ofNat 32 (e >>> 32))
def regEntries (img : List Byte) (part : Nat) : List (Nat × Word) :=
  ((sectsOfType img 2).filter fun x => x.part = part).flatMap fun x => (entriesOf img x 8).map (regEntry x)

/-- A CORNICE record: partition, header, byte of its first instruction. -/
def corniceRecs (img : List Byte) : List (Nat × Nat × Nat) :=
  (sectsOfType img 3).flatMap fun x => (List.range (x.len / 4104)).map fun i => (x.part, imgNat img (x.off + 4104 * i) 8, x.off + 4104 * i + 8)

/-- Records with a 16-byte header and rows of 512 bytes behind it: the two header words and the byte of the first row; none if
one runs past the section. -/
def rowRecs (img : List Byte) (rows : Nat → Nat → Nat) : Nat → Nat → Nat → Option (List (Nat × Nat × Nat))
  | 0, a, e => if a = e then some [] else none
  | fuel + 1, a, e =>
    if a = e then some []
    else
      let w0 := imgNat img a 8
      let w1 := imgNat img (a + 8) 8
      let b := a + 16 + 512 * rows w0 w1
      if e < a + 16 ∨ e < b then none else (rowRecs img rows fuel b e).map fun l => (w0, w1, a + 16) :: l

/-- Records of a SCRATCHPAD section. -/
def scratchRecs (img : List Byte) (x : Sect) : Option (List (Nat × Nat × Nat)) :=
  rowRecs img (fun _ w1 => bitsOf w1 26 13) (x.len / 16) x.off (x.off + x.len)
/-- Records of a MORAINE_FILL section. -/
def fillRecs (img : List Byte) (x : Sect) : Option (List (Nat × Nat × Nat)) :=
  rowRecs img (fun _ w1 => w1) (x.len / 16) x.off (x.off + x.len)

/-! ## Verification (R435, R436, R438) -/

/-- What the signature covers (R436). -/
def signedBytes (img : List Byte) : List Byte := imgBytes img 0 0x100 ++ imgBytes img 0x200 (64 * imgCount img)

/-- The key slot an image names. -/
def State.keySlot (s : State) (img : List Byte) : KeySlot := (s.fuses.keys[imgNat img 0x00D 1]?).getD {}

/-- REASON 0x01: the key slot is revoked or its hash differs, or the signature is not valid. -/
def State.keyBad (s : State) (img : List Byte) : Bool :=
  let k := s.keySlot img
  let pub := imgBytes img 0x080 97
  !(!k.revoked && decide (k.hash = sha384 pub) && ecdsaP384 pub (signedBytes img) (imgBytes img 0x100 96))

/-- REASON 0x02: a section's digest differs. -/
def digestBad (img : List Byte) : Bool :=
  (List.range (imgCount img)).any fun k =>
    let x := sectOf img k
    decide (sha384 (imgBytes img x.off x.len) ≠ imgBytes img (sectAddr k + 0x10) 48)

/-- The image is a debug image. -/
def isDebug (img : List Byte) : Bool := bitOf (imgNat img 0x007 1) 0
/-- REASON 0x03: the key may not sign such an image. -/
def State.permBad (s : State) (img : List Byte) : Bool :=
  let k := s.keySlot img
  !(k.prod || (k.debug && isDebug img))

/-- Floor of a kind (R435). -/
def State.svnFloor (s : State) (kind : Nat) : Nat := if kind = 1 then s.mgmt.flash.svnBoluk else s.mgmt.flash.svnImage
def imgSvn (img : List Byte) : Nat := imgNat img 0x00C 1

/-- A section's type, partition and length agree (R434). -/
def sectFits (kind : Nat) (x : Sect) : Bool :=
  if kind = 1 then x.typ = 0
  else match x.typ with
    | 1 => x.part = 0xFF && x.len = 48
    | 2 => (x.part = 0xFF || decide (x.part < 12)) && x.len % 8 = 0
    | 3 => decide (x.part < 12) && x.len % 4104 = 0
    | 4 => decide (x.part < 12)
    | 5 => x.part = 0xFF
    | 6 => x.part = 0xFF && x.len = 272
    | 7 => x.part = 0xFF && x.len % 8 = 0
    | _ => false

/-- Size of a slot of a kind (R427). -/
def slotSize (kind : Nat) : Nat := if kind = 1 then 33554432 else 268435456

/-- REASON 0x05: GRADES, STEPPING, KIND, FORMAT or MAGIC do not fit; the table or LENGTH is malformed; a type is reserved;
a single section is repeated or missing. -/
def State.formBad (s : State) (kind : Nat) (img : List Byte) : Bool :=
  let n := imgCount img
  let len := imgNat img 0x010 4
  let l := sectsOf img
  !(imgNat img 0 4 = 0x45505431 && imgNat img 4 2 = 1 && imgNat img 6 1 = kind
    && bitOf (imgNat img 0x014 2) (s.fuses.grade - 1) && imgNat img 0x016 1 = 0x10 && decide (imgSvn img < 64)
    && decide (1 ≤ n) && decide (n ≤ 64) && decide (len ≤ slotSize kind) && decide (sectAddr n ≤ len)
    && (List.range n).all (fun k =>
      let x := sectOf img k
      imgNat img (sectAddr k + 2) 2 = 0 && imgNat img (sectAddr k + 0xC) 4 = 0 && x.off % 64 = 0
        && decide (sectAddr n ≤ x.off) && decide (x.off + x.len ≤ len) && sectFits kind x)
    && (if kind = 1 then decide (n = 1)
        else [1, 6, 7].all (fun t => decide ((l.filter fun x => x.typ = t).length ≤ 1)) && l.any fun x => x.typ = 1))

/-- REASON 0x06: a used partition lies outside AVAIL, or a section names one with USED 0. -/
def State.partsBad (s : State) (img : List Byte) : Bool :=
  (List.range 12).any (fun p => usedIn img p && !s.avail p)
    || (sectsOf img).any fun x => decide (x.part < 12) && !usedIn img x.part

/-- REASON 0x07: STRUCTURE breaks R429. -/
def structBad (img : List Byte) : Bool :=
  (List.range 12).any fun p =>
    usedIn img p && !(decide (leadIn img p ≤ p) && usedIn img (leadIn img p) && leadIn img (leadIn img p) = leadIn img p)

/-- An address that no REGISTERS entry may name (R441): the MGT block and the mailboxes, the fault log, CLK_COURSE_CTRL and
SEQ_COURSE_CTRL, the discovery registers. -/
def imageForbids (a : Nat) : Bool :=
  match spaceOf a with
  | (.module, o) =>
    (decide (0x80000 ≤ o) && decide (o < 0x84000)) || (decide (0x70000 ≤ o) && decide (o < 0x70010))
      || (decide (0x78000 ≤ o) && decide (o < 0x80000)) || o = 0x18000
      || (decide (0x103000 ≤ o) && decide (o < 0x103018)) || (decide (0x110000 ≤ o) && decide (o < 0x110800))
  | (.partition, o) => (decide (0x10000 ≤ o) && decide (o < 0x13000)) || o = 0x404
  | _ => false

/-- Bits that a register's fields other than RO cover. -/
def writableMask (r : RegRow) : Word :=
  (r.fields.filter fun f => f.acc ≠ .ro).foldl (fun m f => setBits m f.hi f.lo (2 ^ 32 - 1)) 0

/-- A REGISTERS entry is valid (R441): it stays in the space of its section, names a defined register, and sets no RO bit. -/
def regEntryOk (part : Nat) (e : Nat × Word) : Bool :=
  (if part < 12 then decide (addrPart e.1 = some part) else (spaceOf e.1).1 = .module) && !imageForbids e.1
    && (match findRow e.1 with
        | some r => decide (e.2 &&& ~~~(writableMask r) = 0)
        | none => false)

/-- REASON 0x08. -/
def regsBad (img : List Byte) : Bool :=
  (sectsOfType img 2).any fun x => (entriesOf img x 8).any fun e =>
    decide (x.part < 12 ∧ 0x100000 ≤ e % 2 ^ 32) || !regEntryOk x.part (regEntry x e)

/-- The registers after reset with the image's entries in them. -/
def State.withImageRegs (s : State) (img : List Byte) : State :=
  forAll ((0xFF :: List.range 12).flatMap (regEntries img)) (fun s e => s.ww e.1 e.2) { s with regs := [] }

/-- No two of a list of regions (base, size) overlap. -/
def noOverlap : List (Nat × Nat) → Bool
  | [] => true
  | x :: l => (l.all fun y => !overlaps x.1 x.2 y.1 y.2) && noOverlap l

/-- REASON 0x09: regions overlap or pass the last row, or a read window leaves the library (R405, R406). Units of 64 KiB. -/
def State.regionsBad (s : State) : Bool :=
  let reg (j : Nat) : Nat × Nat := (s.get (Reg.MOR_BASE.BASE j), s.get (Reg.MOR_SIZE.SIZE j))
  let rw (p : Nat) : Nat × Nat := (s.get (Reg.MOR_RW_BASE.BASE p), s.get (Reg.MOR_RW_SIZE.SIZE p))
  let rd (p : Nat) : Nat × Nat := (s.get (Reg.MOR_RD_BASE.BASE p), s.get (Reg.MOR_RD_SIZE.SIZE p))
  let all := (List.range 3).map reg ++ (List.range 12).map rw
  !(noOverlap all && all.all (fun x => decide (x.2 = 0) || decide ((x.1 + x.2) * 128 ≤ Config.moraineRows))
    && (List.range 12).all fun p =>
      let x := rd p
      decide (x.2 = 0) || (decide ((reg 0).1 ≤ x.1) && decide (x.1 + x.2 ≤ (reg 0).1 + (reg 0).2)))

/-- A SCRATCHPAD record is in range and targets a powered slice. -/
def scratchRecOk (img : List Byte) (part : Nat) (r : Nat × Nat × Nat) : Bool :=
  let rows := bitsOf r.2.1 26 13
  decide (r.1 < 2 ^ 51) && decide (r.2.1 < 2 ^ 27) && decide (1 ≤ rows) && decide (bitsOf r.2.1 12 0 + rows ≤ 8192)
    && bitOf (slicesIn img part) (bitsOf r.1 50 48)

/-- Every row of a MORAINE_FILL record lies in the library or in a read-write window. -/
def State.fillRecOk (s : State) (r : Nat × Nat × Nat) : Bool :=
  (List.range r.2.1).all fun i => s.inRegion 0 (r.1 + i) 1 || (List.range 12).any fun p => s.inRw p (r.1 + i) 1

/-- REASON 0x0A. -/
def State.recsBad (s : State) (img : List Byte) : Bool :=
  let banks := (corniceRecs img).map fun r => (r.1, r.2.1)
  !(banks.all (fun b => decide (b.2 < 12)) && decide (banks.eraseDups.length = banks.length)
    && (sectsOfType img 4).all (fun x => match scratchRecs img x with
        | some l => l.all (scratchRecOk img x.part)
        | none => false)
    && (sectsOfType img 5).all (fun x => match fillRecs img x with
        | some l => l.all s.fillRecOk
        | none => false))

/-- A policy value is in range (R460). -/
def policyOk (id v : Nat) : Bool :=
  match id with
  | 1 => decide (1000 ≤ v) && decide (v ≤ 4000)
  | 2 => decide (v ≤ 15)
  | 3 => decide (v ≤ 2)
  | 4 | 5 | 6 | 7 => decide (v ≤ 1)
  | 8 => true
  | _ => false

def policyEntries (img : List Byte) : List Nat := (sectsOfType img 7).flatMap fun x => entriesOf img x 8

/-- REASON 0x0B. -/
def policyBad (img : List Byte) : Bool :=
  (policyEntries img).any fun e => !(decide (bitsOf e 31 8 = 0) && policyOk (e % 256) (e >>> 32))

/-- The first reason, in the order of R438, for which an image of a kind is rejected; 0 if it passes. `load` adds the check of
a partition load. -/
def State.imageReason (s : State) (kind : Nat) (img : List Byte) (load : Bool) : Nat :=
  if s.keyBad img then 0x01
  else if digestBad img then 0x02
  else if s.permBad img then 0x03
  else if imgSvn img < s.svnFloor kind then 0x04
  else if s.formBad kind img then 0x05
  else if kind = 1 then 0
  else if s.partsBad img then 0x06
  else if structBad img then 0x07
  else if regsBad img then 0x08
  else
    let t := s.withImageRegs img
    if t.regionsBad then 0x09
    else if t.recsBad img then 0x0A
    else if policyBad img then 0x0B
    else if load ∧ imgBytes img 0x020 48 ≠ s.mgmt.moduleDigest then 0x0C
    else 0

/-- A rejected image: REASON, and the code of the reason (R438). -/
def State.rejectImage (s : State) (r : Nat) : State :=
  (s.put Reg.MGT_BOOT_STATUS.REASON r).logOnce { code := if r ≤ 3 then 0xE1 else 0xE2, effect := 2, detail := r }

/-! ## Slots (R427) -/

def Flash.slot (f : Flash) (kind k : Nat) : List Byte :=
  if kind = 1 then (if k = 0 then f.boluk0 else f.boluk1) else if k = 0 then f.image0 else f.image1
def Flash.selected (f : Flash) (kind : Nat) : Nat := if kind = 1 then f.selBoluk else f.selImage
def Flash.setSlot (f : Flash) (kind k : Nat) (b : List Byte) : Flash :=
  if kind = 1 then (if k = 0 then { f with boluk0 := b } else { f with boluk1 := b })
  else if k = 0 then { f with image0 := b } else { f with image1 := b }
def Flash.select (f : Flash) (kind k : Nat) : Flash := if kind = 1 then { f with selBoluk := k } else { f with selImage := k }
def Flash.raiseFloor (f : Flash) (kind svn : Nat) : Flash :=
  if kind = 1 then { f with svnBoluk := max f.svnBoluk svn } else { f with svnImage := max f.svnImage svn }

def State.modMgmt (s : State) (f : Mgmt → Mgmt) : State := { s with mgmt := f s.mgmt }
/-- A slot has verified, or has not (GET_INFO's VERIFIED). -/
def State.setVerified (s : State) (kind k : Nat) (v : Bool) : State :=
  s.modMgmt fun m => { m with verified := m.verified.set ((kind - 1) * 2 + k) v }
def State.image (s : State) (kind k : Nat) : List Byte := s.mgmt.flash.slot kind k

/-- Verify one slot: true, or rejected with its reason. -/
def State.verifySlot (s : State) (kind k : Nat) (load : Bool) : Bool × State :=
  let r := s.imageReason kind (s.image kind k) load
  if r = 0 then (true, s.setVerified kind k true) else (false, (s.setVerified kind k false).rejectImage r)

/-- The selected slot, then the other one (R459): the slot that verifies, if one does. -/
def State.verifyBoth (s : State) (kind : Nat) : Option Nat × State :=
  let k := s.mgmt.flash.selected kind
  let r := s.verifySlot kind k false
  if r.1 then (some k, r.2)
  else
    let r := r.2.verifySlot kind (1 - k) false
    if r.1 then (some (1 - k), (r.2.put Reg.MGT_BOOT_STATUS.FALLBACK 1).logEvent { code := 0xE3, effect := 1, detail := 1 - k })
    else (none, r.2)

/-! ## Boot (R458, R459) -/

/-- A debug image has been loaded: IDENT.DEBUG stays set until the next cold or warm reset (R437). -/
def State.noteDebug (s : State) (img : List Byte) : State := if isDebug img then s.put Reg.IDENT.DEBUG 1 else s

/-- The boot ROM verifies Boluk and starts it, or fails. The on-die log goes on behind the persistent one (R493). -/
def State.bootRomOp (s : State) : State :=
  if s.mgmt.powered && !s.mgmt.boluk && s.get Reg.MGT_BOOT_STATUS.STAGE = 0 then
    let r := s.verifyBoth 1
    let s := r.2
    match r.1 with
    | none => s.put Reg.MGT_BOOT_STATUS.STAGE 7
    | some k =>
      let next := s.mgmt.flash.log.foldl (fun n e => max n (e.seq + 1)) (s.get Reg.FLT_NEXT_SEQ.SEQ)
      let s := (s.modMgmt fun m => { m with boluk := true }).put Reg.FLT_NEXT_SEQ.SEQ next
      (((s.put Reg.MGT_BOOT_STATUS.BOLUK_SLOT k).put Reg.MGT_BOOT_STATUS.STAGE 1).noteDebug (s.image 1 k)).moveStage
  else s

/-- BOOT_ROM_VERIFY. -/
def execBootRomVerify (s : State) : Host.Outcome State Fault Refusal := s.answerCtl s.bootRomOp

/-- Boluk verifies the Eptustan image while the module boots. -/
def State.imageVerifyOp (s : State) : State :=
  let g := s.get Reg.MGT_BOOT_STATUS.STAGE
  if s.mgmt.boluk && decide (2 ≤ g) && decide (g ≤ 5) && s.mgmt.verDone.isNone then
    let r := s.verifyBoth 2
    match r.1 with
    | none => r.2.put Reg.MGT_BOOT_STATUS.STAGE 7
    | some k => (r.2.modMgmt fun m => { m with verDone := some k }).moveStage
  else s

/-- IMAGE_VERIFY. -/
def execImageVerify (s : State) : Host.Outcome State Fault Refusal := s.answerCtl s.imageVerifyOp

/-! ## Application (R439, R440) -/

/-- STRUCTURE for one partition: its domain, its streams, its slices. A partition inside AVAIL that the image does not use has
every slice powered down (R430). -/
def State.applyStruct (s : State) (img : List Byte) (p : Nat) : State :=
  if usedIn img p then
    let lead := leadIn img p
    let s := s.put (Reg.SEQ_DOMAIN.LEAD p) lead
    let s := s.put (Reg.SEQ_DOMAIN.MEMBERS p) (mask12 fun q => usedIn img q && leadIn img q = lead)
    let s := (s.put (Reg.MGT_PART_STATUS.USED p) 1).put (Reg.MGT_PART_STATUS.STREAM_TO p) (bitsOf (structWord img p) 27 16)
    forAll (partAsh p) (fun s a => s.setSlicePower a (slicesIn img p)) s
  else if s.avail p then forAll (partAsh p) (fun s a => s.setSlicePower a 0) s
  else s

/-- REGISTERS of one space. -/
def State.applyRegs (s : State) (img : List Byte) (part : Nat) : State :=
  forAll (regEntries img part) (fun s e => s.writeReg .fw e.1 e.2) s

/-- A CORNICE record: the bank becomes VALID with TAG 0. -/
def State.applyBank (s : State) (img : List Byte) (r : Nat × Nat × Nat) : State :=
  let b := r.2.1 % 16
  let s := forAll (List.range 512) (fun s i => s.setCornice r.1 (b * 512 + i) (BitVec.ofNat 64 (imgNat img (r.2.2 + 8 * i) 8))) s
  (s.put (Reg.SEQ_BANK.STATE r.1 b) 1).put (Reg.SEQ_BANK.TAG r.1 b) 0

/-- A SCRATCHPAD record: its rows, to every masked ashlar. -/
def State.applyScratchRec (s : State) (img : List Byte) (p : Nat) (r : Nat × Nat × Nat) : State :=
  let a := bitsOf r.1 50 48 * 4194304 + bitsOf r.2.1 12 0 * 512
  let bs := imgBytes img r.2.2 (512 * bitsOf r.2.1 26 13)
  forAll ((List.range 48).filter fun i => bitOf r.1 i) (fun s i => s.wrBytes (ashOf p i) a bs) s

/-- The contents of one section, of types CORNICE, SCRATCHPAD and MORAINE_FILL. -/
def State.applySect (s : State) (img : List Byte) (x : Sect) : State :=
  match x.typ with
  | 3 => forAll ((List.range (x.len / 4104)).map fun i => (x.part, imgNat img (x.off + 4104 * i) 8, x.off + 4104 * i + 8))
      (fun s r => s.applyBank img r) s
  | 4 => forAll ((scratchRecs img x).getD []) (fun s r => s.applyScratchRec img x.part r) s
  | 5 => forAll ((fillRecs img x).getD []) (fun s r => s.writeGrans (r.1 * 512) (imgBytes img r.2.2 (512 * r.2.1))) s
  | _ => s

/-- The words of a plan (R434) take their places. -/
def State.loadPlan (s : State) (ws : List Nat) : State :=
  let w (i : Nat) : Word := BitVec.ofNat 32 (ws[i]?.getD 0)
  let s := ((s.storeReg .fw Reg.UBN_SELF.addr (w 0)).storeReg .fw Reg.UBN_PLAN_ID.addr (w 1)).storeReg .fw Reg.UBN_DISC_CTRL.addr (w 2)
  let s := s.storeReg .fw Reg.UBN_IDENT_TIMEOUT.addr (w 3)
  forAll (List.range 32) (fun s p =>
    (s.storeReg .fw (Reg.UBN_PLAN_LO.addr p) (w (4 + 2 * p))).storeReg .fw (Reg.UBN_PLAN_HI.addr p) (w (5 + 2 * p))) s

/-- PLAN and its commit (R354). -/
def State.applyPlan (s : State) (ws : List Nat) : State := (s.loadPlan ws).discCtrlOp .fw (BitVec.ofNat 32 (ws[2]?.getD 0 ||| 1))

/-- A policy value takes effect (R460, R461). -/
def State.setPolicy (s : State) (id v : Nat) : State :=
  let m (f : Policy → Policy) : State := s.modMgmt fun m => { m with policy := f m.policy }
  match id with
  | 1 => (m fun p => { p with powerCap := v }).put Reg.GOV_CAP.CAP_W v
  | 2 => m fun p => { p with step := v }
  | 3 => m fun p => { p with overrun := v }
  | 4 => m fun p => { p with freezeLimit := v }
  | 5 => (m fun p => { p with hold := v }).put Reg.SRV_PARK_CTRL.HOLD_EXPIRED v
  | 6 => m fun p => { p with remap := v }
  | 7 => m fun p => { p with regrout := v }
  | 8 => (m fun p => { p with holdover := v }).put Reg.CLK_HOLDOVER_LIMIT.LIMIT v
  | _ => s

/-- A policy value as it reads. -/
def Policy.value (p : Policy) (id : Nat) : Nat :=
  match id with
  | 1 => p.powerCap
  | 2 => p.step
  | 3 => p.overrun
  | 4 => p.freezeLimit
  | 5 => p.hold
  | 6 => p.remap
  | 7 => p.regrout
  | _ => p.holdover

/-- The steps of R439 over the partitions that `sel` chooses; `whole` adds the module-wide sections and seals the module. -/
def State.applyImage (s : State) (img : List Byte) (sel : Nat → Bool) (whole : Bool) : State :=
  let ps := (List.range 12).filter sel
  let s := forAll ps (fun s p => s.applyStruct img p) s
  let s := if whole then s.applyRegs img 0xFF else s
  let s := forAll ps (fun s p => s.applyRegs img p) s
  let s := forAll ((sectsOf img).filter fun x => if x.part < 12 then sel x.part else whole) (fun s x => s.applySect img x) s
  let s := if whole then forAll (sectsOfType img 6) (fun s x => s.applyPlan (entriesOf img x 4)) s else s
  let s := if whole then forAll (policyEntries img) (fun s e => s.setPolicy (e % 256) (e >>> 32)) s else s
  let s := if whole then s.put Reg.MGT_SEAL.MODULE 1 else s
  s.put Reg.MGT_SEAL.PART (s.get Reg.MGT_SEAL.PART ||| mask12 fun p => sel p && usedIn img p)

/-- What the management registers tell of the applied image (R437, R466). -/
def State.noteImage (s : State) (img : List Byte) (k : Nat) : State :=
  let s := s.put Reg.MGT_IMAGE_ID.ID (imgNat img 8 4)
  let s := s.wwList (Reg.MGT_IMAGE_DIGEST.addr 0) (wordsOf (sha384 (imgBytes img 0 0x100)))
  let s := (s.put Reg.MGT_SVN.IMAGE_SVN (imgSvn img)).put Reg.MGT_BOOT_STATUS.IMAGE_SLOT k
  let s := s.noteDebug img
  s.modMgmt fun m => { m with moduleDigest := imgBytes img 0x020 48 }

/-- Boluk requests the step of its policy for both halves, where it is not the current one (R459, R460). -/
def State.bootStep (s : State) : State :=
  let n := s.mgmt.policy.step
  if s.get Reg.CLK_STEP_CUR.STEP_W = n ∧ s.get Reg.CLK_STEP_CUR.STEP_E = n then s else s.askStep n n

/-- Boluk applies the verified image. Partitions that calibration has disabled since it was verified count again (R438). -/
def State.imageApplyOp (s : State) : State :=
  match s.mgmt.verDone with
  | none => s
  | some k =>
    if s.mgmt.boluk && s.get Reg.MGT_BOOT_STATUS.STAGE = 5 then
      let img := s.image 2 k
      let r := s.imageReason 2 img false
      if r ≠ 0 then ((s.setVerified 2 k false).rejectImage r |>.modMgmt fun m => { m with verDone := none }).moveStage
      else (((s.applyImage img (fun _ => true) true).noteImage img k).put Reg.MGT_BOOT_STATUS.STAGE 6).bootStep
    else s

/-- IMAGE_APPLY. -/
def execImageApply (s : State) : Host.Outcome State Fault Refusal := s.answer s.imageApplyOp

/-! ## Partition reset (R454, R455) -/

/-- A partition of a mask. -/
def inMask (m p : Nat) : Bool := decide (p < 12) && bitOf m p

/-- A register that a partition reset returns to its reset value: those of the window and the ashlar pages, but for the
mailbox, and for the grout registers, whose reset values apply only before boot (R84). -/
def partClears (m a : Nat) : Bool :=
  match addrPart a with
  | none => false
  | some p =>
    inMask m p &&
      (match spaceOf a with
       | (.partition, o) => !(decide (0x10000 ≤ o) && decide (o < 0x13000))
       | (.tile, o) => !((decide (0x40 ≤ o) && decide (o < 0x60)) || (decide (0x400 ≤ o) && decide (o < 0x800)))
       | _ => false)

/-- The compute registers of one ashlar. -/
def clearAsh (b : Bulk) (a : Nat) : Bulk :=
  { b with
    core := mapClear b.core (a * 64) (a * 64 + 64)
    vreg := mapClear b.vreg (a * 512) (a * 512 + 512)
    acc := mapClear b.acc (a * 4096) (a * 4096 + 4096)
    satm := mapClear b.satm (a * 4096) (a * 4096 + 4096)
    chk := mapClear b.chk (a * 64) (a * 64 + 64)
    window := mapClear b.window (a * 16) (a * 16 + 16)
    rot := mapClear b.rot (a * 4) (a * 4 + 4)
    stage := mapClear b.stage (a * 3) (a * 3 + 3) }

/-- The stores of a partition: cornice, scratchpad, compute registers. -/
def State.clearStores (s : State) (p : Nat) : State :=
  let s := { s with bulk := { s.bulk with cornice := mapClear s.bulk.cornice (p * 6144) (p * 6144 + 6144) } }
  forAll (partAsh p) (fun s a => forAll (List.range 8) (fun s k => s.wipeSlice a k) { s with bulk := clearAsh s.bulk a }) s

/-- An outstanding entry whose packet has gone to another module: the COMPLETION that returns for it frees it (log entry 53). -/
def State.farEntry (s : State) (e : OutEnt) : Bool :=
  !s.fab.waits.any (fun w => w.xfer = e.xfer && w.pkt.id = e.pkt) && !e.stk &&
    (match s.fab.xfers.find? fun x => x.id = e.xfer with
     | some x => x.mc || decide (x.dstMod ≠ s.moduleId)
     | none => s.fab.served.any fun g => g.ash = e.ash && g.entry = e.idx && decide (g.srcMod ≠ s.moduleId))

/-- What is in the fabric for a reset partition is discarded, and answered with STATUS 1: packets of other modules, and those and the
GETs of this module's other partitions (R340, R351, R455). -/
def State.clearFabric (s : State) (m : Nat) : State :=
  let mine (a : Nat) : Bool := inMask m (partOf a)
  let lost (s : State) (far : Bool) (port : Nat) : State :=
    let s := s.put Reg.UBN_STATUS.UNREACHABLE 1
    if far then s.ubnInfo port s.moduleId false else s
  let s := forAll ((s.fab.land ++ s.fab.held.map (·.2.1)).filter fun g => mine g.ash) (fun s g =>
    let t := s.dropLanding g 1
    if g.final then t.landDone g 1 (s.wallNow (s.domOf g.ash)) else t) s
  let s := forAll (s.fab.gets.filter fun g => mine g.ash && !(decide (g.replyMod = s.moduleId) && mine g.replyAsh))
    (fun s g => (lost s (decide (g.replyMod ≠ s.moduleId)) g.port).sendCompl none g.replyMod g.replyAsh g.entry 1
      (s.wallNow (s.domOf g.replyAsh))) s
  let s := forAll (s.fab.pool.filter fun k => mine k.dst) (fun s k =>
    (lost (s.put Reg.UBN_POOL_STATUS.IN_USE (s.get Reg.UBN_POOL_STATUS.IN_USE - 1)) true k.inPort).sendCompl none k.srcMod k.srcAsh k.entry 1 0) s
  let far := s.farEntry
  let keep (e : OutEnt) : Bool := !mine e.ash || far e
  let ents := s.fab.ents.filter keep
  s.modFab fun f => { f with
    land := f.land.filter fun g => !mine g.ash
    semps := f.semps.filter fun x => !mine x.ash
    ents := ents
    xfers := (f.xfers.filter fun x => !mine x.ash || ents.any fun e => e.xfer = x.id).map fun x => if mine x.ash then { x with sem := none } else x
    compl := f.compl.filter fun c => !mine c.ash
    gets := f.gets.filter fun g => !mine g.ash && !(decide (g.replyMod = s.moduleId) && mine g.replyAsh)
    waits := f.waits.filter fun w => !mine w.ash
    inj := f.inj.filter fun j => !mine j.pkt.srcAsh
    stks := f.stks.filter fun k => !mine k.ash
    pool := f.pool.filter fun k => !mine k.dst
    served := f.served.filter fun g => !mine g.ash || ents.any fun e => e.ash = g.ash && e.idx = g.entry }

/-- The partitions of a mask are reset; they stay so until they are sealed again. Their park handles survive, but for those
whose park had not reached its commit point; a resume that ran gives its handle back. -/
def State.resetParts (s : State) (m : Nat) : State :=
  let ps := (List.range 12).filter (inMask m)
  let s := forAll ps (fun s p => forAll (s.srvAt p).inbox (fun s h => match h with
    | .tokens sp sc tp tc _ _ => s.dropToks sp sc tp tc
    | _ => s) s) s
  let s := s.clearFabric m
  let s := forAll ps (fun s p => (((s.clearStores p).setDom p {}).setSrv p {}).setPend p {}) s
  let s := { s with
    regs := s.regs.filter fun e => !partClears m e.1
    latches := s.latches.filter fun e => !partClears m e.1
    scrub := s.scrub.filter fun e => !inMask m (partOf e.1)
    mor := { s.mor with
      swaps := s.mor.swaps.filter fun x => !inMask m x.part
      writes := s.mor.writes.filter fun w => match w.land with | some l => !inMask m (partOf l.1) | none => true }
    mgmt := { s.mgmt with
      groutCopy := s.mgmt.groutCopy.filter fun c => !inMask m (partOf c.1)
      regrouts := s.mgmt.regrouts.filter fun c => !inMask m (partOf c.1)
      eventsWaiting := s.mgmt.eventsWaiting.filter fun c => !inMask m (partOf c.1) } }
  let s := forAll (s.park.handles.filter fun h => inMask m h.part) (fun s h =>
    if !h.valid then s.freeHandle h.slot else if h.pinned then s.unpin h else s) s
  let s := s.put Reg.MGT_SEAL.PART (s.get Reg.MGT_SEAL.PART &&& (4095 - m % 4096))
  forAll ps (fun s p => s.put (Reg.MGT_PART_STATUS.RESETTING p) 1) s

/-- The mask consists of whole domains, of one at least (R455). -/
def State.wholeDomains (s : State) (m : Nat) : Bool :=
  (List.range 12).any (inMask m)
    && (List.range 12).all fun p => !inMask m p || (s.used p && (s.members (s.leadOf p)).all (inMask m))

/-- The partition sections of the image for the mask are applied, and its partitions are sealed. -/
def State.reloadParts (s : State) (m k : Nat) : State :=
  let s := (s.applyImage (s.image 2 k) (inMask m) false).noteDebug (s.image 2 k)
  forAll ((List.range 12).filter (inMask m)) (fun s p => s.put (Reg.MGT_PART_STATUS.RESETTING p) 0) s

end Sys2Proof.Machine
end

