-- ==== Sys2Proof/Machine/Mailbox.lean ====
section
/-! DEFINITION. The commands of the firmware mailbox (R455, R460 to R465, R495), MCTP messages and PLDM firmware updates (R536,
R537). A row acts when its instance is BUSY with its opcode and something serves the mailbox. -/

namespace Sys2Proof.Machine

/-- Statuses of the mailbox. -/
def mbxOk : Nat := 0
def mbxBadArgument : Nat := 2
def mbxDenied : Nat := 3
def mbxWrongState : Nat := 4
def mbxVerifyFailed : Nat := 5

/-- The boot ROM's mailbox (R459): open in FAILED while Boluk does not run. -/
def State.romMailbox (s : State) : Bool := !s.mgmt.boluk && s.mgmt.powered && s.get Reg.MGT_BOOT_STATUS.STAGE = 7

/-- What the boot ROM's mailbox accepts. -/
def State.romAccepts (s : State) (m op : Nat) : Bool := op = 1 || ((op = 2 || op = 3) && s.mbxQuad m 0 % 256 = 1)

/-- The instances are served round-robin: the turn is that of the first BUSY one after the one served last (R463); one whose
PARTITION_LOAD runs is being served. -/
def State.mbxTurn (s : State) (m : Nat) : Bool :=
  let dist (i : Nat) : Nat := (i + 12 - s.mgmt.lastMbx) % 13
  (s.mgmt.loading.any fun v => v.2.1 = m)
    || (List.range 13).all fun i => !s.mbxBusy i || (s.mgmt.loading.any fun v => v.2.1 = i) || decide (dist m ≤ dist i)

/-- Serve a request: one of its opcode that is BUSY, from an instance that may issue it, with at least `len` bytes of payload
(DEDUCED, log entry 55). -/
def State.mbxServe (s : State) (m op : Nat) (both : Bool) (len : Nat) (k : State → State) : State :=
  if !s.mbxBusy m || decide (13 ≤ m) || s.mbxOpcode m ≠ op || !(s.mgmt.boluk || s.romMailbox) || !s.mbxTurn m then s
  else
  let s := s.modMgmt fun g => { g with lastMbx := m }
  if m ≠ 12 ∧ both = false then s.mbxAnswer m mbxDenied []
  else if s.romMailbox && !s.romAccepts m op then s.mbxAnswer m mbxWrongState []
  else if s.mbxLen m < len then s.mbxAnswer m mbxBadArgument []
  else k s

/-! ## GET_INFO -/

/-- The word of GET_INFO that describes a slot. -/
def State.slotInfo (s : State) (kind k : Nat) : Nat :=
  let img := s.image kind k
  imgNat img 8 4 + (imgSvn img % 64) <<< 32 + bit01 ((s.mgmt.verified[(kind - 1) * 2 + k]?).getD false) <<< 40
    + bit01 (decide (s.mgmt.flash.selected kind = k)) <<< 41

/-- The response of GET_INFO. -/
def State.infoBytes (s : State) : List Byte :=
  ([s.identWord, s.identParts, s.modView 0x80000, s.rw Reg.MGT_IMAGE_ID.addr].flatMap fun w => leBytes 4 w.toNat)
    ++ [s.slotInfo 1 0, s.slotInfo 1 1, s.slotInfo 2 0, s.slotInfo 2 1].flatMap (leBytes 8)

def State.getInfoOp (s : State) (m : Nat) : State := s.mbxServe m 1 true 0 fun s => s.mbxAnswer m mbxOk s.infoBytes

/-- GET_INFO. -/
def execGetInfo (m : Nat) (s : State) : Host.Outcome State Fault Refusal := s.answerCtl (s.getInfoOp m)

/-! ## Images -/

/-- Bytes of a slot after a write at an offset. -/
def writeAt (b : List Byte) (off : Nat) (data : List Byte) : List Byte :=
  b.take off ++ List.replicate (off - b.length) 0 ++ data ++ b.drop (off + data.length)

/-- Write image data into the slot that is not selected. -/
def State.slotWrite (s : State) (kind off : Nat) (data : List Byte) : State :=
  let f := s.mgmt.flash
  let k := 1 - f.selected kind
  (s.modMgmt fun m => { m with flash := f.setSlot kind k (writeAt (f.slot kind k) off data) }).setVerified kind k false

/-- An image write names a kind, an offset that is a multiple of 8, and stays in its slot. -/
def imageWriteOk (kind off n : Nat) : Bool := (kind = 1 || kind = 2) && off % 8 = 0 && decide (off + n ≤ slotSize kind)

def State.imageWriteOp (s : State) (m : Nat) : State :=
  s.mbxServe m 2 false 8 fun s =>
    let q := s.mbxQuad m 0
    let data := (s.mbxData m).drop 8
    if !imageWriteOk (q % 256) (q >>> 32) data.length then s.mbxAnswer m mbxBadArgument []
    else if s.mgmt.updKind = some (q % 256) then s.mbxAnswer m mbxWrongState []
    else (s.slotWrite (q % 256) (q >>> 32) data).mbxAnswer m mbxOk []

/-- IMAGE_WRITE. -/
def execImageWrite (m : Nat) (s : State) : Host.Outcome State Fault Refusal := s.answerCtl (s.imageWriteOp m)

/-- Verify the slot that is not selected and select it; burn the floor if asked (R464). True, or the REASON and false. -/
def State.commitSlot (s : State) (kind : Nat) (burn : Bool) : State × Nat :=
  let k := 1 - s.mgmt.flash.selected kind
  let img := s.image kind k
  let r := s.imageReason kind img false
  let v := s.verifySlot kind k false
  let f := v.2.mgmt.flash.select kind k
  let f := if burn then f.raiseFloor kind (imgSvn img) else f
  if v.1 then (v.2.modMgmt fun m => { m with flash := f }, 0)
  else (v.2, r)

def State.imageCommitOp (s : State) (m : Nat) : State :=
  s.mbxServe m 3 false 8 fun s =>
    let q := s.mbxQuad m 0
    let kind := q % 256
    if kind ≠ 1 ∧ kind ≠ 2 then s.mbxAnswer m mbxBadArgument []
    else if s.mgmt.updKind = some kind then s.mbxAnswer m mbxWrongState []
    else
      let r := s.commitSlot kind (bitOf q 8)
      if r.2 = 0 then r.1.mbxAnswer m mbxOk [] else r.1.mbxAnswer m mbxVerifyFailed (leBytes 8 r.2)

/-- IMAGE_COMMIT. -/
def execImageCommit (m : Nat) (s : State) : Host.Outcome State Fault Refusal := s.answerCtl (s.imageCommitOp m)

/-! ## RESET -/

/-- The request is answered, then the reset begins (R465). -/
def State.mbxResetOp (s : State) (m : Nat) : State :=
  s.mbxServe m 4 false 8 fun s =>
    match s.mbxQuad m 0 % 4 with
    | 0 => (s.mbxAnswer m mbxOk []).warmOp 5 (some m)
    | 1 => (s.mbxAnswer m mbxOk []).coldOp 2 (some m)
    | 2 => (s.mbxAnswer m mbxOk []).mgmtOp
    | _ => s.mbxAnswer m mbxBadArgument []

/-- RESET. -/
def execMbxReset (m : Nat) (s : State) : Host.Outcome State Fault Refusal := s.answer (s.mbxResetOp m)

/-! ## PARTITION_LOAD (R455) -/

/-- The first part: checks, and the reset begins. -/
def State.loadBegin (s : State) (m : Nat) : State :=
  let mask := s.mbxQuad m 0 % 4096
  let ps := (List.range 12).filter (inMask mask)
  if m ≠ 12 ∧ (mask ≠ 2 ^ m ∨ s.members (s.leadOf m) ≠ [m]) then s.mbxAnswer m mbxDenied []
  else if !s.wholeDomains mask || ps.any (fun p => s.armed (s.leadOf p)) || s.mgmt.loading.isSome then s.mbxAnswer m mbxWrongState []
  else
    let k := s.mgmt.flash.selImage
    let r := s.imageReason 2 (s.image 2 k) true
    let v := s.verifySlot 2 k true
    if v.1 then (v.2.resetParts mask).modMgmt fun g => { g with loading := some (mask, m, k) }
    else v.2.mbxAnswer m mbxVerifyFailed (leBytes 8 r)

/-- A partition reset whose request a management reset has cut off is brought to its end (R455, R463). -/
def State.finishCut (s : State) : State :=
  match s.mgmt.loading with
  | some (mask, 13, k) => (s.reloadParts mask k).modMgmt fun g => { g with loading := none }
  | _ => s

/-- PARTITION_LOAD runs in two parts: the reset begins, and later, when everything has been applied, its partitions are sealed
and the request is answered. -/
def State.partitionLoadOp (s : State) (m : Nat) : State :=
  s.finishCut.mbxServe m 5 true 8 fun s =>
    match s.mgmt.loading with
    | some (mask, i, k) =>
      if i = m then ((s.reloadParts mask k).modMgmt fun g => { g with loading := none }).mbxAnswer m mbxOk [] else s.loadBegin m
    | none => s.loadBegin m

/-- PARTITION_LOAD. -/
def execPartitionLoad (m : Nat) (s : State) : Host.Outcome State Fault Refusal := s.answer (s.partitionLoadOp m)

/-! ## FAULT_READ (R495) -/

/-- The records that the on-die log holds, by SEQ: sixteen words each. -/
def State.dieLog (s : State) : List (Nat × List Nat) :=
  ((List.range 512).map fun i => (List.range 16).map fun j => (s.rw (Reg.FLT_REC.addr i j)).toNat).filterMap fun ws =>
    if (ws.headD 0) % 256 = 0 then none else some ((ws[7]?).getD 0, ws)

/-- Both logs together, the on-die one first, in ascending SEQ. -/
def State.allRecords (s : State) : SMap (List Nat) :=
  let m := s.mgmt.flash.log.foldl (fun m r => mapInsert m r.seq r.words) []
  s.dieLog.foldl (fun m e => mapInsert m e.1 e.2) m

/-- What FAULT_READ answers an instance. -/
def State.faultBytes (s : State) (m : Nat) : List Byte :=
  let first := s.mbxQuad m 0 % 2 ^ 32
  let l := s.allRecords.filter fun e => decide (first ≤ e.1) && (m = 12 || bitsOf (e.2.headD 0) 15 12 = m)
  (l.take 63).flatMap fun e => e.2.flatMap (leBytes 4)

def State.faultReadOp (s : State) (m : Nat) : State := s.mbxServe m 6 true 4 fun s => s.mbxAnswer m mbxOk (s.faultBytes m)

/-- FAULT_READ. -/
def execFaultRead (m : Nat) (s : State) : Host.Outcome State Fault Refusal := s.answerCtl (s.faultReadOp m)

/-! ## Policy and plan -/

def State.policyGetOp (s : State) (m : Nat) : State :=
  s.mbxServe m 7 true 1 fun s =>
    let id := s.mbxQuad m 0 % 256
    if 1 ≤ id ∧ id ≤ 8 then s.mbxAnswer m mbxOk (leBytes 8 (id + s.mgmt.policy.value id <<< 32)) else s.mbxAnswer m mbxBadArgument []

/-- POLICY_GET. -/
def execPolicyGet (m : Nat) (s : State) : Host.Outcome State Fault Refusal := s.answerCtl (s.policyGetOp m)

def State.policySetOp (s : State) (m : Nat) : State :=
  s.mbxServe m 8 false 8 fun s =>
    let q := s.mbxQuad m 0
    if policyOk (q % 256) (q >>> 32) then (s.setPolicy (q % 256) (q >>> 32)).mbxAnswer m mbxOk [] else s.mbxAnswer m mbxBadArgument []

/-- POLICY_SET. -/
def execPolicySet (m : Nat) (s : State) : Host.Outcome State Fault Refusal := s.answerCtl (s.policySetOp m)

/-- PLAN_SET: the content of a PLAN section, with PLAN_COMMIT 0 in its UBN_DISC_CTRL. -/
def State.planSetOp (s : State) (m : Nat) : State :=
  s.mbxServe m 9 false 0 fun s =>
    let ws := wordsOf (s.mbxData m)
    if s.mbxLen m ≠ 272 ∨ bitOf (ws[2]?.getD 0) 0 then s.mbxAnswer m mbxBadArgument []
    else if s.anyArmed then s.mbxAnswer m mbxWrongState []
    else (s.applyPlan ws).mbxAnswer m mbxOk []

/-- PLAN_SET. -/
def execPlanSet (m : Nat) (s : State) : Host.Outcome State Fault Refusal := s.answerCtl (s.planSetOp m)

def State.badOpcodeOp (s : State) (m : Nat) : State :=
  if s.mbxBusy m && decide (m < 13) && (s.mgmt.boluk || s.romMailbox) && s.mbxTurn m
      && !(decide (1 ≤ s.mbxOpcode m) && decide (s.mbxOpcode m ≤ 9)) then
    (s.modMgmt fun g => { g with lastMbx := m }).mbxAnswer m 1 []
  else s

/-- MAILBOX_BAD_OPCODE. -/
def execMailboxBadOpcode (m : Nat) (s : State) : Host.Outcome State Fault Refusal := s.answerCtl (s.badOpcodeOp m)

/-! ## MCTP and PLDM (R536, R537) -/

/-- A module-mailbox request that came by MCTP. -/
def State.mctpRequest (s : State) (body : List Byte) (via : Via) : State :=
  if s.mbxBusy 12 then s.mbxGo 12
  else
    let s := s.wwList (mbxBase 12) (wordsOf (body.take 4096))
    (s.modMgmt fun m => { m with mctpAsk := true, mctpVia := via }).mbxGo 12

/-- MCTP control messages (DSP0236, PRESUMED): Set Endpoint ID and Get Endpoint ID; others are not supported. -/
def State.mctpControl (s : State) (body : List Byte) (via : Via) : State :=
  let cmd := body.headD 0
  let eid (s : State) : Byte := BitVec.ofNat 8 (s.get Reg.MGT_SMB_STATUS.EID)
  if cmd = 1 then
    let s := s.put Reg.MGT_SMB_STATUS.EID ((body[2]?).getD 0).toNat
    s.send (.mctp 0 [1, 0, 0, eid s, 0] via)
  else if cmd = 2 then s.send (.mctp 0 [2, 0, eid s, 0, 0] via)
  else s.send (.mctp 0 [cmd, 5] via)

/-- The sensors of PLDM Type 2, under numbers of the model's own (log entry 48). -/
def State.pldmSensor (s : State) (id : Nat) : Option Nat :=
  match id with
  | 0 => some (s.get Reg.TEL_VIN.MV)
  | 1 => some (s.get Reg.TEL_IIN.I)
  | 2 => some (s.get Reg.TEL_PIN.W)
  | 3 => some (s.get Reg.GOV_E.E_MJ)
  | 4 => some (s.get Reg.GOV_BALLAST.LEVEL)
  | 5 => some (s.get Reg.MGT_BOOT_STATUS.STAGE)
  | n => if 256 ≤ n ∧ n < 352 then some (s.get (Reg.TEL_TEMP.TEMP (n - 256))) else none

/-- The order code of a grade, in ASCII. -/
def orderCode (grade : Nat) : List Byte :=
  (if grade = 1 then "GX18-576-B" else "GX15-480-B").toList.map fun c => BitVec.ofNat 8 c.toNat

/-- What the FRU EEPROM holds: the order code, the serial number, the two station addresses (R535; in this order and these widths,
log entry 48). -/
def Fuses.fru (f : Fuses) : List Byte :=
  orderCode f.grade ++ leBytes 8 f.serial.toNat ++ leBytes 6 f.mac0.toNat ++ leBytes 6 f.mac1.toNat

/-- PLDM Type 0 (DSP0240, PRESUMED): SetTID, GetTID and GetPLDMTypes; others are not supported. -/
def State.pldmBase (s : State) (body : List Byte) (via : Via) : State :=
  match ((body[1]?).getD 0).toNat with
  | 1 => (s.modMgmt fun m => { m with tid := ((body[2]?).getD 0).toNat }).send (.mctp 1 [0, 1, 0] via)
  | 2 => s.send (.mctp 1 [0, 2, 0, BitVec.ofNat 8 s.mgmt.tid] via)
  | 4 => s.send (.mctp 1 [0, 4, 0, 0x35, 0, 0, 0, 0, 0, 0, 0] via)
  | n => s.send (.mctp 1 [0, BitVec.ofNat 8 n, 5] via)

/-- PLDM: the base, a sensor, the FRU data. -/
def State.mctpPldm (s : State) (body : List Byte) (via : Via) : State :=
  let t := body.headD 0
  let bad : State := s.send (.mctp 1 [t, 5] via)
  if t = 0 then s.pldmBase body via
  else if t = 2 then
    match s.pldmSensor (leNat ((body.drop 2).take 2)) with
    | some v => s.send (.mctp 1 ([2, 0] ++ leBytes 4 v) via)
    | none => bad
  else if t = 4 then s.send (.mctp 1 ([4, 0] ++ s.fuses.fru) via)
  else bad

/-- SMB_ALERT# (R535). -/
def State.smbAlert (s : State) : Bool := Config.smbAlert (s.rw Reg.GOV_STATUS.addr).toNat (s.rw Reg.FLT_STATUS.addr).toNat

/-- A message reaches the complex: by a VDM while the host link is up, or at its SMBus address (R535, R536). -/
def State.hears (s : State) (via : Via) : Bool :=
  s.mgmt.boluk && (match via with | .vdm => s.pciUp | .smbus a => decide (a = 0x60 + s.fuses.strap))

/-- An MCTP message, or on SMBus an access to the FRU EEPROM, which answers while input power is present. The complex answers while
Boluk runs. -/
def State.mctpOp (s : State) (typ : Nat) (body : List Byte) (via : Via) : State :=
  if via = .smbus (0x50 + s.fuses.strap) then (if s.mgmt.input then s.send (.fru s.fuses.fru) else s)
  else if !s.hears via then s
  else if typ = 0x7E then s.mctpRequest body via
  else if typ = 0 then s.mctpControl body via
  else if typ = 1 then s.mctpPldm body via
  else s

/-- MCTP_MESSAGE. -/
def execMctpMessage (typ : Nat) (body : List Byte) (s : State) (via : Via := .vdm) : Host.Outcome State Fault Refusal :=
  s.answerCtl (s.mctpOp typ body via)

/-- The module's mailbox is busy with an image command of a kind. -/
def State.mbxImage (s : State) (kind : Nat) : Bool :=
  s.mbxBusy 12 && (s.mbxOpcode 12 = 2 || s.mbxOpcode 12 = 3) && s.mbxQuad 12 0 % 256 = kind

/-- A piece of a PLDM firmware update: component 1 is Boluk, component 2 the Eptustan image. The last one commits. -/
def State.pldmOp (s : State) (kind off : Nat) (data : List Byte) (last : Bool) (via : Via) : State :=
  let say (s : State) (c : Byte) : State := s.send (.mctp 1 [5, c] via)
  if !s.hears via then s
  else if !imageWriteOk kind off data.length then say s 2
  else if s.mbxImage kind || (s.mgmt.updKind.isSome && decide (s.mgmt.updKind ≠ some kind)) then say s 4
  else
    let s := (s.slotWrite kind off data).modMgmt fun m => { m with updKind := some kind }
    if last then
      let r := s.commitSlot kind false
      say (r.1.modMgmt fun m => { m with updKind := none }) (if r.2 = 0 then 0 else 5)
    else say s 0

/-- PLDM_FIRMWARE_UPDATE. -/
def execPldmFirmwareUpdate (kind off : Nat) (data : List Byte) (last : Bool) (s : State) (via : Via := .vdm) :
    Host.Outcome State Fault Refusal := s.answerCtl (s.pldmOp kind off data last via)

end Sys2Proof.Machine
end

