-- ==== Sys2Proof/Machine/Overlay.lean ====
section
/-! DEFINITION. Overlay loads (R177 to R182) and what arrives at the lead over the summary tree (R158, R194, R196). -/

namespace Sys2Proof.Machine

/-! ## Overlay loads -/

/-- The loader starts the OVL at the head of its queue in this cycle (R180). -/
def State.overlayStartOp (s : State) (d : Nat) : State :=
  let x := s.dom d
  if s.canRun d x.cyc && s.loadCan d then
    match x.ovq with
    | [] => s
    | o :: q =>
      let n := match s.bankPlace d o.bank with | some (p, b) => s.get (Reg.SEQ_BANK.QUEUED p b) | none => 0
      let s := (s.setBank d o.bank 3).setQueued d o.bank (n - 1)
      let s := s.modDom d fun x =>
        { x with ovq := q, ovLoad := some (o, x.cyc), ovPrev := x.ovPrev.filter fun e => e.1 ≠ o.bank }
      forAll (List.range 8) (fun s i => s.addDue d (x.cyc + i + sliceLat o.slice + 1) (.ovl i)) s
  else s

/-- OVERLAY_LOAD_START. -/
def execOverlayLoadStart (d : Nat) (s : State) : Host.Outcome State Fault Refusal := s.answer (s.overlayStartOp d)

/-- A load completes OVL_LAT cycles after its start (R180): the bank is VALID, or PENDING if it is queued again. -/
def State.overlayDoneOp (s : State) (d : Nat) : State :=
  let x := s.dom d
  match x.ovLoad with
  | none => s
  | some (o, st) =>
    if s.canRun d (st + Config.ovlLat) then
      let again := x.ovq.any fun q => q.bank = o.bank
      let s := s.setBank d o.bank (if again then 2 else 1)
      let s := match s.bankPlace d o.bank with | some (p, b) => s.put (Reg.SEQ_BANK.TAG p b) o.tag | none => s
      s.modDom d fun x => { x with ovLoad := none, ovPrev := if again then x.ovPrev ++ [(o.bank, true)] else x.ovPrev }
    else s

/-- OVERLAY_LOAD_DONE. -/
def execOverlayLoadDone (d : Nat) (s : State) : Host.Outcome State Fault Refusal := s.answerCtl (s.overlayDoneOp d)

/-- Fetch goes on waiting, cycle by cycle, while nothing else of the domain is due (R182). -/
def State.waitFetch (s : State) (d : Nat) : Nat → State
  | 0 => s
  | fuel + 1 =>
    if s.canIssue d then
      if (s.dom d).cyc < (s.dom d).hold then (s.pass d 1).waitFetch d fuel
      else match s.fetch d with
        | .wait b => (s.fetchWait d b).waitFetch d fuel
        | _ => s
    else s

/-- OVERLAY_DEADLOCK: the wait on a bank goes on to its 65,536th cycle, unless something ends or interrupts it first. -/
def execOverlayDeadlock (d : Nat) (s : State) : Host.Outcome State Fault Refusal := s.answer (s.waitFetch d 65536)

/-! ## Summary arrivals -/

/-- One value arrives at the lead. -/
def State.takeSum (s : State) (d t : Nat) (v : SumVal) : State :=
  match v with
  | .z k o a => (s.put (Reg.SEQ_ZSUM.ZOR d k) o).put (Reg.SEQ_ZSUM.ZAND d k) a
  | .q n w wrap =>
    let s := if (s.dom d).lastQ.contains (n, t) then s.put (Reg.SEQ_STATUS.Q_COLLIDE d) 1 else s
    let s := s.ww (Reg.SEQ_Q.addr d n) w
    if wrap then s.put (Reg.VEC_STATUS.Q_WRAP d) 1 else s

/-- The first value due on the summary tree of a domain arrives: combined zk bits before the cycle issues, a VRED combine
after the instruction of its cycle (R189, R194 to R196). -/
def State.summaryOp (s : State) (d : Nat) : State :=
  let x := s.dom d
  match x.sums with
  | [] => s
  | (t, v) :: l =>
    if s.canRun d t && sumReady x then (s.modDom d fun x => { x with sums := l }).takeSum d t v else s

/-- SUMMARY_ARRIVAL. -/
def execSummaryArrival (d : Nat) (s : State) : Host.Outcome State Fault Refusal := s.answerCtl (s.summaryOp d)

end Sys2Proof.Machine
end

