-- ==== Sys2Proof/Machine/Scalar.lean ====
section
/-! DEFINITION. Scalar instructions and the control core's own slice accesses: MOVI, ALU, CMPP, RDF, RDT, RDZ, LDW, LDA, ST
(R219 to R224). -/

namespace Sys2Proof.Machine

/-! ## Values -/

/-- The second operand of ALU and CMPP. -/
def State.srcB (s : State) (d ash : Nat) (w : Quad) : Word :=
  if fld w 31 31 = 1 then sext32 20 (fld w 19 0) else s.src d ash (fld w 29 24)
/-- Registers that ALU and CMPP read. -/
def srcRegs (w : Quad) : List Nat := fld w 37 32 :: if fld w 31 31 = 1 then [] else [fld w 29 24]

/-- The ALU sub-operations. -/
def aluOp (sub : Nat) (a b : Word) : Word :=
  let n := b.toNat % 32
  match sub with
  | 0x0 => a + b
  | 0x1 => a - b
  | 0x2 => a &&& b
  | 0x3 => a ||| b
  | 0x4 => a ^^^ b
  | 0x5 => a <<< n
  | 0x6 => a >>> n
  | 0x7 => a.sshiftRight n
  | 0x8 => a * b
  | 0x9 => if a.slt b then a else b
  | 0xA => if a.slt b then b else a
  | 0xB => if a.ult b then a else b
  | _ => if a.ult b then b else a

/-- The value of an RDF field in an ashlar (R219, R220). -/
def State.rdfValue (s : State) (d ash f : Nat) : Word :=
  let n (x : Nat) : Word := BitVec.ofNat 32 x
  let p := partOf ash
  let reg (a : Nat) : Word := s.rw a
  match f with
  | 0x00 => n ash
  | 0x01 => n (ash / 48)
  | 0x02 => n (ash % 48)
  | 0x03 => n p
  | 0x04 => n (s.rankOf d p)
  | 0x05 => n s.moduleId
  | 0x06 => n ((reg (Reg.SEQ_NUM_FLAGS.addr p (idxOf ash))).toNat % 16)
  | 0x07 => n (s.dom d).cyc
  | 0x08 => n ((s.dom d).course % 2 ^ 32)
  | 0x09 => n ((s.dom d).course / 2 ^ 32 % 2 ^ 16)
  | 0x10 => s.identWord
  | 0x11 => reg Reg.FEAT_TILE.addr
  | 0x12 => reg Reg.FEAT_TILE_SYNC.addr
  | 0x13 => reg Reg.FEAT_MEM.addr
  | 0x14 => reg Reg.FEAT_MEM_LAT.addr
  | 0x15 => reg Reg.FEAT_MEM_SPARE.addr
  | 0x16 => reg Reg.FEAT_ARR.addr
  | 0x17 => reg Reg.FEAT_FMT.addr
  | 0x18 => reg Reg.FEAT_VEC.addr
  | 0x19 => reg Reg.FEAT_SEQ.addr
  | 0x1A => reg Reg.FEAT_CORE.addr
  | 0x1B => reg Reg.FEAT_SEQ_RT.addr
  | 0x1C => reg Reg.FEAT_SRV.addr
  | 0x1D => reg Reg.FEAT_LINK.addr
  | 0x1E => reg Reg.FEAT_SRV2.addr
  | 0x1F => reg Reg.FEAT_STAGE.addr
  | 0x20 => reg Reg.FEAT_MESH.addr
  | 0x21 => reg Reg.FEAT_CLK.addr
  | 0x22 => reg Reg.FEAT_MOR.addr
  | 0x23 => reg Reg.FEAT_MOR2.addr
  | _ => s.identParts

/-! ## Register instructions -/

/-- MOVI in one ashlar. -/
def moviIn (w : Quad) (s : State) (ash : Nat) : State := s.coreSet ash (fld w 43 38) (BitVec.ofNat 32 (fld w 31 0))

/-- MOVI. -/
def execMovi (d : Nat) (s : State) : Host.Outcome State Fault Refusal :=
  s.answer (s.issueOp d 1 0 fun s w _ => .done (s.eachLive d w (moviIn w)) .seq)

/-- ALU in one ashlar. -/
def aluIn (d : Nat) (w : Quad) (s : State) (ash : Nat) : State :=
  s.coreSet ash (fld w 43 38) (aluOp (fld w 47 44) (s.src d ash (fld w 37 32)) (s.srcB d ash w))

/-- ALU. -/
def execAlu (d : Nat) (s : State) : Host.Outcome State Fault Refusal :=
  s.answer (s.issueOp d 1 1 fun s w _ => s.reading d (srcRegs w) fun _ => .done (s.eachLive d w (aluIn d w)) .seq)

/-- CMPP in one ashlar: MODE 0 sets, 1 ANDs, 2 ORs; a write to p0 is discarded. -/
def cmppIn (d : Nat) (w : Quad) (s : State) (ash : Nat) : State :=
  let c := cmpWord (fld w 44 42) (s.src d ash (fld w 37 32)) (s.srcB d ash w)
  let sel := 48 + fld w 47 45
  let p := s.coreGet ash sel != 0
  let r := match fld w 41 40 with | 0 => c | 1 => p && c | _ => p || c
  s.coreSet ash sel (if r then 1 else 0)

/-- CMPP. -/
def execCmpp (d : Nat) (s : State) : Host.Outcome State Fault Refusal :=
  s.answer (s.issueOp d 1 2 fun s w _ => s.reading d (srcRegs w) fun _ => .done (s.eachLive d w (cmppIn d w)) .seq)

/-- RDF in one ashlar; CLR clears the sticky bits that were read. -/
def rdfIn (d : Nat) (w : Quad) (s : State) (ash : Nat) : State :=
  let v := s.rdfValue d ash (fld w 7 0)
  let s := s.coreSet ash (fld w 43 38) v
  if fld w 8 8 = 1 then s.ww (Reg.SEQ_NUM_FLAGS.addr (partOf ash) (idxOf ash)) 0 else s

/-- RDF. -/
def execRdf (d : Nat) (s : State) : Host.Outcome State Fault Refusal :=
  s.answer (s.issueOp d 1 3 fun s w _ => .done (s.eachLive d w (rdfIn d w)) .seq)

/-- RDT in one ashlar: the engine's latest final tally (R127). -/
def rdtIn (w : Quad) (s : State) (ash : Nat) : State :=
  let p := partOf ash
  let i := idxOf ash
  let k := fld w 43 38
  let lo := if fld w 0 0 = 0 then s.rw (Reg.ARR_TALLY_LO.addr p i) else s.rw (Reg.VEC_TALLY_LO.addr p i)
  let hi := if fld w 0 0 = 0 then s.rw (Reg.ARR_TALLY_HI.addr p i) else s.rw (Reg.VEC_TALLY_HI.addr p i)
  (s.coreSet ash k lo).coreSet ash (k + 1) hi

/-- RDT. -/
def execRdt (d : Nat) (s : State) : Host.Outcome State Fault Refusal :=
  s.answer (s.issueOp d 1 4 fun s w _ => .done (s.eachLive d w (rdtIn w)) .seq)

/-- RDZ in one ashlar: it reads zk and clears bits of it. -/
def rdzIn (w : Quad) (s : State) (ash : Nat) : State :=
  let z := 56 + fld w 33 32
  let v := s.coreGet ash z
  (s.coreSet ash (fld w 43 38) v).coreSet ash z (v &&& ~~~ BitVec.ofNat 32 (fld w 15 0))

/-- RDZ (R169): a change of zk leaves for the sequencer (R194). -/
def State.rdzAct (s : State) (d : Nat) (w : Quad) : IssueRes :=
  let s' := s.eachLive d w (rdzIn w)
  let k := fld w 33 32
  if (s.live d s.bulk.core w).any fun a => s.coreGet a (56 + k) != s'.coreGet a (56 + k) then
    .done (s'.zChanged d k (s.dom d).cyc) .seq
  else .done s' .seq

/-- RDZ. -/
def execRdz (d : Nat) (s : State) : Host.Outcome State Fault Refusal :=
  s.answer (s.issueOp d 1 5 fun s w _ => s.rdzAct d w)

/-! ## Slice accesses of the control core (R221 to R224) -/

/-- The address of LDW, LDA and ST (R221). -/
def memAddr (core : SMap Word) (ash : Nat) (w : Quad) : Nat := (coreGet core ash (32 + fld w 37 34) + sext32 24 (fld w 23 0)).toNat
/-- The address is word aligned and below 2^25. -/
def memOk (core : SMap Word) (ash : Nat) (w : Quad) : Bool :=
  let x := memAddr core ash w
  decide (x < 2 ^ 25) && decide (x % 4 = 0)
/-- A bank cycle at least `relC` in every ashlar of the domain (R235). -/
def State.relWait (s : State) (d : Nat) (w : Quad) : Bool :=
  (s.domAsh d).any fun a => decide ((s.dom d).cyc + sliceLat (sliceOf (memAddr s.bulk.core a w)) < (s.dom d).relC)

/-- LDW and LDA in one ashlar (R222, R224): the word read in bank cycle c + L(s) is written at the end of cycle c + 12. -/
def loadIn (d : Nat) (w : Quad) (ia : Nat) (s : State) (ash : Nat) : State :=
  let x := memAddr s.bulk.core ash w
  let c := (s.dom d).cyc
  s.addDue d (c + sliceLat (bitsOf x 24 22) + 1) (.ld ash x (fld w 43 38) ia c)

/-- LDW and LDA: a later reader of the destination waits until issue + 13 in every ashlar. -/
def State.loadAct (s : State) (d : Nat) (w : Quad) (ia : Nat) : IssueRes :=
  s.reading d [32 + fld w 37 34] fun _ =>
    if s.relWait d w then .wait false false
    else s.checked d ia w (fun a => rangeIf (!memOk s.bulk.core a w)) fun _ =>
      let s := s.modDom d fun x => { x with busy := x.busy ++ [(fld w 43 38, x.cyc + 13)] }
      .done (s.eachLive d w (loadIn d w ia)) .seq

/-- LDW. -/
def execLdw (d : Nat) (s : State) : Host.Outcome State Fault Refusal := s.answer (s.issueOp d 2 0 fun s w ia => s.loadAct d w ia)
/-- LDA. -/
def execLda (d : Nat) (s : State) : Host.Outcome State Fault Refusal := s.answer (s.issueOp d 2 1 fun s w ia => s.loadAct d w ia)

/-- ST in one ashlar (R223, R264): copies of the row go now, the word is written in bank cycle c + L(s). -/
def storeIn (d : Nat) (w : Quad) (ia : Nat) (s : State) (ash : Nat) : State :=
  let x := memAddr s.bulk.core ash w
  let v := s.src d ash (fld w 43 38)
  (s.dropRows ash (bitsOf x 24 22) (bitsOf x 21 9)).addDue d ((s.dom d).cyc + sliceLat (bitsOf x 24 22) + 1)
    (.wr 3 ash x (leBytes 4 v.toNat) ia none)

/-- ST. -/
def State.storeAct (s : State) (d : Nat) (w : Quad) (ia : Nat) : IssueRes :=
  s.reading d [32 + fld w 37 34, fld w 43 38] fun _ =>
    if s.relWait d w then .wait false false
    else s.checked d ia w (fun a => rangeIf (!memOk s.bulk.core a w)) fun _ =>
      let lats := (s.domAsh d).map fun a => sliceLat (sliceOf (memAddr s.bulk.core a w))
      let s := s.modDom d fun x => { x with wCore := max x.wCore (x.cyc + maxOf lats) }
      .done (s.eachLive d w (storeIn d w ia)) .seq

/-- ST. -/
def execSt (d : Nat) (s : State) : Host.Outcome State Fault Refusal := s.answer (s.issueOp d 2 2 fun s w ia => s.storeAct d w ia)

end Sys2Proof.Machine
end

