-- ==== Sys2Proof/Machine/Sequencer.lean ====
section
/-! DEFINITION. Sequencer control: the instructions of class 0x0 (R164, R188 to R200, R216 to R218). -/

namespace Sys2Proof.Machine

/-- Issue of a class 0x0 instruction. -/
def State.control (s : State) (d op : Nat) (act : State → Quad → Nat → IssueRes) : Host.Outcome State Fault Refusal :=
  s.answer (s.issueOp d 0 op act)

/-- OPERAND_RANGE raised by the lead. -/
def State.seqRange (s : State) (d ia : Nat) : IssueRes := .done (s.seqHalt d 0x03 ia) .seq

/-- NOP. -/
def execNop (d : Nat) (s : State) : Host.Outcome State Fault Refusal := s.control d 0x00 fun s _ _ => .done s .seq

/-- A loop body keeps to its enclosing level and routine (R191). -/
def Dom.bodyFits (x : Dom) (first last : Nat) : Bool :=
  let base := match x.call with | some c => c.base | none => 0
  (decide (x.loops.length ≤ base) || (match x.loops.getLast? with
      | some l => decide (l.first ≤ first) && decide (last ≤ l.last)
      | none => true))
    && (match x.call with | some c => decide (c.first ≤ first) && decide (last ≤ c.last) | none => true)

/-- LOOP (R189 to R191, R216). -/
def State.loopAct (s : State) (d : Nat) (w : Quad) (ia : Nat) : IssueRes :=
  let x := s.dom d
  let n := if fld w 35 35 = 1 then s.get (Reg.SEQ_Q.VALUE d (fld w 3 0)) else fld w 15 0
  let last := ia + fld w 47 36 + 1
  if n = 0 then .done s (.skip (last + 1))
  else if x.loops.length = 4 then .done (s.seqHalt d 0x04 ia 4) .seq
  else if !x.bodyFits (ia + 1) last then s.seqRange d ia
  else .done (s.modDom d fun x => { x with loops := x.loops ++ [⟨ia + 1, last, n, n⟩] }) .seq

/-- LOOP. -/
def execLoop (d : Nat) (s : State) : Host.Outcome State Fault Refusal :=
  s.control d 0x01 fun s w ia => if fld w 35 35 = 1 then s.sumLook d false (fld w 3 0) ia fun s => s.loopAct d w ia else s.loopAct d w ia

/-- A taken JMP or BRS (R193, R200): the levels whose body does not contain the target are popped, innermost first. -/
def popLoops (base t : Nat) (l : List LoopLevel) : List LoopLevel :=
  l.take base ++ ((l.drop base).reverse.dropWhile fun v => !(decide (v.first ≤ t) && decide (t ≤ v.last))).reverse
def State.jumpTo (s : State) (d ia t : Nat) : IssueRes :=
  match (s.dom d).call with
  | some c =>
    if c.first ≤ t ∧ t ≤ c.last then .done (s.modDom d fun x => { x with loops := popLoops c.base t x.loops }) (.jump t)
    else s.seqRange d ia
  | none => .done (s.modDom d fun x => { x with loops := popLoops 0 t x.loops }) (.jump t)

/-- JMP. -/
def execJmp (d : Nat) (s : State) : Host.Outcome State Fault Refusal := s.control d 0x02 fun s w ia => s.jumpTo d ia (fld w 16 0)

/-- The condition of BRS (R195, R216). -/
def State.brsCond (s : State) (d : Nat) (w : Quad) : Bool :=
  let k := fld w 45 44
  let bit (v : Nat) : Bool := (bitsOf v (fld w 43 40) (fld w 43 40)) = fld w 39 39
  match fld w 47 46 with
  | 0 => bit (s.get (Reg.SEQ_ZSUM.ZOR d k))
  | 1 => bit (s.get (Reg.SEQ_ZSUM.ZAND d k))
  | _ => cmpZero (fld w 38 36) (sgn (s.get (Reg.SEQ_Q.VALUE d (fld w 43 40))))

/-- What a BRS looks at: a bit of zk or the value of qn, and which (R216). -/
def brsOnZ (w : Quad) : Bool := decide (fld w 47 46 < 2)
def brsReads (w : Quad) : Nat := if brsOnZ w then fld w 45 44 else fld w 43 40

/-- BRS. -/
def execBrs (d : Nat) (s : State) : Host.Outcome State Fault Refusal :=
  s.control d 0x03 fun s w ia => s.sumLook d (brsOnZ w) (brsReads w) ia fun s =>
    if s.brsCond d w then s.jumpTo d ia (fld w 16 0) else .done s .seq

/-- Every instruction of a range lies in RESIDENT banks of the domain (R199). -/
def State.resident (s : State) (d first len : Nat) : Bool :=
  (List.range ((first + len - 1) / 512 + 1 - first / 512)).all fun i =>
    match s.bankPlace d (first / 512 + i) with | some (p, b) => s.get (Reg.SEQ_BANK.RESIDENT p b) = 1 | none => false

/-- CALL (R199, R200, R216). -/
def State.callAct (s : State) (d : Nat) (w : Quad) (ia : Nat) : IssueRes :=
  let r := fld w 37 32
  let e := s.get (Reg.SEQ_ROUTINE_LO.ENTRY d r)
  let n := s.get (Reg.SEQ_ROUTINE_LO.LENGTH d r)
  if (s.dom d).call.isSome then s.seqRange d ia
  else if s.get (Reg.SEQ_ROUTINE_LO.VALID d r) = 0 ∨ s.get (Reg.SEQ_ROUTINE_HI.VERSION d r) ≠ fld w 47 40 ∨ n = 0 ∨ 4096 < n
      ∨ s.resident d e n = false then .done (s.seqHalt d 0x05 ia r) .seq
  else .done (s.modDom d fun x => { x with call := some ⟨ia + 1, e, e + n - 1, x.loops.length⟩ }) (.jump e)

/-- CALL. -/
def execCall (d : Nat) (s : State) : Host.Outcome State Fault Refusal := s.control d 0x04 fun s w ia => s.callAct d w ia

/-- ENDC (R186, R187, R200, R216): it waits to retire from this cycle on, which ENDC_RETIRE does. -/
def State.endcOp (s : State) (d : Nat) : State :=
  if s.canIssue d && decide ((s.dom d).hold ≤ (s.dom d).cyc) then
    match s.fetch d with
    | .word w =>
      let ia := (s.dom d).pc
      if clsOf w = 0 ∧ opOf w = 5 ∧ wordFault w = none ∧ (s.dom d).call = none then
        (s.put (Reg.SEQ_PC.PC d) ia).modDom d fun x =>
          { x with
            retire := some (if fld w 47 47 = 1 then some (fld w 16 0) else none)
            fetchWait := 0
            queueStall := false
            bank := some (ia / 512) }
      else s.issueOp d 0 0x05 fun s _ ia => s.seqRange d ia
    | _ => s.issueOp d 0 0x05 fun s _ ia => s.seqRange d ia
  else s.issueOp d 0 0x05 fun s _ ia => s.seqRange d ia

/-- ENDC. -/
def execEndc (d : Nat) (s : State) : Host.Outcome State Fault Refusal := s.answer (s.endcOp d)

/-- OVL (R177 to R181, R216, R217). -/
def State.ovlAct (s : State) (d : Nat) (w : Quad) (ia : Nat) : IssueRes :=
  let bank := fld w 47 40
  let ash := fld w 39 30
  let src := fld w 29 14
  let x := s.dom d
  let at_ (code : Nat) : HaltInfo :=
    { code, pc := some ia, detail := detailAsh ash ((src / 8192) <<< 22 + (src % 8192) <<< 9) (src / 8192) }
  match s.bankPlace d bank with
  | none => .done (s.seqHalt d 0x07 ia bank) .seq
  | some (p, b) =>
    if s.get (Reg.SEQ_BANK.RESIDENT p b) = 1 ∨ 8184 < src % 8192 then s.seqRange d ia
    else if 576 ≤ ash ∨ (s.members d).contains (partOf ash) = false then .done (s.halt d (at_ 0x20)) .seq
    else if s.sliceReady ash (src / 8192) = false then .done (s.halt d (at_ 0x21)) .seq
    else if 4 ≤ x.ovq.length then .wait false false
    else
      let st := s.get (Reg.SEQ_BANK.STATE p b)
      let s := if st < 2 then s.put (Reg.SEQ_BANK.STATE p b) 2 else s
      let s := s.put (Reg.SEQ_BANK.QUEUED p b) (s.get (Reg.SEQ_BANK.QUEUED p b) + 1)
      .done (s.modDom d fun x => { x with
        ovq := x.ovq ++ [{ bank, ash, slice := src / 8192, row := src % 8192, tag := fld w 13 0, issued := x.cyc }]
        ovPrev := if st < 2 then x.ovPrev ++ [(bank, decide (st = 1))] else x.ovPrev }) .seq

/-- OVL. -/
def execOvl (d : Nat) (s : State) : Host.Outcome State Fault Refusal := s.control d 0x06 fun s w ia => s.ovlAct d w ia

/-- Write qn from the instruction stream; a combine that arrives in the same cycle is written after it (R196, R218). -/
def State.setQ (s : State) (d n : Nat) (v : Word) : State := s.ww (Reg.SEQ_Q.addr d n) v

/-- A combine arrives at qn in this cycle: SUMMARY_ARRIVAL then finds a write of the same cycle and sets Q_COLLIDE. -/
def State.noteQ (s : State) (d n : Nat) : State := s.modDom d fun x => { x with lastQ := (n, x.cyc) :: x.lastQ }

/-- SETQ. -/
def execSetq (d : Nat) (s : State) : Host.Outcome State Fault Refusal :=
  s.control d 0x07 fun s w _ => .done ((s.setQ d (fld w 35 32) (BitVec.ofNat 32 (fld w 31 0))).noteQ d (fld w 35 32)) .seq

/-- ADDQ. -/
def execAddq (d : Nat) (s : State) : Host.Outcome State Fault Refusal :=
  s.control d 0x08 fun s w ia => s.sumLook d false (fld w 35 32) ia fun s =>
    let n := fld w 35 32
    .done ((s.setQ d n (s.rw (Reg.SEQ_Q.addr d n) + BitVec.ofNat 32 (fld w 31 0))).noteQ d n) .seq

/-- HALT. -/
def execHalt (d : Nat) (s : State) : Host.Outcome State Fault Refusal :=
  s.control d 0x09 fun s w ia => .done (s.seqHalt d 0x08 ia (fld w 15 0)) .seq

end Sys2Proof.Machine
end

