-- ==== Sys2Proof/Machine/Sync.lean ====
section
/-! DEFINITION. Issue of the transfer instructions XFER, MCAST and STK (R225, R232) and the synchronisation instructions
SEMP, SEMW, WAITC, REL, ACQ and FENCE (R67, R68, R71, R234 to R236). -/

namespace Sys2Proof.Machine

/-! ## Transfer instructions -/

/-- The value of an a-register that a field names. -/
def aField (core : SMap Word) (ash : Nat) (w : Quad) (hi lo : Nat) : Nat := aReg core ash (fld w hi lo)

/-- An ashlar of this module belongs to the domain. -/
def State.inDomain (s : State) (d ash : Nat) : Bool := decide (ash < 576) && (s.members d).contains (partOf ash)

/-- Checks of XFER and MCAST in an ashlar, in order (R225). -/
def State.xferCheck (s : State) (d : Nat) (w : Quad) (ash : Nat) : Option Nat :=
  let core := s.bulk.core
  let n := 64 * xferLen w
  let tgt := aField core ash w 39 36
  if !regionOk (aField core ash w 47 44) n 64 || (!isMcast w && !regionOk (aField core ash w 43 40) n 64) then some 0x03
  else if isMcast w then rangeIf (decide (tgt / 2 ^ 12 ≠ 0))
  else if tgt / 2 ^ 22 ≠ 0 then some 0x03
  else if bitsOf tgt 21 10 = s.moduleId && !s.inDomain d (bitsOf tgt 9 0) then some 0x20
  else none

/-- XFER and MCAST. -/
def State.xferAct (s : State) (d : Nat) (w : Quad) (ia : Nat) : IssueRes :=
  s.reading d ([32 + fld w 47 44, 32 + fld w 39 36] ++ if isMcast w then [] else [32 + fld w 43 40]) fun _ =>
    s.checked d ia w (s.xferCheck d w) (fun _ => s.enqueue d ia w .transfer) fun a => (aField s.bulk.core a w 43 40, 0)

/-- XFER. -/
def execXfer (d : Nat) (s : State) : Host.Outcome State Fault Refusal := s.answer (s.issueOp d 2 3 fun s w ia => s.xferAct d w ia)
/-- MCAST. -/
def execMcast (d : Nat) (s : State) : Host.Outcome State Fault Refusal := s.answer (s.issueOp d 2 4 fun s w ia => s.xferAct d w ia)

/-- Rows of the moraine lie wholly inside a window given in units of 64 KiB (R405, R406). -/
def windowHolds (base size row n : Nat) : Bool := decide (base * 128 ≤ row) && decide (row + n ≤ (base + size) * 128)

/-- The moraine region of an STK lies in a window of its partition (R406). -/
def State.stkWindow (s : State) (p : Nat) (dir1 : Bool) (row n : Nat) : Bool :=
  windowHolds (s.get (Reg.MOR_RW_BASE.BASE p)) (s.get (Reg.MOR_RW_SIZE.SIZE p)) row n
    || (!dir1 && windowHolds (s.get (Reg.MOR_RD_BASE.BASE p)) (s.get (Reg.MOR_RD_SIZE.SIZE p)) row n)

/-- Checks of STK in an ashlar, in order (R225, R232, R406). -/
def State.stkCheck (s : State) (w : Quad) (ash : Nat) : Option Nat :=
  let core := s.bulk.core
  let mor := aField core ash w 43 40
  if !regionOk (aField core ash w 47 44) (512 * stkLen w) 512 || decide (Config.moraineRows ≤ mor) then some 0x03
  else if !s.stkWindow (partOf ash) (fld w 27 27 = 1) mor (stkLen w) then some 0x20
  else none

/-- STK. -/
def State.stkAct (s : State) (d : Nat) (w : Quad) (ia : Nat) : IssueRes :=
  s.reading d [32 + fld w 47 44, 32 + fld w 43 40] fun _ =>
    s.checked d ia w (s.stkCheck w) (fun _ => s.enqueue d ia w .transfer) fun a => (aField s.bulk.core a w 47 44, 0)
def execStk (d : Nat) (s : State) : Host.Outcome State Fault Refusal := s.answer (s.issueOp d 2 5 fun s w ia => s.stkAct d w ia)

/-! ## Semaphores and cairn counters -/

/-- The check of a remote SEMP: its target is an ashlar of the same partition (R234). -/
def sempCheck (core : SMap Word) (w : Quad) (ash : Nat) : Option Nat :=
  let x := aField core ash w 22 19
  if fld w 23 23 = 1 ∧ (x / 2 ^ 10 ≠ 0 ∨ 576 ≤ x % 2 ^ 10 ∨ partOf (x % 2 ^ 10) ≠ partOf ash) then some 0x20 else none

/-- SEMP in one ashlar: a post due in the next cycle, or a control message that arrives M + 1 cycles after issue. -/
def sempIn (d : Nat) (w : Quad) (ia : Nat) (s : State) (ash : Nat) : State :=
  let x := s.dom d
  let sem := fld w 41 37
  let inc := fld w 31 24
  if fld w 23 23 = 0 then s.addDue d (x.cyc + 1) (.post ash sem inc ia)
  else
    let t := aField s.bulk.core ash w 22 19 % 2 ^ 10
    s.modFab fun f => { f with semps := f.semps ++ [{ ash := t, sem, inc, ready := x.wall + ashLat ash t + 1 }] }

/-- SEMP. -/
def State.sempAct (s : State) (d : Nat) (w : Quad) (ia : Nat) : IssueRes :=
  s.reading d (if fld w 23 23 = 1 then [32 + fld w 22 19] else []) fun _ =>
    if (s.dom d).cyc < (s.dom d).relC then .wait false false
    else s.checked d ia w (sempCheck s.bulk.core w) (fun _ => .done (s.eachLive d w (sempIn d w ia)) .seq) fun _ => (0, fld w 41 37)
def execSemp (d : Nat) (s : State) : Host.Outcome State Fault Refusal := s.answer (s.issueOp d 3 0 fun s w ia => s.sempAct d w ia)

/-- An unsatisfied WAITC or SEMW is a freeze cause due now (R34, R68). -/
def State.waitOn (s : State) (d : Nat) (r : FrzRef) : State :=
  s.addFrz d { kind := .wait, ref := r, due := (s.dom d).wall, eff := (s.dom d).cyc + Config.H }

/-- SEMW in one ashlar (R71, R234, R236): satisfied, it takes its count and acquires. -/
def semwIn (d : Nat) (w : Quad) (s : State) (ash : Nat) : State :=
  let n := fld w 41 37
  let k := fld w 31 24
  let slot := Reg.TILE_SEM.VALUE (partOf ash) (idxOf ash) n
  let v := s.get slot
  if k = 0 then s.dropStage ash 7
  else if k ≤ v then
    ((s.put slot (v - k)).semLands ash ((s.dom d).cyc + Config.H)).dropStage ash 7
  else s.waitOn d (.sem ash n k)

/-- SEMW. -/
def execSemw (d : Nat) (s : State) : Host.Outcome State Fault Refusal :=
  s.answer (s.issueOp d 3 1 fun s w _ => .done (s.eachLive d w (semwIn d w)) .seq)

/-- The target of a WAITC in an ashlar. -/
def waitcTarget (core : SMap Word) (w : Quad) (ash : Nat) : Nat :=
  if fld w 39 39 = 1 then sReg core ash (fld w 36 32) else fld w 23 0

/-- WAITC in one ashlar (R67, R68, R234, R236). -/
def waitcIn (d : Nat) (w : Quad) (s : State) (ash : Nat) : State :=
  let n := fld w 45 40
  let t := waitcTarget s.bulk.core w ash
  let slot := Reg.TILE_CAIRN.VALUE (partOf ash) (idxOf ash) n
  let v := s.get slot
  if t = 0 then (s.countLands ash n ((s.dom d).cyc + Config.H)).dropStage ash 7
  else if t ≤ v then
    ((s.put slot (v - t)).countLands ash n ((s.dom d).cyc + Config.H)).dropStage ash 7
  else s.waitOn d (.cairn ash n t)

/-- WAITC. -/
def State.waitcAct (s : State) (d : Nat) (w : Quad) (ia : Nat) : IssueRes :=
  s.reading d (if fld w 39 39 = 1 then [fld w 36 32] else []) fun _ =>
    s.checked d ia w (fun a => rangeIf (decide (2 ^ 24 ≤ waitcTarget s.bulk.core w a))) fun _ =>
      .done (s.eachLive d w (waitcIn d w)) .seq
def execWaitc (d : Nat) (s : State) : Host.Outcome State Fault Refusal := s.answer (s.issueOp d 3 2 fun s w ia => s.waitcAct d w ia)

/-! ## Ordering -/

/-- An ashlar releases further what it has observed of another's release without an ACQ that covers the releaser: the satisfied
wait acquired at tile scope only, which is a SCOPE_MISMATCH (R271, R273, R276). -/
def State.relLook (s : State) (d : Nat) (w : Quad) (ia : Nat) : State :=
  if s.debug then s.eachLive d w fun s a =>
    match s.haz.lands.find? fun l => l.observed a && decide (l.srcAsh ≠ a) with
    | some l => s.hazard 2 a l.addr (some ia) (l.cyc, (s.dom d).cyc)
    | none => s
  else s

/-- REL (R235): of the control core at once, of an engine through its queue. -/
def State.relAct (s : State) (d : Nat) (w : Quad) (ia : Nat) : IssueRes :=
  match fld w 35 34 with
  | 0 =>
    let s := s.eachLive d w fun s a => s.hazReleased a 3
    .done (s.modDom d fun x => { x with relC := if x.wCore = 0 then x.relC else x.wCore + 1 }) .seq
  | 1 => s.enqueue d ia w .array
  | 2 => s.enqueue d ia w .vector
  | _ =>
    let s := s.relLook d w ia
    if s.halted d then .done s .seq else s.enqueue d ia w .transfer
def execRel (d : Nat) (s : State) : Host.Outcome State Fault Refusal := s.answer (s.issueOp d 3 3 fun s w ia => s.relAct d w ia)

/-- The scope of an acquire of an ashlar covers the ashlar or engine that sent a landing (R269). -/
def State.acqCovers (s : State) (scope ash : Nat) (l : HazLand) : Bool :=
  if l.srcMod ≠ s.moduleId then decide (scope = 3)
  else if l.srcAsh < 576 then scopeCovers scope ash l.srcAsh else decide (2 ≤ scope)

/-- What an acquire would order: landings from sources that the ashlar has observed, not ordered yet (R272, R275). -/
def State.acqTakes (s : State) (ash : Nat) (l : HazLand) : Bool :=
  l.ash = ash && l.ok.isEmpty && s.haz.seen.contains (ash, l.srcMod, l.srcAsh)

/-- Such a signal, its release's scope not covering the ashlar. -/
def HazLand.relMiss (l : HazLand) (ash : Nat) : Bool :=
  l.observed ash && (match l.rel with | some r => !scopeCovers r l.srcAsh ash | none => false)

/-- The scope of an acquire covers none of the ashlar or engine whose release's signal has been observed. -/
def State.acqMiss (s : State) (scope ash : Nat) (l : HazLand) : Bool := l.observed ash && !s.acqCovers scope ash l

/-- An acquire's scope does not cover a source that the ashlar synchronises with, or that source's release does not cover the
ashlar: SCOPE_MISMATCH of a debug image (R273). -/
def State.missed (s : State) (ash scope : Nat) : Option HazLand :=
  s.haz.lands.find? fun l =>
    (s.acqTakes ash l && !s.acqCovers scope ash l) || l.relMiss ash || (decide (l.srcAsh ≠ ash) && s.acqMiss scope ash l)
def State.scopeMiss (s : State) (ash scope : Nat) : Bool := s.debug && (s.missed ash scope).isSome

/-- ACQ in one ashlar (R236, R272, R273). A signal whose sender it does not cover stays to be acquired. -/
def acqIn (d : Nat) (w : Quad) (ia : Nat) (s : State) (ash : Nat) : State :=
  let scope := fld w 33 32
  let miss := if s.debug then s.missed ash scope else none
  let hit (l : HazLand) : Bool := s.acqTakes ash l && s.acqCovers scope ash l
  let s := (s.modHaz fun h =>
    let h := h.order ash (fld w 2 0 + 8) ((s.dom d).cyc + 1) false hit
    { h with lands := h.lands.map fun l => if l.ash = ash && !s.acqMiss scope ash l then { l with rel := none } else l }).dropStage
      ash (fld w 2 0)
  match miss with
  | some l => s.hazard 2 ash l.addr (some ia) (l.cyc, (s.dom d).cyc)
  | none => s

/-- ACQ (R236). -/
def execAcq (d : Nat) (s : State) : Host.Outcome State Fault Refusal :=
  s.answer (s.issueOp d 3 4 fun s w ia => .done (s.eachLive d w (acqIn d w ia)) .seq)

/-- Every earlier operation of the engines in a mask has had its last effect; no OVL is queued or loading (R234). -/
def Dom.drained (x : Dom) (mask : Nat) : Bool :=
  (!bitOf mask 0 || (x.aq.isEmpty && decide (x.aEnd ≤ x.cyc)))
    && (!bitOf mask 1 || (x.vq.isEmpty && decide (x.vEnd ≤ x.cyc)))
    && (!bitOf mask 2 || (x.tq.isEmpty && decide (x.tEnd ≤ x.cyc)))
    && (!bitOf mask 3 || (x.ovq.isEmpty && x.ovLoad.isNone))

/-- FENCE. -/
def State.fenceAct (s : State) (d : Nat) (w : Quad) : IssueRes :=
  if (s.dom d).drained (fld w 3 0) then .done s .seq else .wait false true
def execFence (d : Nat) (s : State) : Host.Outcome State Fault Refusal := s.answer (s.issueOp d 3 5 fun s w _ => s.fenceAct d w)

end Sys2Proof.Machine
end

