-- ==== Sys2Proof/Machine/Dispatch.lean ====
section
/-! DEFINITION. The dispatch: one arm per command of the table. -/

namespace Sys2Proof.Machine

/-- The effect of a command on everything but the queue of waiting commands. -/
def exec (i : Instr) (s : State) : Host.Outcome State Fault Refusal :=
  match i with
  | .tick => Sys2Proof.Machine.execTick s
  | .rackSyncEdge stamp => Sys2Proof.Machine.execRackSyncEdge stamp s
  | .tickEnable w v => Sys2Proof.Machine.execTickEnable w v s
  | .tickParamWrite w addr v => Sys2Proof.Machine.execTickParamWrite w addr v s
  | .arm w p withDisarm => Sys2Proof.Machine.execArm w p withDisarm s
  | .disarm w p => Sys2Proof.Machine.execDisarm w p s
  | .pendingWriteApply p => Sys2Proof.Machine.execPendingWriteApply p s
  | .courseStart d => Sys2Proof.Machine.execCourseStart d s
  | .endcRetire d => Sys2Proof.Machine.execEndcRetire d s
  | .freezeEnd d => Sys2Proof.Machine.execFreezeEnd d s
  | .freezeLimitExceeded d => Sys2Proof.Machine.execFreezeLimitExceeded d s
  | .readToClear w addr => Sys2Proof.Machine.execReadToClear w addr s
  | .loLatchRead w addr => Sys2Proof.Machine.execLoLatchRead w addr s
  | .registerWrite w addr v => Sys2Proof.Machine.execRegisterWrite w addr v s
  | .hostPartitionWrite w x => Sys2Proof.Machine.execHostPartitionWrite w x s
  | .pendingQueueAdmit p => Sys2Proof.Machine.execPendingQueueAdmit p s
  | .hostDataWindowRead w ap off len => Sys2Proof.Machine.execHostDataWindowRead w ap off len s
  | .hostDataWindowWrite w ap off data => Sys2Proof.Machine.execHostDataWindowWrite w ap off data s
  | .granuleLand ash slice at_ err ce => Sys2Proof.Machine.execGranuleLand ash slice at_ err s ce
  | .scrubRow ash slice row found at_ => Sys2Proof.Machine.execScrubRow ash slice row found s at_
  | .slicePowerCtrl w ash v => Sys2Proof.Machine.execSlicePowerCtrl w ash v s
  | .sliceReady ash slice => Sys2Proof.Machine.execSliceReady ash slice s
  | .groutRowApply w ash n v => Sys2Proof.Machine.execGroutRowApply w ash n v s
  | .groutBankWrite w ash slice v => Sys2Proof.Machine.execGroutBankWrite w ash slice v s
  | .groutBankCopyEnd ash slice => Sys2Proof.Machine.execGroutBankCopyEnd ash slice s
  | .sempMessageArrival idx at_ => Sys2Proof.Machine.execSempMessageArrival idx at_ s
  | .arrayOpStart d faults => Sys2Proof.Machine.execArrayOpStart d s faults
  | .vectorOpStart d => Sys2Proof.Machine.execVectorOpStart d s
  | .transferOpStart d => Sys2Proof.Machine.execTransferOpStart d s
  | .summaryArrival d => Sys2Proof.Machine.execSummaryArrival d s
  | .mma d => Sys2Proof.Machine.execMma d s
  | .mmw d => Sys2Proof.Machine.execMmw d s
  | .accz d => Sys2Proof.Machine.execAccz d s
  | .win d => Sys2Proof.Machine.execWin d s
  | .chk d => Sys2Proof.Machine.execChk d s
  | .vch d => Sys2Proof.Machine.execVch d s
  | .vred d => Sys2Proof.Machine.execVred d s
  | .vsum d => Sys2Proof.Machine.execVsum d s
  | .cvt d => Sys2Proof.Machine.execCvt d s
  | .mxp d => Sys2Proof.Machine.execMxp d s
  | .mxu d => Sys2Proof.Machine.execMxu d s
  | .rsc d => Sys2Proof.Machine.execRsc d s
  | .smp d => Sys2Proof.Machine.execSmp d s
  | .smpCommit d => Sys2Proof.Machine.execSmpCommit d s
  | .emit d => Sys2Proof.Machine.execEmit d s
  | .emitPresent d => Sys2Proof.Machine.execEmitPresent d s
  | .nop d => Sys2Proof.Machine.execNop d s
  | .loop d => Sys2Proof.Machine.execLoop d s
  | .jmp d => Sys2Proof.Machine.execJmp d s
  | .brs d => Sys2Proof.Machine.execBrs d s
  | .call d => Sys2Proof.Machine.execCall d s
  | .endc d => Sys2Proof.Machine.execEndc d s
  | .ovl d => Sys2Proof.Machine.execOvl d s
  | .setq d => Sys2Proof.Machine.execSetq d s
  | .addq d => Sys2Proof.Machine.execAddq d s
  | .halt d => Sys2Proof.Machine.execHalt d s
  | .movi d => Sys2Proof.Machine.execMovi d s
  | .alu d => Sys2Proof.Machine.execAlu d s
  | .cmpp d => Sys2Proof.Machine.execCmpp d s
  | .rdf d => Sys2Proof.Machine.execRdf d s
  | .rdt d => Sys2Proof.Machine.execRdt d s
  | .rdz d => Sys2Proof.Machine.execRdz d s
  | .ldw d => Sys2Proof.Machine.execLdw d s
  | .lda d => Sys2Proof.Machine.execLda d s
  | .st d => Sys2Proof.Machine.execSt d s
  | .xfer d => Sys2Proof.Machine.execXfer d s
  | .mcast d => Sys2Proof.Machine.execMcast d s
  | .stk d => Sys2Proof.Machine.execStk d s
  | .semp d => Sys2Proof.Machine.execSemp d s
  | .semw d => Sys2Proof.Machine.execSemw d s
  | .waitc d => Sys2Proof.Machine.execWaitc d s
  | .rel d => Sys2Proof.Machine.execRel d s
  | .acq d => Sys2Proof.Machine.execAcq d s
  | .fence d => Sys2Proof.Machine.execFence d s
  | .overlayLoadStart d => Sys2Proof.Machine.execOverlayLoadStart d s
  | .overlayLoadDone d => Sys2Proof.Machine.execOverlayLoadDone d s
  | .overlayDeadlock d => Sys2Proof.Machine.execOverlayDeadlock d s
  | .getReqArrival idx at_ => Sys2Proof.Machine.execGetReqArrival idx at_ s
  | .completionArrival idx at_ => Sys2Proof.Machine.execCompletionArrival idx at_ s
  | .stkRowComplete idx row at_ => Sys2Proof.Machine.execStkRowComplete idx row at_ s
  | .stkDeadline d => Sys2Proof.Machine.execStkDeadline d s
  | .corniceDataHiWrite w p v => Sys2Proof.Machine.execCorniceDataHiWrite w p v s
  | .corniceDataLoRead w p => Sys2Proof.Machine.execCorniceDataLoRead w p s
  | .corniceDataHiRead w p => Sys2Proof.Machine.execCorniceDataHiRead w p s
  | .domainReset w p => Sys2Proof.Machine.execDomainReset w p s
  | .stepRequest w v => Sys2Proof.Machine.execStepRequest w v s
  | .stepChangeApply late => Sys2Proof.Machine.execStepChangeApply s late
  | .plumbCalibration avail margin failed bridge => Sys2Proof.Machine.execPlumbCalibration avail margin failed bridge s
  | .droopStretch ash mv leaf => Sys2Proof.Machine.execDroopStretch ash mv s leaf
  | .stretchEnd ash cycles => Sys2Proof.Machine.execStretchEnd ash cycles s
  | .refQualified phase16 => Sys2Proof.Machine.execRefQualified phase16 s
  | .referenceLost => Sys2Proof.Machine.execReferenceLost s
  | .holdoverLimitExceeded => Sys2Proof.Machine.execHoldoverLimitExceeded s
  | .phaseSlewEnd => Sys2Proof.Machine.execPhaseSlewEnd s
  | .clkGlacierWrite w v => Sys2Proof.Machine.execClkGlacierWrite w v s
  | .ubnPacketReceive port h0 h1 payload crcOk seq vc fecOk => Sys2Proof.Machine.execUbnPacketReceive port h0 h1 payload crcOk s seq vc fecOk
  | .ingressRelease ash at_ => Sys2Proof.Machine.execIngressRelease ash at_ s
  | .egressSend port vc ce => Sys2Proof.Machine.execEgressSend port vc s ce
  | .creditGrantArrival md req rpl => Sys2Proof.Machine.execCreditGrantArrival md req rpl s
  | .resvApply w v => Sys2Proof.Machine.execResvApply w v s
  | .mcCopyRelease idx => Sys2Proof.Machine.execMcCopyRelease idx s
  | .multicastStuck idx => Sys2Proof.Machine.execMulticastStuck idx s
  | .linkAck port seq credits => Sys2Proof.Machine.execLinkAck port seq s credits
  | .linkReplay port seq => Sys2Proof.Machine.execLinkReplay port seq s
  | .replayComplete port counts => Sys2Proof.Machine.execReplayComplete port counts s
  | .linkDown port => Sys2Proof.Machine.execLinkDown port s
  | .linkNarrowed port laneOk => Sys2Proof.Machine.execLinkNarrowed port laneOk s
  | .narrowingDone port => Sys2Proof.Machine.execNarrowingDone port s
  | .linkBerWindow port counts corrected => Sys2Proof.Machine.execLinkBerWindow port counts s corrected
  | .retrain w port v => Sys2Proof.Machine.execRetrain w port v s
  | .portTrained port rtt laneOk => Sys2Proof.Machine.execPortTrained port rtt laneOk s
  | .planCommit w v => Sys2Proof.Machine.execPlanCommit w v s
  | .identityFrame port w0 w1 w2 rest => Sys2Proof.Machine.execIdentityFrame port w0 w1 w2 s rest
  | .identTimeout port => Sys2Proof.Machine.execIdentTimeout port s
  | .plannedLinkMissing port => Sys2Proof.Machine.execPlannedLinkMissing port s
  | .servingBoundary p => Sys2Proof.Machine.execServingBoundary p s
  | .cmdOpen p => Sys2Proof.Machine.execCmdOpen p s
  | .cmdAppend p => Sys2Proof.Machine.execCmdAppend p s
  | .cmdGo p => Sys2Proof.Machine.execCmdGo p s
  | .cmdCancel p => Sys2Proof.Machine.execCmdCancel p s
  | .cmdSet p => Sys2Proof.Machine.execCmdSet p s
  | .cmdClose p => Sys2Proof.Machine.execCmdClose p s
  | .cmdPark p => Sys2Proof.Machine.execCmdPark p s
  | .cmdResume p => Sys2Proof.Machine.execCmdResume p s
  | .cmdDrop p => Sys2Proof.Machine.execCmdDrop p s
  | .cmdAbort p => Sys2Proof.Machine.execCmdAbort p s
  | .cmdTouch p => Sys2Proof.Machine.execCmdTouch p s
  | .badOpcodeCommand p => Sys2Proof.Machine.execBadOpcodeCommand p s
  | .fastCancel w p v => Sys2Proof.Machine.execFastCancel w p v s
  | .srvCtxWrite w p c off v => Sys2Proof.Machine.execSrvCtxWrite w p c off v s
  | .parkCommit slot => Sys2Proof.Machine.execParkCommit slot s
  | .resumeCommit p c => Sys2Proof.Machine.execResumeCommit p c s
  | .resumeDataError p c row => Sys2Proof.Machine.execResumeDataError p c row s
  | .handleExpiry slot => Sys2Proof.Machine.execHandleExpiry slot s
  | .swapGo w p => Sys2Proof.Machine.execSwapGo w p s
  | .swapDone p bad => Sys2Proof.Machine.execSwapDone p bad s
  | .loadSubmit w v => Sys2Proof.Machine.execLoadSubmit w v s
  | .loadComplete port status data => Sys2Proof.Machine.execLoadComplete port status data s
  | .rdmaLoadTimeout port data => Sys2Proof.Machine.execRdmaLoadTimeout port s data
  | .relayPacketArrival idx => Sys2Proof.Machine.execRelayPacketArrival idx s
  | .morChainWrite w addr v => Sys2Proof.Machine.execMorChainWrite w addr v s
  | .refreshShadow stack => Sys2Proof.Machine.execRefreshShadow stack s
  | .moraineReadRetry cls row idx result => Sys2Proof.Machine.execMoraineReadRetry cls row idx result s
  | .morainePatrolScrub row result => Sys2Proof.Machine.execMorainePatrolScrub row result s
  | .moraineStackFailed stack link => Sys2Proof.Machine.execMoraineStackFailed stack s link
  | .getInfo m => Sys2Proof.Machine.execGetInfo m s
  | .imageWrite m => Sys2Proof.Machine.execImageWrite m s
  | .imageCommit m => Sys2Proof.Machine.execImageCommit m s
  | .mbxReset m => Sys2Proof.Machine.execMbxReset m s
  | .partitionLoad m => Sys2Proof.Machine.execPartitionLoad m s
  | .faultRead m => Sys2Proof.Machine.execFaultRead m s
  | .policyGet m => Sys2Proof.Machine.execPolicyGet m s
  | .policySet m => Sys2Proof.Machine.execPolicySet m s
  | .planSet m => Sys2Proof.Machine.execPlanSet m s
  | .mailboxBadOpcode m => Sys2Proof.Machine.execMailboxBadOpcode m s
  | .powerOn mv present => Sys2Proof.Machine.execPowerOn mv present s
  | .powerLoss mv => Sys2Proof.Machine.execPowerLoss s mv
  | .coldReset cause => Sys2Proof.Machine.execColdReset cause s
  | .warmReset cause => Sys2Proof.Machine.execWarmReset cause s
  | .managementReset => Sys2Proof.Machine.execManagementReset s
  | .perstAssert => Sys2Proof.Machine.execPerstAssert s
  | .bootRomVerify => Sys2Proof.Machine.execBootRomVerify s
  | .imageVerify => Sys2Proof.Machine.execImageVerify s
  | .imageApply => Sys2Proof.Machine.execImageApply s
  | .firmwareWatchdog => Sys2Proof.Machine.execFirmwareWatchdog s
  | .governorLoop pLoad => Sys2Proof.Machine.execGovernorLoop pLoad s
  | .throttleClear => Sys2Proof.Machine.execThrottleClear s
  | .telemetrySample mv ma => Sys2Proof.Machine.execTelemetrySample mv ma s
  | .temperatureSample temps margin late => Sys2Proof.Machine.execTemperatureSample temps s margin late
  | .faultLogCopy => Sys2Proof.Machine.execFaultLogCopy s
  | .regrout ash slice => Sys2Proof.Machine.execRegrout ash slice s
  | .recCtrlWrite w v => Sys2Proof.Machine.execRecCtrlWrite w v s
  | .replayEntryApply late => Sys2Proof.Machine.execReplayEntryApply s late
  | .rdmaWrite e rkey addr srcMod srcAsh data => Sys2Proof.Machine.execRdmaWrite e rkey addr srcMod srcAsh data s
  | .streamFrameTransmit e => Sys2Proof.Machine.execStreamFrameTransmit e s
  | .ethFrameReceive e len f an ecn => Sys2Proof.Machine.execEthFrameReceive e len f s an ecn
  | .ptpEventMessage e tx seqId frac => Sys2Proof.Machine.execPtpEventMessage e tx seqId frac s
  | .ptpTsRead w e => Sys2Proof.Machine.execPtpTsRead w e s
  | .ethFlowWrite w f hi v => Sys2Proof.Machine.execEthFlowWrite w f hi v s
  | .mctpMessage typ body via => Sys2Proof.Machine.execMctpMessage typ body s via
  | .pldmFirmwareUpdate kind off data last via => Sys2Proof.Machine.execPldmFirmwareUpdate kind off data last s via
  | .lightReturns port => Sys2Proof.Machine.execLightReturns port s
  | .dieInitEnd => Sys2Proof.Machine.execDieInitEnd s
  | .moraineStackHot stack temp => Sys2Proof.Machine.execMoraineStackHot stack temp s
  | .ethLinkChange e up speed sas => Sys2Proof.Machine.execEthLinkChange e up speed s sas
  | .pciExpressLinkUp rate width flit writes => Sys2Proof.Machine.execPciExpressLinkUp rate width s flit writes
  | .moraineWritePerformed idx => Sys2Proof.Machine.execMoraineWritePerformed idx s

end Sys2Proof.Machine
end

