-- ==== Sys2Proof/Machine/Step.lean ====
section
/-! DEFINITION. One step: the command at the front of the queue, or the passing of one glacier count. -/

namespace Sys2Proof.Machine

/-- The state with a command taken from the front of the queue. -/
def State.withPending (s : State) (q : List Instr) : State := { s with pending := q }

/-- One step of the module. With no command waiting the block idles and one glacier count passes (R312, log entry 1). -/
def step (s : State) : Host.Outcome State Fault Refusal :=
  match s.pending with
  | [] => .next (idleTick s)
  | c :: q => exec c (s.withPending q)

/-- A state with the command that a table word spells put at the front of its queue: no word spells one. -/
def State.withFetchWord (s : State) (nbits w : Nat) : State :=
  match decodeTableWord nbits w with
  | some c => s.withPending (c :: s.pending)
  | none => s

end Sys2Proof.Machine
end

