-- ==== Sys2Proof/Safety.lean ====
section
/-! DEFINITION. What the statements mean by a state in good order, and the conditions and effects that they name. -/

namespace Sys2Proof.Machine

/-! ## Canonical form -/

/-- Every bulk store is in its canonical form. -/
def Bulk.wf (b : Bulk) : Bool :=
  Memory.wf 0 b.scratch && Memory.wf 0 b.upset && Memory.wf 0 b.moraine && Memory.wf 0 b.cornice && Memory.wf 0 b.core
    && Memory.wf 0 b.vreg && Memory.wf 0 b.acc && Memory.wf 0 b.chk && Memory.wf false b.satm && Memory.wf 0 b.window
    && Memory.wf 0 b.rot && Memory.wf [] b.stage

/-- The stores are in canonical form. -/
def State.inv (s : State) : Bool := s.bulk.wf

/-- No value waits to be loaded into the glacier counter, or none can be: TICK_EN is 1 (R317). -/
def State.steady (s : State) : Prop := s.clk.load = none ∨ s.tickEn = true

/-! ## Courses -/

/-- The freeze cycles of the running course that have been counted to a cause (R38). -/
def Dom.frzCount (x : Dom) : FrzKind → Nat
  | .wait => x.fWait
  | .cross => x.fCross
  | .moraine => x.fMor
  | .link => x.fLink
  | .throttle => x.fThr

/-- The freeze cycles of the running course, of every cause (R38). -/
def Dom.frzSum (x : Dom) : Nat := x.fWait + x.fCross + x.fMor + x.fLink + x.fThr

/-- Tokens are for a context that exists (R371). -/
def Held.sinkExists : Held → Bool
  | .tokens _ _ _ tc _ _ => decide (tc < 256)
  | _ => true

/-- The tokens that a domain's partitions hold for release are for contexts that exist (R371, R389). -/
def State.sinksExist (s : State) (d : Nat) : Prop := ∀ p ∈ s.members d, ∀ h ∈ (s.srvAt p).emitBuf, h.sinkExists = true

/-! ## Issue -/

/-- A report of the hazard detector would halt (R498). -/
def State.hazardHalts (s : State) : Bool := s.debug && decide (s.get Reg.DBG_CTRL.HALT_ON_HAZARD = 1)

/-- No report of a summary read too early stops the instruction (R159, R498). -/
def State.sumSafe (s : State) (d : Nat) (z : Bool) (n : Nat) : Bool := !(s.hazardHalts && s.sumRace d z n)

/-- The instruction `w`, of a class and operation, is the one that the lead of domain `d` issues in its next cycle, and no
engine has an effect due by the end of that cycle (R163, R172, R211, R212). -/
def State.issues (s : State) (d : Nat) (w : Quad) (cls op : Nat) : Prop :=
  s.canIssue d = true ∧ (s.dom d).hold ≤ (s.dom d).cyc ∧ s.fetch d = .word w ∧ assigned w = true ∧ clsOf w = cls
    ∧ opOf w = op ∧ wordFault w = none ∧ ∀ a ∈ (s.dom d).due, (s.dom d).cyc + 1 < a.1

/-- An ashlar of the domain whose predicate lets the instruction act (R165). -/
def State.acts (s : State) (d : Nat) (w : Quad) (ash : Nat) : Prop := ash ∈ s.live d s.bulk.core w

/-- One schedule cycle has passed in domain `d`, in which an instruction issued; fetch goes on to `pc`. -/
def issuedTo (s t : State) (d pc : Nat) : Prop :=
  (t.dom d).cyc = (s.dom d).cyc + 1 ∧ (t.dom d).wall = (s.dom d).wall + 1 ∧ (t.dom d).pc = pc
    ∧ t.get (Reg.SEQ_PC.PC d) = (s.dom d).pc % 2 ^ 17

/-- Where fetch goes after an instruction that does not redirect it (R172, R190, R192). -/
def State.pcAfter (s : State) (d : Nat) : Nat := ((s.dom d).advance (s.dom d).pc .seq).pc

/-- One schedule cycle has passed in which nothing issued: the instruction waits. -/
def waited (s t : State) (d : Nat) : Prop :=
  (t.dom d).cyc = (s.dom d).cyc + 1 ∧ (t.dom d).wall = (s.dom d).wall + 1 ∧ (t.dom d).pc = (s.dom d).pc ∧ t.bulk = s.bulk

/-- Two states hold the same registers but for those that a condition on addresses names. -/
def sameRegs (s t : State) (except : Nat → Prop) : Prop := ∀ a, ¬ except a → t.rw a = s.rw a

/-- An instruction has issued that did nothing but take an entry of an engine queue (R201, R202). -/
def tookEntry (s t : State) (d : Nat) (e : Eng) (w : Quad) : Prop :=
  issuedTo s t d (s.pcAfter d)
    ∧ (t.dom d).queue e = (s.dom d).queue e ++ [⟨w, (s.dom d).pc, (s.dom d).cyc, s.bulk.core⟩]
    ∧ (∀ e', e' ≠ e → (t.dom d).queue e' = (s.dom d).queue e')
    ∧ t.bulk = s.bulk ∧ t.fab = s.fab ∧ (∀ d', d' ≠ d → t.dom d' = s.dom d') ∧ sameRegs s t fun a => a = Reg.SEQ_PC.addr d

/-- Compute registers other than the control cores' are the same in two states, and so are the byte stores and the cornice. -/
def sameButCore (s t : State) : Prop := { t.bulk with core := s.bulk.core } = s.bulk

/-- No engine operation will still write a register that an instruction reads. -/
def State.free (s : State) (d : Nat) (regs : List Nat) : Prop := (regs.any fun r => s.regBusy d r) = false

/-- An instruction of an engine, which `c` issues, whose registers are free and whose operands pass in every ashlar it acts in: it
takes an entry of the engine's queue; with the queue full it waits, a cycle at a time, and the stall is counted (R201, R202). -/
def State.takesOrWaits (s : State) (d : Nat) (w : Quad) (cls op : Nat) (e : Eng) (regs : List Nat) (ok : Nat → Bool) (c : Instr) :
    Prop :=
  s.issues d w cls op → s.free d regs → (∀ a, s.acts d w a → ok a = true) →
    (((s.dom d).queue e).length < 32 → ∃ t, exec c s = .next t ∧ tookEntry s t d e w)
    ∧ (32 ≤ ((s.dom d).queue e).length → s.get (Reg.SEQ_STALL_QUEUE.CYCLES d) + 1 < 2 ^ 32 →
        ∃ t, exec c s = .next t ∧ waited s t d ∧ (t.dom d).queue e = (s.dom d).queue e
          ∧ t.get (Reg.SEQ_STALL_QUEUE.CYCLES d) = s.get (Reg.SEQ_STALL_QUEUE.CYCLES d) + 1)

/-- A domain has halted with a fault of this code and SOURCE (R204 to R206). -/
def haltedWith (s t : State) (d code source : Nat) : Prop :=
  t.halted d = true ∧ t.get (Reg.SEQ_HALT_CODE.CODE d) = code ∧ t.get (Reg.SEQ_HALT_CODE.SOURCE d) = source
    ∧ t.running d = false ∧ t.armed d = false ∧ t.bulk.scratch = s.bulk.scratch

/-- The log holds no record that a new one could join (R491, R492). -/
def State.logClear (s : State) : Prop := s.flt.cur = [] ∧ s.flt.firsts = []

/-- One record has been logged, of this code (R489, R492). -/
def loggedOne (s t : State) (code : Nat) : Prop :=
  t.flt.cur.map FRec.code = [code] ∧ t.get Reg.FLT_NEXT_SEQ.SEQ = (s.get Reg.FLT_NEXT_SEQ.SEQ + 1) % 2 ^ 32

end Sys2Proof.Machine
end

