-- ==== Sys2Proof/Certificates/Slice0/Obligations.lean ====
section
/-! DEFINITION. The statements about the block. Each docstring names the rules of the spec that it formalises. -/

open Sys2Proof Sys2Proof.Machine

/-! ## One step -/

/-- A step with a command at the front of the queue is that command's effect, with the rest of the queue still waiting. -/
def Obligations.StepRunsFrontCommand : Prop :=
  ∀ (s : State) (c : Instr) (q : List Instr), s.pending = c :: q → step s = exec c { s with pending := q }

/-- With no command waiting one glacier count passes (the model's choice, log entry 1): the counter adds 1 modulo 2^64, and
but for the check of RACK_SYNC (R17) nothing else changes. A value written to the counter is taken at that count while TICK_EN is
0 (R317); the moments that the state keeps move with it (the model's choice, log entry 103). -/
def Obligations.IdleStepCountsOneGlacier : Prop :=
  ∀ s : State, s.pending = [] →
    (s.steady → ∃ t, step s = .next t ∧ t.clk.glacier = (s.clk.glacier + 1) % 2 ^ 64 ∧ t.clk.load = none
      ∧ { t with clk := s.clk, regs := s.regs } = s
      ∧ { t.clk with glacier := s.clk.glacier, load := s.clk.load, openTicks := s.clk.openTicks } = s.clk
      ∧ sameRegs s t fun a => a = Reg.CLK_SYNC_STATUS.addr ∨ a = Reg.CLK_SYNC_MISS_COUNT.addr)
    ∧ (∀ v, s.clk.load = some v → s.tickEn = false → ∃ t, step s = .next t ∧ t.clk.glacier = v ∧ t.clk.load = none
      ∧ { t with clk := s.clk, regs := s.regs } = { s.shiftTime ((v : Int) - (s.clk.glacier + 1 : Nat)) with clk := s.clk }
      ∧ t.bulk = s.bulk ∧ t.srv = s.srv ∧ t.doms.map (fun x => (x.cyc, x.wall, x.pc)) = s.doms.map (fun x => (x.cyc, x.wall, x.pc))
      ∧ sameRegs s t fun a => a = Reg.CLK_SYNC_STATUS.addr ∨ a = Reg.CLK_SYNC_MISS_COUNT.addr)

/-- A step takes exactly the command at the front of the queue, in the order of arrival, and never changes a fuse. -/
def Obligations.EveryStepConsumesOneCommand : Prop :=
  ∀ (s t : State) (c : Instr) (q : List Instr), s.pending = c :: q → step s = .next t →
    t.pending = q ∧ t.fuses = s.fuses

/-! ## Ticks and courses -/

/-- TICK (R12, R25, R43): at T_k the course number and start are k and T_k; every armed domain whose start course has come
launches its course 4 counts after the tick, or, with a course still running or still to start, owes it: LAG adds 1. One that owes
65,535 courses is disarmed and LAG_LIMIT set (R43). A new overrun episode ends its arming where Boluk's policy says so (R46, R460).
The serving boundary of a partition that is not armed is due at once (R370). The model's own part: a step change that is due and what
a domain has still to run before the tick come first (log entries 4, 65); how Boluk acts by its policies is log entry 73's. -/
def Obligations.TickStartsOrOwesCourses : Prop :=
  (∀ s : State, s.stepWaits = true → exec .tick s = .next s)
  ∧ ∀ s : State, s.ticking = true → s.stepWaits = false → (∀ d < 12, s.behind d s.nextTick = false) → s.clk.nextK < 2 ^ 48 →
    s.nextTick < 2 ^ 64 →
    ∃ t, exec .tick s = .next t ∧ t.courseNum = s.clk.nextK
      ∧ t.get2 Reg.CLK_COURSE_START_LO.START Reg.CLK_COURSE_START_HI.START = s.nextTick
      ∧ t.clk.nextK = (s.clk.nextK + 1) % 2 ^ 48 ∧ t.bulk = s.bulk
      ∧ (∀ d < 12, s.armed d = true → (s.dom d).start ≤ s.clk.nextK → s.running d = false → (s.dom d).launch = none →
          (t.dom d).launch = some (s.nextTick + 4, s.clk.nextK, s.nextTick) ∧ t.armed d = true)
      ∧ (∀ d < 12, s.armed d = true → (s.dom d).start ≤ s.clk.nextK → (s.running d = true ∨ (s.dom d).launch.isSome = true) →
          (s.get (Reg.SEQ_COURSE_STATUS.LAG d) < 65535 →
            (s.running d = false ∨ (s.dom d).episode = true ∨ s.mgmt.boluk = false ∨ s.mgmt.policy.overrun ≠ 1 →
              t.get (Reg.SEQ_COURSE_STATUS.LAG d) = s.get (Reg.SEQ_COURSE_STATUS.LAG d) + 1 ∧ t.armed d = true)
            ∧ (s.running d = true → (s.dom d).episode = false → s.mgmt.boluk = true → s.mgmt.policy.overrun = 1 →
              t.get (Reg.SEQ_COURSE_STATUS.LAG d) = 0 ∧ t.armed d = false ∧ t.running d = true))
          ∧ (s.get (Reg.SEQ_COURSE_STATUS.LAG d) = 65535 →
            t.get (Reg.SEQ_COURSE_STATUS.LAG d) = 0 ∧ t.get (Reg.SEQ_COURSE_STATUS.LAG_LIMIT d) = 1 ∧ t.armed d = false
              ∧ t.running d = s.running d))
      ∧ (∀ d < 12, s.armed d = false → t.dom d = s.dom d
        ∧ t.rw (Reg.SEQ_COURSE_STATUS.addr d) = s.rw (Reg.SEQ_COURSE_STATUS.addr d))
      ∧ (∀ p < 12, s.armed (s.leadOf p) = false → (t.srvAt p).boundary = some s.clk.nextK)

/-- RACK_SYNC_EDGE (R15, R17): the first edge after an aligned enable gives the origin; a later one is compared with the
nearest tick. What LAST_DEVIATION takes is the model's choice where the spec's two places differ (log entry 90). -/
def Obligations.RackSyncEdgeAlignsOrIsChecked : Prop :=
  ∀ (s : State) (stamp : Nat),
    let g : Int := (stamp : Int) + signedOf 16 (s.get Reg.CLK_SYNC_DELAY.DELAY)
    (s.clk.alignPending = true → s.steady → ∃ t, exec (.rackSyncEdge stamp) s = .next t ∧ t.origin = wrapInt 64 g
      ∧ t.get Reg.CLK_SYNC_STATUS.ALIGNED = 1 ∧ t.clk.originSet = true ∧ t.clk.alignPending = false
      ∧ t.clk.nextK = s.originCourse ∧ t.bulk = s.bulk ∧ t.doms = s.doms)
    ∧ (s.clk.alignPending = false → s.ticking = true → s.get Reg.CLK_COURSE_CTRL.SYNC_CHECK_EN = 1 →
      ((s.nearTick g).2 < -2 ∨ 2 < (s.nearTick g).2) → ∃ t, exec (.rackSyncEdge stamp) s = .next t
        ∧ t.get Reg.CLK_SYNC_STATUS.SYNC_DEVIATION = 1
        ∧ t.get Reg.CLK_SYNC_STATUS.LAST_DEVIATION = wrapInt 16 (s.nearTick g).2 ∧ t.origin = s.origin ∧ t.doms = s.doms)
    ∧ (s.clk.alignPending = false → s.ticking = true → s.get Reg.CLK_COURSE_CTRL.SYNC_CHECK_EN = 1 →
      -2 ≤ (s.nearTick g).2 → (s.nearTick g).2 ≤ 2 → ∃ t, exec (.rackSyncEdge stamp) s = .next t
        ∧ t.get Reg.CLK_SYNC_STATUS.SYNC_DEVIATION = s.get Reg.CLK_SYNC_STATUS.SYNC_DEVIATION
        ∧ t.get Reg.CLK_SYNC_STATUS.LAST_DEVIATION = s.get Reg.CLK_SYNC_STATUS.LAST_DEVIATION
        ∧ (s.nearTick g).1 ∉ t.clk.openTicks ∧ (s.clk.nextK ≤ (s.nearTick g).1 → (s.nearTick g).1 ∈ t.clk.edges)
        ∧ t.doms = s.doms)

/-- TICK_ENABLE (R15): a rising TICK_EN takes the origin as firmware wrote it, or waits for RACK_SYNC; clearing it stops the
ticks. That the first tick comes strictly after the count in which TICK_EN rises is the model's choice (log entry 89). -/
def Obligations.TickEnableTakesTheOrigin : Prop :=
  ∀ (s : State) (w : Who) (v : Word), s.postFree w = true → s.hostOpen w Reg.CLK_COURSE_CTRL.addr = true →
    s.mayField w Reg.CLK_COURSE_CTRL.addr .rw = true →
    (s.tickEn = false → bitOf v.toNat 0 = true → bitOf v.toNat 2 = false → ∃ t, exec (.tickEnable w v) s = .next t
      ∧ t.ticking = true ∧ t.clk.nextK = s.firstTick s.now ∧ t.get Reg.CLK_SYNC_STATUS.ALIGNED = 1 ∧ t.bulk = s.bulk
        ∧ t.doms = s.doms)
    ∧ (s.tickEn = false → bitOf v.toNat 0 = true → bitOf v.toNat 2 = true → ∃ t, exec (.tickEnable w v) s = .next t
      ∧ t.tickEn = true ∧ t.ticking = false ∧ t.clk.alignPending = true ∧ t.get Reg.CLK_SYNC_STATUS.ALIGNED = 0 ∧ t.doms = s.doms)
    ∧ (s.tickEn = true → bitOf v.toNat 0 = false → ∃ t, exec (.tickEnable w v) s = .next t
      ∧ t.tickEn = false ∧ t.ticking = false ∧ t.clk.alignPending = false ∧ t.get Reg.CLK_SYNC_STATUS.ALIGNED = 0 ∧ t.doms = s.doms)

/-- TICK_PARAM_WRITE (R13, R14): the period never changes under running ticks nor leaves its range; otherwise the write
takes. -/
def Obligations.TickParametersAreGuarded : Prop :=
  ∀ (s : State) (w : Who) (a : Nat) (v : Word), tickParam a = true → s.postFree w = true → s.hostOpen w a = true →
    s.mayField w a .rw = true →
    (s.tickEn = true → exec (.tickParamWrite w a v) s = .next (s.put Reg.CLK_SYNC_STATUS.PERIOD_REJECT 1))
    ∧ (a = Reg.CLK_COURSE_PERIOD.addr → (v.toNat % 2 ^ 18 < 2000 ∨ 200000 < v.toNat % 2 ^ 18) →
      exec (.tickParamWrite w a v) s = .next (s.put Reg.CLK_SYNC_STATUS.PERIOD_REJECT 1))
    ∧ (s.tickEn = false → a = Reg.CLK_COURSE_PERIOD.addr → 2000 ≤ v.toNat % 2 ^ 18 → v.toNat % 2 ^ 18 ≤ 200000 →
      ∃ t, exec (.tickParamWrite w a v) s = .next t ∧ t.period = v.toNat % 2 ^ 18 ∧ sameRegs s t (fun b => b = a))
    ∧ (s.tickEn = false → a ≠ Reg.CLK_COURSE_PERIOD.addr →
      ∃ t, exec (.tickParamWrite w a v) s = .next t ∧ sameRegs s t (fun b => b = a)
        ∧ (t.rw a).toNat % 2 ^ 16 = v.toNat % 2 ^ 16 ∧ (a ≠ Reg.CLK_ORIGIN_COURSE_HI.addr → t.rw a = v))

/-- ARM and DISARM (R21 to R23, R27): what arming refuses, what it needs, and what it sets; DISARM ends it, and a course that runs
goes on. That ARMED reads 0 at once while that course still runs, and what ARM and DISARM written together do, are the model's
choices (log entries 28, 64). -/
def Obligations.ArmAndDisarm : Prop :=
  ∀ (s : State) (w : Who) (p : Nat), p < 12 → s.postFree w = true → s.hostOpen w (Reg.SEQ_COURSE_CTRL.addr p) = true →
    s.mayField w (Reg.SEQ_COURSE_CTRL.addr p) .wo = true → s.leadOf p = p →
    (∀ h, s.spanBlocked p = false → s.armRefused p = false → s.headerAt p (s.get (Reg.SEQ_ENTRY.ENTRY p)) = some h →
      ∃ t, exec (.arm w p false) s = .next t ∧ t.armed p = true ∧ t.get (Reg.SEQ_COURSE_STATUS.LAG p) = 0
        ∧ t.get (Reg.SEQ_NEXT_ENTRY.ENTRY p) = s.get (Reg.SEQ_ENTRY.ENTRY p) ∧ (t.dom p).start = s.startCourse p
        ∧ (t.dom p).launch = none ∧ (t.dom p).profile = some h.profile ∧ t.running p = s.running p ∧ t.bulk = s.bulk)
    ∧ (s.spanBlocked p = false → s.armRefused p = true →
      exec (.arm w p false) s = .next (s.put (Reg.SEQ_COURSE_STATUS.ARM_REFUSED p) 1))
    ∧ (s.spanBlocked p = false → s.armRefused p = false → s.headerAt p (s.get (Reg.SEQ_ENTRY.ENTRY p)) = none →
      ∃ t, exec (.arm w p false) s = .next t ∧ t.get (Reg.SEQ_COURSE_STATUS.HEADER_INVALID p) = 1 ∧ t.armed p = s.armed p)
    ∧ (s.spanBlocked p = true → ∃ t, exec (.arm w p false) s = .next t ∧ t.get (Reg.SEQ_COURSE_STATUS.ARM_REFUSED p) = 1
        ∧ t.armed p = s.armed p)
    ∧ (∃ t, exec (.arm w p true) s = .next t ∧ t.get (Reg.SEQ_COURSE_STATUS.ARM_REFUSED p) = 1 ∧ t.armed p = false
        ∧ t.running p = s.running p)
    ∧ (s.armed p = true → ∃ t, exec (.disarm w p) s = .next t ∧ t.armed p = false
        ∧ t.get (Reg.SEQ_COURSE_STATUS.LAG p) = 0 ∧ (t.dom p).launch = none ∧ t.running p = s.running p ∧ t.bulk = s.bulk
        ∧ sameRegs s t fun a => a = Reg.SEQ_COURSE_STATUS.addr p)
    ∧ (s.armed p = false → exec (.disarm w p) s = .next s)

/-- COURSE_START and ENDC_RETIRE (R25, R28, R29, R38, R42, R43, R48, R184, R186): a course begins at schedule cycle 0 of its entry,
late if its tick was owed, short of mortar if its budget does not hold its header's cycles; it ends with its counters, in the cycle
of the ENDC that has waited for everything, and the course that is owed then starts 4 counts later. The order of what is due before a
start, and the cycle that SEQ_LAST_SCHED counts last, are the model's choices (log entries 65, 19). -/
def Obligations.CourseStartsAndRetires : Prop :=
  (∀ (s : State) (d g k tickG : Nat) (h : Header), d < 12 → (s.dom d).launch = some (g, k, tickG) → s.armed d = true →
    s.running d = false → s.halted d = false → s.boundaryDone d = true → (s.dom d).followEntry = false →
    s.headerAt d (s.get (Reg.SEQ_NEXT_ENTRY.ENTRY d)) = some h → s.steady →
    ∃ t, exec (.courseStart d) s = .next t ∧ t.running d = true ∧ (t.dom d).cyc = 0
      ∧ (t.dom d).wall = max (s.dom d).wall (s.wallAt d g)
      ∧ (t.dom d).course = k ∧ (t.dom d).startG = g ∧ (t.dom d).pc = s.get (Reg.SEQ_NEXT_ENTRY.ENTRY d)
      ∧ (t.dom d).loops = [] ∧ (t.dom d).call = none ∧ g ≤ t.now
      ∧ (g = tickG + 4 → t.get (Reg.SEQ_LATE_COUNT.COUNT d) = s.get (Reg.SEQ_LATE_COUNT.COUNT d)
          ∧ t.get (Reg.SEQ_COURSE_STATUS.LAG d) = s.get (Reg.SEQ_COURSE_STATUS.LAG d))
      ∧ (g ≠ tickG + 4 → t.get (Reg.SEQ_COURSE_STATUS.LAG d) = s.get (Reg.SEQ_COURSE_STATUS.LAG d) - 1
          ∧ (s.get (Reg.SEQ_LATE_COUNT.COUNT d) + 1 < 2 ^ 32 →
            t.get (Reg.SEQ_LATE_COUNT.COUNT d) = s.get (Reg.SEQ_LATE_COUNT.COUNT d) + 1))
      ∧ (h.sched + h.mortar ≤ s.budget d → t.get (Reg.SEQ_COURSE_STATUS.MORTAR_SHORT d) = s.get (Reg.SEQ_COURSE_STATUS.MORTAR_SHORT d)
          ∧ t.get (Reg.SEQ_MORTAR_SHORT_COUNT.COUNT d) = s.get (Reg.SEQ_MORTAR_SHORT_COUNT.COUNT d))
      ∧ (s.budget d < h.sched + h.mortar → t.get (Reg.SEQ_COURSE_STATUS.MORTAR_SHORT d) = 1
          ∧ (s.get (Reg.SEQ_MORTAR_SHORT_COUNT.COUNT d) + 1 < 2 ^ 32 →
            t.get (Reg.SEQ_MORTAR_SHORT_COUNT.COUNT d) = s.get (Reg.SEQ_MORTAR_SHORT_COUNT.COUNT d) + 1)))
  ∧ (∀ (s : State) (d : Nat), s.atRest d = true → (s.dom d).endDrained = true →
    (s.ticking && decide (s.nextTick < s.glacierOf d ((s.dom d).wall + 1))) = false → (s.dom d).cyc + 1 < 2 ^ 32 → s.steady →
    let x := s.dom d
    let e := s.glacierOf d (x.wall + 1)
    ∃ t, exec (.endcRetire d) s = .next t ∧ t.running d = false ∧ (t.dom d).retire = none
      ∧ t.get (Reg.SEQ_LAST_SCHED.CYCLES d) = x.cyc + 1
      ∧ (x.course < 2 ^ 48 → t.get2 (Reg.SEQ_LAST_COURSE_LO.COURSE d) (Reg.SEQ_LAST_COURSE_HI.COURSE d) = x.course)
      ∧ (x.frzSum < 2 ^ 32 → t.get (Reg.SEQ_LAST_FREEZE.CYCLES d) = x.frzSum ∧ t.get (Reg.SEQ_LAST_FRZ_WAIT.CYCLES d) = x.fWait
          ∧ t.get (Reg.SEQ_LAST_FRZ_CROSS.CYCLES d) = x.fCross ∧ t.get (Reg.SEQ_LAST_FRZ_MORAINE.CYCLES d) = x.fMor
          ∧ t.get (Reg.SEQ_LAST_FRZ_LINK.CYCLES d) = x.fLink ∧ t.get (Reg.SEQ_LAST_FRZ_THROTTLE.CYCLES d) = x.fThr)
      ∧ (e - x.tickG < 2 ^ 31 → t.get (Reg.SEQ_LAST_END.COUNTS d) = e - x.tickG
          ∧ signedOf 32 (t.get (Reg.SEQ_MIN_HEADROOM.COUNTS d))
            = min ((s.period : Int) - (e - x.tickG : Nat)) (signedOf 32 (s.get (Reg.SEQ_MIN_HEADROOM.COUNTS d))))
      ∧ (x.startG - (x.tickG + 4) < 2 ^ 32 → s.sinksExist d →
          t.get (Reg.SEQ_LAST_START_SLIP.COUNTS d) = x.startG - (x.tickG + 4))
      ∧ (x.cyc + 1 = x.sched → t.get (Reg.SEQ_COURSE_STATUS.SCHED_MISMATCH d) = s.get (Reg.SEQ_COURSE_STATUS.SCHED_MISMATCH d))
      ∧ (x.cyc + 1 ≠ x.sched → t.get (Reg.SEQ_COURSE_STATUS.SCHED_MISMATCH d) = 1)
      ∧ (x.course = s.courseNum → t.get (Reg.SEQ_COURSE_STATUS.OVERRUN d) = s.get (Reg.SEQ_COURSE_STATUS.OVERRUN d)
          ∧ t.get (Reg.SEQ_OVERRUN_COUNT.COUNT d) = s.get (Reg.SEQ_OVERRUN_COUNT.COUNT d))
      ∧ (x.course ≠ s.courseNum → t.get (Reg.SEQ_COURSE_STATUS.OVERRUN d) = 1
          ∧ (s.get (Reg.SEQ_OVERRUN_COUNT.COUNT d) + 1 < 2 ^ 32 →
            t.get (Reg.SEQ_OVERRUN_COUNT.COUNT d) = s.get (Reg.SEQ_OVERRUN_COUNT.COUNT d) + 1))
      ∧ t.get (Reg.SEQ_COURSE_STATUS.LAG d) = s.get (Reg.SEQ_COURSE_STATUS.LAG d) ∧ t.armed d = s.armed d
      ∧ (s.armed d = true → 0 < s.get (Reg.SEQ_COURSE_STATUS.LAG d) →
          let k := max x.start ((x.course + 1) % 2 ^ 48)
          (t.dom d).launch = some (e + 4, k, s.tickTime k))
      ∧ (s.armed d = false ∨ s.get (Reg.SEQ_COURSE_STATUS.LAG d) = 0 → (t.dom d).launch = none))

/-- FREEZE_END and FREEZE_LIMIT_EXCEEDED (R35, R37, R38, R40, R48): issue resumes at the cycle that the causes allow; each frozen
cycle is counted to one cause, all of them to a cause that is above every other and clears last, and those since arming to
SEQ_FREEZE_TOTAL. A freeze that outlasts its limit is flagged, recorded in 0xC4 and stays a freeze; it ends the arming where Boluk's
policy says so (R460; how Boluk acts is log entry 73's). -/
def Obligations.FreezesEndAndAreCounted : Prop :=
  (∀ (s : State) (d w : Nat), d < 12 → s.frozen d = true → s.halted d = false → (s.dom d).resume = some w →
    s.arrivals d w = false →
    ∃ t, exec (.freezeEnd d) s = .next t ∧ (t.dom d).wall = w ∧ (t.dom d).cyc = (s.dom d).cyc ∧ t.frozen d = false
      ∧ t.get2 (Reg.SEQ_FREEZE_TOTAL_LO.CYCLES d) (Reg.SEQ_FREEZE_TOTAL_HI.CYCLES d)
          = (s.get2 (Reg.SEQ_FREEZE_TOTAL_LO.CYCLES d) (Reg.SEQ_FREEZE_TOTAL_HI.CYCLES d) + (w - (s.dom d).wall - (s.dom d).preArm)) % 2 ^ 64
      ∧ (w - (s.dom d).wall < 2 ^ 32 →
          t.get (Reg.SEQ_MAX_FREEZE.CYCLES d) = max (w - (s.dom d).wall) (s.get (Reg.SEQ_MAX_FREEZE.CYCLES d)))
      ∧ (t.dom d).frzSum = (s.dom d).frzSum + (w - (s.dom d).wall)
      ∧ (∀ f ∈ (s.dom d).causes, f.eff ≤ (s.dom d).cyc →
          (∀ g ∈ (s.dom d).causes, g.eff ≤ (s.dom d).cyc → g = f ∨ (f.kind.rank < g.kind.rank ∧ g.clr.getD 0 < f.clr.getD 0)) →
          (t.dom d).frzCount f.kind = (s.dom d).frzCount f.kind + (w - (s.dom d).wall)
            ∧ ∀ k, k ≠ f.kind → (t.dom d).frzCount k = (s.dom d).frzCount k)
      ∧ t.bulk = s.bulk ∧ t.running d = true)
  ∧ (∀ (s : State) (d : Nat), d < 12 → s.frozen d = true → s.halted d = false → (s.dom d).freezeLogged = false →
    s.get (Reg.SEQ_FREEZE_LIMIT.LIMIT d) ≠ 0 → (s.dom d).resume = none →
    ∃ t, exec (.freezeLimitExceeded d) s = .next t ∧ t.get (Reg.SEQ_COURSE_STATUS.FREEZE_LIMIT d) = 1
      ∧ (t.dom d).freezeLogged = true ∧ t.frozen d = true ∧ t.bulk = s.bulk ∧ (s.logClear → loggedOne s t 0xC4)
      ∧ (s.mgmt.boluk = false ∨ s.mgmt.policy.freezeLimit ≠ 1 → t.armed d = s.armed d)
      ∧ (s.mgmt.boluk = true → s.mgmt.policy.freezeLimit = 1 → t.armed d = false))

/-! ## Pending writes, the cornice access registers, the domain reset -/

/-- Who may make a pending write of partition `p` now: the management complex, or a host while the module is READY, the
partition is not being reset and no write of the host waits (R282). -/
def openTo (s : State) (w : Who) (p : Nat) : Prop :=
  s.avail p = true ∧ s.postFree w = true ∧ (w = .fw ∨ (s.get Reg.MGT_BOOT_STATUS.STAGE = 6 ∧ s.resetting p = false))

/-- HOST_PARTITION_WRITE, SLICE_POWER_CTRL, GROUT_ROW_APPLY and GROUT_BANK_WRITE under an armed or running domain (R26, R70,
R279, R281): the entry waits at the end of its partition's queue, and nothing else changes. -/
def Obligations.WritesWaitForTheBoundaryWindow : Prop :=
  (∀ (s : State) (w : Who) (a : Nat) (v : Word),
    let p := (addrPart a).getD 0
    openTo s w p → s.mayField w a .rw = true → deferred a = true → s.holdsWrites p = true →
    (s.pendAt p).queue.length < 64 → (s.pendAt p).waiting = [] →
    exec (.hostPartitionWrite w (.reg a v)) s
      = .next (s.setPend p { s.pendAt p with queue := (s.pendAt p).queue ++ [.reg a v] }))
  ∧ (∀ (s : State) (w : Who) (ash n slice : Nat) (v : Word), ash < 576 → n < 256 → slice < 8 →
    let p := partOf ash
    let entry (a : Nat) : State := s.setPend p { s.pendAt p with queue := (s.pendAt p).queue ++ [.reg a v] }
    openTo s w p → s.holdsWrites p = true → (s.pendAt p).queue.length < 64 → (s.pendAt p).waiting = [] →
    (s.mayField w (Reg.TILE_SLICE_PWR.addr p (idxOf ash)) .rw = true →
      exec (.slicePowerCtrl w ash v) s = .next (entry (Reg.TILE_SLICE_PWR.addr p (idxOf ash))))
    ∧ (s.mayField w (Reg.TILE_GROUT_ROW.addr p (idxOf ash) n) .rw = true →
      exec (.groutRowApply w ash n v) s = .next (entry (Reg.TILE_GROUT_ROW.addr p (idxOf ash) n)))
    ∧ (s.mayField w (Reg.TILE_GROUT_BANK.addr p (idxOf ash) slice) .rw = true →
      exec (.groutBankWrite w ash slice v) s = .next (entry (Reg.TILE_GROUT_BANK.addr p (idxOf ash) slice))))
  ∧ (∀ (s : State) (w : Who) (ash addr : Nat) (data : List Byte), openTo s w (partOf ash) →
    pendAllowed w (.scratch ash addr data) = true → data.length ∈ [4, 8, 16, 32, 64] → addr % data.length = 0 →
    s.holdsWrites (partOf ash) = true → (s.pendAt (partOf ash)).queue.length < 64 → (s.pendAt (partOf ash)).waiting = [] →
    exec (.hostPartitionWrite w (.scratch ash addr data)) s = .next (s.setPend (partOf ash)
      { s.pendAt (partOf ash) with queue := (s.pendAt (partOf ash)).queue ++ [.scratch ash addr data] }))
  ∧ (∀ (s : State) (w : Who) (x : PendWhat), openTo s w (pendPart x) → pendAllowed w x = true →
    (match x with | .commit .. => true | _ => false) = true → s.holdsWrites (pendPart x) = true →
    64 ≤ (s.pendAt (pendPart x)).queue.length → pendPart x < 12 →
    ∃ t, exec (.hostPartitionWrite w x) s = .next t ∧ (t.pendAt (pendPart x)).queue = (s.pendAt (pendPart x)).queue
      ∧ (t.pendAt (pendPart x)).waiting = (s.pendAt (pendPart x)).waiting ++ [⟨w, x, s.now⟩] ∧ t.bulk = s.bulk
      ∧ (w ≠ .fw → t.get (Reg.SEQ_PEND_STATUS.HELD (pendPart x)) = 1))

/-- A register that the boundary window applies and whose write changes it alone, in partition `p`: a cairn counter or a
semaphore of a tile (R84), a chain register (R249), or the entry or a q register of a lead's sequencer (R209). -/
def plainInWindow (s : State) (p a : Nat) : Bool :=
  match spaceOf a with
  | (.tile, o) => decide (0x200 ≤ o) && decide (o < 0x400)
  | (.partition, o) => decide (0x1400 ≤ o) || decide (s.leadOf p = p)
  | _ => false

/-- The same writes to a partition that nothing holds (R73, R80, R81, R281, R505): they are applied as they arrive. A host
write to the scratchpad can be read back, and every other byte keeps its value; a row keeps its contents when it is
remapped; a slice that is powered down is not READY; a bank remap waits for its copy. -/
def Obligations.WritesOfAnIdlePartitionApplyAtOnce : Prop :=
  ∀ (s : State) (w : Who) (ash : Nat), ash < 576 →
    let p := partOf ash
    let i := idxOf ash
    openTo s w p → s.holdsWrites p = false → (s.pendAt p).queue = [] → (s.pendAt p).waiting = [] → (s.pendAt p).window = 0 →
    (∀ (addr : Nat) (data : List Byte), pendAllowed w (.scratch ash addr data) = true → data.length ∈ [4, 8, 16, 32, 64] →
      addr % data.length = 0 → addr < 2 ^ 25 → s.sliceReady ash (bitsOf addr 24 22) = true →
      ∃ t, exec (.hostPartitionWrite w (.scratch ash addr data)) s = .next t ∧ t.rdBytes ash addr data.length = data
        ∧ (∀ a' x', x' < 2 ^ 25 → ¬ (a' = ash ∧ addr ≤ x' ∧ x' < addr + data.length) → t.rdByte a' x' = s.rdByte a' x')
        ∧ t.bulk.cornice = s.bulk.cornice ∧ t.bulk.core = s.bulk.core ∧ t.doms = s.doms)
    ∧ (∀ v : Word, s.mayField w (Reg.TILE_SLICE_PWR.addr p i) .rw = true →
      ∃ t, exec (.slicePowerCtrl w ash v) s = .next t ∧ t.get (Reg.TILE_SLICE_PWR.PWR_EN p i) = v.toNat % 256
        ∧ (∀ k < 8, bitOf v.toNat k = false → t.sliceReady ash k = false)
        ∧ (∀ k < 8, bitOf v.toNat k = true → bitOf (s.get (Reg.TILE_SLICE_PWR.PWR_EN p i)) k = true →
            t.sliceReady ash k = s.sliceReady ash k)
        ∧ t.bulk.cornice = s.bulk.cornice ∧ t.bulk.core = s.bulk.core)
    ∧ (∀ (n : Nat) (v : Word), n < 256 → s.mayField w (Reg.TILE_GROUT_ROW.addr p i n) .rw = true → bitOf v.toNat 15 = true →
      ∃ t, exec (.groutRowApply w ash n v) s = .next t ∧ t.get (Reg.TILE_GROUT_ROW.VALID p i n) = 1
        ∧ t.get (Reg.TILE_GROUT_ROW.LOGICAL_ROW p i n) = v.toNat % 8192
        ∧ (s.get (Reg.TILE_GROUT_ROW.VALID p i n) = 0 → ∀ c < 512,
            t.rdByte ash ((n / 32) <<< 22 + (v.toNat % 8192) <<< 9 + c) = s.rdByte ash ((n / 32) <<< 22 + (v.toNat % 8192) <<< 9 + c)))
    ∧ (∀ (slice : Nat) (v : Word), slice < 8 → s.mayField w (Reg.TILE_GROUT_BANK.addr p i slice) .rw = true →
      (bitOf v.toNat 7 = true → ∃ t, exec (.groutBankWrite w ash slice v) s = .next t ∧ (ash, slice, v) ∈ t.mgmt.groutCopy
        ∧ t.rw (Reg.TILE_GROUT_BANK.addr p i slice) = s.rw (Reg.TILE_GROUT_BANK.addr p i slice))
      ∧ (bitOf v.toNat 7 = false → ∃ t, exec (.groutBankWrite w ash slice v) s = .next t
        ∧ t.get (Reg.TILE_GROUT_BANK.VALID p i slice) = 0 ∧ t.get (Reg.TILE_GROUT_BANK.BANK p i slice) = v.toNat % 64))
    ∧ (∀ (a : Nat) (v : Word) (r : RegRow), addrPart a = some p → deferred a = true → findRow a = some r →
      s.mayField w a .rw = true →
      plainInWindow s p a = true →
      ∃ t, exec (.hostPartitionWrite w (.reg a v)) s = .next t ∧ t.rw a = s.afterWrite .fw a r.fields v)
    ∧ (∀ x, ∃ t, exec (.hostPartitionWrite w x) s = .next t ∧ t.fuses = s.fuses ∧ t.pending = s.pending)

/-- PENDING_WRITE_APPLY and PENDING_QUEUE_ADMIT (R26, R280, R282): the boundary window applies the entries it opened with, in
order; a waiting write enters as soon as an entry is free, and its waiting time is counted; while a host write waits, every
later write of the host waits behind it, whatever it goes to, and none is lost. -/
def Obligations.WindowAppliesAndQueueAdmits : Prop :=
  (∀ (s : State) (p : Nat), p < 12 → s.holdsWrites p = true →
    let n := (s.pendAt p).window
    let opened := (s.pendAt p).queue.take n
    ∃ t, exec (.pendingWriteApply p) s = .next t ∧ (t.pendAt p).queue = (s.pendAt p).queue.drop n ∧ (t.pendAt p).window = 0
      ∧ ((∀ x ∈ opened, pendPart x = p ∧ ∀ a v, x = .reg a v → deferred a = true) →
          s.get (Reg.SEQ_PEND_APPLIED.COUNT p) + opened.length < 2 ^ 32 →
          t.get (Reg.SEQ_PEND_APPLIED.COUNT p) = s.get (Reg.SEQ_PEND_APPLIED.COUNT p) + opened.length)
      ∧ (∀ pre x, opened = pre ++ [x] → (∀ y ∈ opened, pendPart y = p) → (∀ y ∈ pre, ∀ a v, y ≠ .reg a v) →
          (∀ ash addr data, x = .scratch ash addr data → data.length ∈ [4, 8, 16, 32, 64] → addr % data.length = 0 → addr < 2 ^ 25 →
            s.sliceReady ash (bitsOf addr 24 22) = true → t.rdBytes ash addr data.length = data)
          ∧ (∀ ia word, x = .commit p ia word → ia < 6144 →
            ¬ (s.get (Reg.SEQ_BANK.RESIDENT p (ia / 512)) = 1 ∧ s.partSealed p = true) → t.cornice p ia = word)
          ∧ (∀ a v, x = .reg a v → deferred a = true → (s.pendAt p).addC = [] → (s.pendAt p).addS = [] →
            plainInWindow s p a = true → ∀ r, findRow a = some r → t.rw a = s.afterWrite .fw a r.fields v)))
  ∧ (∀ (s : State) (p : Nat), p < 12 → s.holdsWrites p = true → (s.pendAt p).window = 0 →
    ∃ t, exec (.pendingWriteApply p) s = .next t ∧ (t.pendAt p).queue = (s.pendAt p).queue ∧ t.bulk = s.bulk ∧ t.doms = s.doms
      ∧ t.regs = s.regs)
  ∧ (∀ (s : State) (p : Nat) (h : HeldWrite) (l : List HeldWrite), p < 12 → s.holdsWrites p = true →
    (s.pendAt p).waiting = h :: l → (s.pendAt p).queue.length < 64 → s.posted = [] →
    s.get (Reg.SEQ_PEND_HOLD.COUNTS p) + (s.now - h.since) < 2 ^ 32 →
    ∃ t, exec (.pendingQueueAdmit p) s = .next t ∧ (t.pendAt p).queue = (s.pendAt p).queue ++ [h.what]
      ∧ (t.pendAt p).waiting.map (·.what) = l.map (·.what)
      ∧ t.get (Reg.SEQ_PEND_HOLD.COUNTS p) = s.get (Reg.SEQ_PEND_HOLD.COUNTS p) + (s.now - h.since) ∧ t.bulk = s.bulk)
  ∧ (∀ (s : State) (w : Who), s.postFree w = false →
    (∀ a v, exec (.registerWrite w a v) s = .next { s with posted := s.posted ++ [(w, .reg a v)] })
    ∧ (∀ x, exec (.hostPartitionWrite w x) s = .next { s with posted := s.posted ++ [(w, .part x)] })
    ∧ (∀ ap off data, exec (.hostDataWindowWrite w ap off data) s = .next { s with posted := s.posted ++ [(w, .window ap off data)] }))

/-- The cornice access registers (R210): a write of the high half commits the two halves at LOCAL_IA, a read of the low half
latches the high half, a read of the high half returns it, and LOCAL_IA moves on when AUTO_INC is 1. -/
def Obligations.CorniceAccessRegisters : Prop :=
  ∀ (s : State) (w : Who) (p : Nat), p < 12 →
    let ia := s.get (Reg.SEQ_CORNICE_ADDR.LOCAL_IA p)
    let next := if s.get (Reg.SEQ_CORNICE_ADDR.AUTO_INC p) = 1 then (ia + 1) % 8192 else ia
    (∀ v : Word, s.hostOpen w (Reg.SEQ_CORNICE_DATA_HI.addr p) = true → s.mayField w (Reg.SEQ_CORNICE_DATA_HI.addr p) .rw = true →
      openTo s w p → pendAllowed w (.commit p ia (v ++ s.rw (Reg.SEQ_CORNICE_DATA_LO.addr p))) = true →
      s.holdsWrites p = false → (s.pendAt p).queue = [] → (s.pendAt p).waiting = [] → (s.pendAt p).window = 0 → ia < 6144 →
      ¬ (s.get (Reg.SEQ_BANK.RESIDENT p (ia / 512)) = 1 ∧ s.partSealed p = true) →
      ∃ t, exec (.corniceDataHiWrite w p v) s = .next t ∧ t.cornice p ia = v ++ s.rw (Reg.SEQ_CORNICE_DATA_LO.addr p)
        ∧ t.get (Reg.SEQ_CORNICE_ADDR.LOCAL_IA p) = next
        ∧ (s.get (Reg.SEQ_BANK.STATE p (ia / 512)) = 0 → t.get (Reg.SEQ_BANK.STATE p (ia / 512)) = 1)
        ∧ (∀ q k, k < 6144 → (q, k / 512) ≠ (p, ia / 512) → t.cornice q k = s.cornice q k)
        ∧ t.bulk.scratch = s.bulk.scratch ∧ t.bulk.core = s.bulk.core)
    ∧ (s.mayRead w (Reg.SEQ_CORNICE_DATA_LO.addr p) = true → ia < 6144 →
      ∃ t, exec (.corniceDataLoRead w p) s = .next t ∧ t.rdata = .word ((s.cornice p ia).extractLsb' 0 32)
        ∧ mapGet 0 t.latches (Reg.SEQ_CORNICE_DATA_HI.addr p) = (s.cornice p ia).extractLsb' 32 32
        ∧ t.regs = s.regs ∧ t.bulk = s.bulk)
    ∧ (s.mayRead w (Reg.SEQ_CORNICE_DATA_HI.addr p) = true → ia < 6144 →
      ∃ t, exec (.corniceDataHiRead w p) s = .next t
        ∧ t.rdata = .word (mapGet 0 s.latches (Reg.SEQ_CORNICE_DATA_HI.addr p))
        ∧ t.get (Reg.SEQ_CORNICE_ADDR.LOCAL_IA p) = next ∧ t.bulk = s.bulk)
    ∧ (s.mayRead w (Reg.SEQ_CORNICE_DATA_HI.addr p) = true → 6144 ≤ ia →
      ∃ t, exec (.corniceDataHiRead w p) s = .next t ∧ t.rdata = .word 0)

/-- DOMAIN_RESET (R207, R548): the queues, loops, routine and overlays go, NEXT_ENTRY follows ENTRY; a non-lead member and an
armed domain discard it; a domain whose course still runs does it at its ENDC; one whose course a difference of timing has made
undefined is defined again. That a running course ends first, and that an undefined domain stands still until here, are the
model's choices (log entries 64, 43). -/
def Obligations.DomainResetEmptiesTheSequencer : Prop :=
  ∀ (s : State) (w : Who) (p : Nat), p < 12 → s.postFree w = true → s.hostOpen w (Reg.SEQ_CTRL.addr p) = true →
    s.mayField w (Reg.SEQ_CTRL.addr p) .wo = true →
    (s.leadOf p = p → s.armed p = false → s.running p = false → ∃ t, exec (.domainReset w p) s = .next t
      ∧ (t.dom p).aq = [] ∧ (t.dom p).vq = [] ∧ (t.dom p).tq = [] ∧ (t.dom p).loops = [] ∧ (t.dom p).call = none
      ∧ (t.dom p).ovq = [] ∧ (t.dom p).ovLoad = none
      ∧ t.get (Reg.SEQ_NEXT_ENTRY.ENTRY p) = s.get (Reg.SEQ_ENTRY.ENTRY p)
      ∧ t.bulk.scratch = s.bulk.scratch ∧ t.bulk.cornice = s.bulk.cornice ∧ t.bulk.core = s.bulk.core)
    ∧ (s.leadOf p ≠ p ∨ s.armed p = true → exec (.domainReset w p) s = .next s)
    ∧ (s.leadOf p = p → s.armed p = false → s.running p = true → (s.dom p).undef = false →
      exec (.domainReset w p) s = .next (s.modDom p fun x => { x with resetDue := true }))
    ∧ (s.leadOf p = p → s.armed p = false → s.running p = true → (s.dom p).undef = true →
      ∃ t, exec (.domainReset w p) s = .next t ∧ (t.dom p).undef = false ∧ t.running p = false ∧ (t.dom p).aq = []
        ∧ (t.dom p).vq = [] ∧ (t.dom p).tq = [] ∧ (t.dom p).due = [])

/-! ## Register reads, register writes, the data windows -/

/-- An address whose read has an effect of its own, beside the RC fields and the latches (R210, R534). -/
def ownRead (a : Nat) : Bool :=
  let p := (addrPart a).getD 0
  decide (a = Reg.SEQ_CORNICE_DATA_LO.addr p) || decide (a = Reg.SEQ_CORNICE_DATA_HI.addr p)
    || decide (a = Reg.ETH_PTP_TS_HI.addr 0) || decide (a = Reg.ETH_PTP_TS_HI.addr 1)

/-- READ_TO_CLEAR and LO_LATCH_READ (R10, R21, R47, R210, R319, R534): a read of any register returns it; an RC field then holds
its reset value, the low half of a latching pair latches the high half, and the read of a latched half returns that and frees
it; nothing else changes. The cornice and time-stamp registers read as R210 and R534 say. What a requester cannot reach reads
zero. That a latch answers whoever reads next, and that any register may be read so, is the model's choice (log entry 39). -/
def Obligations.ReadsClearAndLatch : Prop :=
  ∀ (s : State) (w : Who) (a : Nat) (c : Instr), c = .readToClear w a ∨ c = .loLatchRead w a →
    let b := s.aliasOf a
    (s.mayRead w a = true → ownRead a = false → mapGet? s.latches b = none →
      ∃ t, exec c s = .next t ∧ t.rdata = .word (s.readView b) ∧ t.bulk = s.bulk ∧ t.doms = s.doms
        ∧ sameRegs s t (fun x => x = b) ∧ t.fab = s.fab ∧ t.srv = s.srv ∧ t.ports = s.ports
        ∧ (latchesHi b = true → mapGet? t.latches (b + 4) = some (s.readView (b + 4)))
        ∧ (∀ r f, b ≠ Reg.MOR_LOAD_CMPL.addr → findRow b = some r → (r.fields.filter fun f => f.acc = .rc) = [f] → f.lo ≤ f.hi →
            f.hi < 32 → t.get ⟨b, f.hi, f.lo⟩ = f.reset % 2 ^ (f.hi - f.lo + 1)))
    ∧ (∀ v, s.mayRead w a = true → ownRead a = false → mapGet? s.latches b = some v →
      ∃ t, exec c s = .next t ∧ t.rdata = .word v ∧ mapGet? t.latches b = none ∧ t.regs = s.regs ∧ t.bulk = s.bulk
        ∧ t.doms = s.doms)
    ∧ (∀ p < 12, s.mayRead w a = true →
      (a = Reg.SEQ_CORNICE_DATA_LO.addr p → exec c s = exec (.corniceDataLoRead w p) s)
      ∧ (a = Reg.SEQ_CORNICE_DATA_HI.addr p → exec c s = exec (.corniceDataHiRead w p) s))
    ∧ (∀ e < 2, s.mayRead w a = true → a = Reg.ETH_PTP_TS_HI.addr e → exec c s = exec (.ptpTsRead w e) s)
    ∧ (s.mayRead w a = false → exec c s = .next { s with rdata := .word 0 })
    ∧ (∀ p < 12, a = Reg.SEQ_LATE_COUNT.addr p → s.leadOf p = p → b = a)
    ∧ (a = Reg.CLK_GLACIER_LO.addr → b = a ∧ latchesHi b = true ∧ s.readView b = BitVec.ofNat 32 s.now
        ∧ s.readView (b + 4) = BitVec.ofNat 32 (s.now >>> 32))

/-- An address whose write changes its register alone: not one that the boundary window applies (R84, R209, R249), nor one with
an effect of its own. -/
def plainReg (a : Nat) : Bool :=
  match spaceOf a with
  | (.tile, _) => !deferred a
  | (.partition, o) =>
    !deferred a && !([0x0, 0x108, 0x404, 0x1E18].contains o) && !(decide (0x8000 ≤ o) && decide (o < 0xC000))
      && !(decide (0x10000 ≤ o) && decide (o < 0x13000))
  | (.module, o) =>
    (decide (0x60000 ≤ o) && decide (o < 0x80000) && decide (a ≠ Reg.REC_CTRL.addr))
      || (decide (0x80100 ≤ o) && decide (o < 0x80120)) || (decide (0x202000 ≤ o) && decide (o < 0x210000))
  | (.doorbell, _) => false

/-- REGISTER_WRITE (R10, R442 to R444): every write completes; of a register that has no effect of its own, each field goes by
its access code and nothing else changes: an RW field takes the value, a W1C bit written 1 clears, an RO field keeps its value;
a host write that is not permitted is counted; an RWS field takes the management complex's write only until its seal, and a write
under the seal is logged; a window that is not available discards it. What a write to a register of R21 does at a member that is not
the lead, and one to a register with RWS and other fields, are the model's choices (log entries 91, 121). -/
def Obligations.RegisterWritesGoByAccessCode : Prop :=
  (∀ (s : State) (w : Who) (a : Nat) (v : Word), ∃ t, exec (.registerWrite w a v) s = .next t ∧ t.fuses = s.fuses
    ∧ t.pending = s.pending)
  ∧ (∀ (s : State) (w : Who) (a : Nat) (v : Word) (r : RegRow), s.postFree w = true → plainReg a = true → findRow a = some r →
    s.hostOpen w a = true → s.writeDenied w a = false →
    ((w = .fw ∧ s.sealedAt a = false) ∨ s.writesRws a v = false) →
    ∃ t, exec (.registerWrite w a v) s = .next t ∧ t.rw a = s.afterWrite w a r.fields v ∧ sameRegs s t (fun x => x = a)
      ∧ t.bulk = s.bulk ∧ t.doms = s.doms)
  ∧ (∀ (s : State) (w : Who) (p : Nat) (v : Word), p < 12 → s.postFree w = true →
    s.hostOpen w (Reg.SEQ_FREEZE_LIMIT.addr p) = true →
    s.mayField w (Reg.SEQ_FREEZE_LIMIT.addr p) .rw = true →
    ∃ t, exec (.registerWrite w (Reg.SEQ_FREEZE_LIMIT.addr p) v) s = .next t
      ∧ t.get (Reg.SEQ_FREEZE_LIMIT.LIMIT p) = bitsOf v.toNat (Reg.SEQ_FREEZE_LIMIT.LIMIT p).hi (Reg.SEQ_FREEZE_LIMIT.LIMIT p).lo
      ∧ sameRegs s t (fun a => a = Reg.SEQ_FREEZE_LIMIT.addr p) ∧ t.bulk = s.bulk ∧ t.doms = s.doms)
  ∧ (∀ (s : State) (w : Who) (p : Nat) (v : Word), p < 12 → s.postFree w = true →
    s.hostOpen w (Reg.SEQ_COURSE_STATUS.addr p) = true →
    s.mayField w (Reg.SEQ_COURSE_STATUS.addr p) .w1c = true →
    ∃ t, exec (.registerWrite w (Reg.SEQ_COURSE_STATUS.addr p) v) s = .next t
      ∧ (bitOf v.toNat 4 = true → t.get (Reg.SEQ_COURSE_STATUS.OVERRUN p) = 0)
      ∧ (bitOf v.toNat 4 = false → t.get (Reg.SEQ_COURSE_STATUS.OVERRUN p) = s.get (Reg.SEQ_COURSE_STATUS.OVERRUN p))
      ∧ t.armed p = s.armed p ∧ t.running p = s.running p
      ∧ t.get (Reg.SEQ_COURSE_STATUS.LAG p) = s.get (Reg.SEQ_COURSE_STATUS.LAG p)
      ∧ sameRegs s t (fun a => a = Reg.SEQ_COURSE_STATUS.addr p) ∧ t.bulk = s.bulk)
  ∧ (∀ (s : State) (p : Nat) (v : Word), p < 12 → s.postFree .pf = true → s.hostOpen .pf (Reg.ARR_CTRL.addr p) = true →
    s.get Reg.MGT_HOST_DENIED.COUNT + 1 < 2 ^ 32 →
    ∃ t, exec (.registerWrite .pf (Reg.ARR_CTRL.addr p) v) s = .next t
      ∧ t.get Reg.MGT_HOST_DENIED.COUNT = s.get Reg.MGT_HOST_DENIED.COUNT + 1
        ∧ t.rw (Reg.ARR_CTRL.addr p) = s.rw (Reg.ARR_CTRL.addr p)
      ∧ t.bulk = s.bulk
      ∧ (s.partSealed p = false → sameRegs s t (fun a => a = Reg.MGT_HOST_DENIED.addr) ∧ t.doms = s.doms ∧ t.flt = s.flt)
      ∧ (s.partSealed p = true → s.logClear → loggedOne s t 0x25))
  ∧ (∀ (s : State) (p : Nat) (v : Word), p < 12 → s.hostOpen .fw (Reg.ARR_CTRL.addr p) = true →
    ∃ t, exec (.registerWrite .fw (Reg.ARR_CTRL.addr p) v) s = .next t
      ∧ (s.partSealed p = true → t.rw (Reg.ARR_CTRL.addr p) = s.rw (Reg.ARR_CTRL.addr p) ∧ (s.logClear → loggedOne s t 0x25))
      ∧ (s.partSealed p = false → t.get (Reg.ARR_CTRL.ROW_CHECK_EN p) = v.toNat % 2))
  ∧ (∀ (s : State) (w : Who) (p : Nat) (v : Word), p < 12 → s.postFree w = true → s.avail p = false →
    exec (.registerWrite w (Reg.SEQ_FREEZE_LIMIT.addr p) v) s = .next s)

/-- HOST_DATA_WINDOW_READ and HOST_DATA_WINDOW_WRITE (R449, R450, R451, R526): every read answers a byte for each byte it asks for
within the aperture; one of clean scratchpad words answers their bytes; a write goes to the partition's pending writes, or to
the moraine's; a selector that is not VALID, or names no ashlar, reads as zero and takes nothing; so does a virtual function's that
names another partition's ashlar, which is counted. -/
def Obligations.DataWindows : Prop :=
  ∀ (s : State) (w : Who) (ap off : Nat),
    (∀ n, ∃ t bs po, exec (.hostDataWindowRead w ap off n) s = .next t ∧ t.rdata = .bytes bs po
      ∧ bs.length = min n (4194304 - off) ∧ t.pend = s.pend ∧ t.bulk.scratch = s.bulk.scratch)
    ∧ (∀ ash addr n, s.target w ap off = .scratch ash addr → s.windowOpen w = true → 0 < n → off % 64 + n ≤ 64 → off + n ≤ 4194304 →
      (notOwn w ash = false → s.partAnswers w ash = true → s.sliceReady ash (bitsOf addr 24 22) = true → s.bulk.upset = [] →
        exec (.hostDataWindowRead w ap off n) s = .next { s with rdata := .bytes (s.rdBytes ash addr n) [false] })
      ∧ (notOwn w ash = false → s.partAnswers w ash = false ∨ s.sliceReady ash (bitsOf addr 24 22) = false →
        exec (.hostDataWindowRead w ap off n) s = .next { s with rdata := .bytes (zeros n) [false] })
      ∧ (notOwn w ash = true → ∃ t, exec (.hostDataWindowRead w ap off n) s = .next t ∧ t.rdata = .bytes (zeros n) [false]
          ∧ { t with rdata := s.rdata, regs := s.regs } = s
          ∧ ∀ v, w = .vf v → s.get (Reg.MGT_PART_HOST_DENIED.COUNT v) + 1 < 2 ^ 32 →
            t.get (Reg.MGT_PART_HOST_DENIED.COUNT v) = s.get (Reg.MGT_PART_HOST_DENIED.COUNT v) + 1
              ∧ sameRegs s t fun a => a = Reg.MGT_PART_HOST_DENIED.addr v))
    ∧ (∀ n, s.target w ap off = .nothing → 0 < n → off % 64 + n ≤ 64 → off + n ≤ 4194304 →
      exec (.hostDataWindowRead w ap off n) s = .next { s with rdata := .bytes (zeros n) [false] })
    ∧ (∀ ash addr data, s.target w ap off = .scratch ash addr → openTo s w (partOf ash) → ash < 576 → s.windowOpen w = true →
      notOwn w ash = false → data.length ∈ [4, 8, 16, 32, 64] →
      off % data.length = 0 → addr % data.length = 0 → off + data.length ≤ 4194304 → s.holdsWrites (partOf ash) = true →
      (s.pendAt (partOf ash)).queue.length < 64 → (s.pendAt (partOf ash)).waiting = [] →
      exec (.hostDataWindowWrite w ap off data) s = .next (s.setPend (partOf ash)
        { s.pendAt (partOf ash) with queue := (s.pendAt (partOf ash)).queue ++ [.scratch ash addr data] }))
    ∧ (∀ ash addr data, s.target w ap off = .scratch ash addr → openTo s w (partOf ash) → ash < 576 → s.windowOpen w = true →
      notOwn w ash = false → data.length ∈ [4, 8, 16, 32, 64] →
      off % data.length = 0 → addr % data.length = 0 → off + data.length ≤ 4194304 → s.holdsWrites (partOf ash) = false →
      (s.pendAt (partOf ash)).queue = [] → (s.pendAt (partOf ash)).waiting = [] → addr < 2 ^ 25 →
      s.sliceReady ash (bitsOf addr 24 22) = true →
      ∃ t, exec (.hostDataWindowWrite w ap off data) s = .next t ∧ t.rdBytes ash addr data.length = data)
    ∧ (∀ ash addr data, s.postFree w = true → s.target w ap off = .scratch ash addr → s.windowOpen w = true →
      data ≠ [] → off % 64 + data.length ≤ 64 → off + data.length ≤ 4194304 →
      (notOwn w ash = true → ∃ t, exec (.hostDataWindowWrite w ap off data) s = .next t ∧ { t with regs := s.regs } = s
          ∧ ∀ v, w = .vf v → s.get (Reg.MGT_PART_HOST_DENIED.COUNT v) + 1 < 2 ^ 32 →
            t.get (Reg.MGT_PART_HOST_DENIED.COUNT v) = s.get (Reg.MGT_PART_HOST_DENIED.COUNT v) + 1
              ∧ sameRegs s t fun a => a = Reg.MGT_PART_HOST_DENIED.addr v)
      ∧ (notOwn w ash = false → 576 ≤ ash → exec (.hostDataWindowWrite w ap off data) s = .next s))
    ∧ (∀ data, s.postFree w = true → s.target w ap off = .nothing → data ≠ [] → off % 64 + data.length ≤ 64 →
      off + data.length ≤ 4194304 → exec (.hostDataWindowWrite w ap off data) s = .next s)
    ∧ (∀ a data, s.postFree w = true → s.target w ap off = .moraine a → s.windowOpen w = true →
      s.morWritable w (a / 512) = (true, false) →
      data ≠ [] → off % 64 + data.length ≤ 64 → off + data.length ≤ 4194304 →
      ∃ t, exec (.hostDataWindowWrite w ap off data) s = .next t
        ∧ t.mor.writes = s.mor.writes ++ [{ row := a / 512, off := a % 512, data := data, host := true }]
        ∧ t.bulk = s.bulk)

/-! ## The scratchpad and what arrives -/

/-- GRANULE_LAND (R63, R66, R74, R278, R291, R498): the granule that arrived first, when nothing blocks it, is stored, its
packet's last one adds the increment to the cairn counter, the words that routers have corrected are counted, and every other
byte of the scratchpad keeps its value; a slice that is not READY halts the domain. In a debug image a granule in a row that an
STK or a GET has still to read counts as RACE_WAR (R278, R498). Which of two that come in one cycle is first, and what the detector
follows, are the model's choices (log entries 30, 17). -/
def Obligations.GranulesLand : Prop :=
  ∀ (s : State) (ash slice at_ ce : Nat) (g : Gran), ash < 576 → slice < 8 →
    s.nextGran ash slice = some g → s.canLand g at_ = true → s.get Reg.TILE_MESH_CE_COUNT.COUNT + ce < 2 ^ 32 →
    (s.resetting (partOf ash) = false → s.sliceReady ash slice = true → g.addr % 64 = 0 → g.addr < 2 ^ 25 →
      g.data.length = 64 → g.src ≠ .serving →
      ∃ t, exec (.granuleLand ash slice at_ 0 ce) s = .next t ∧ t.rdBytes ash g.addr 64 = g.data
        ∧ (s.fab.held = [] → t.fab.land = s.fab.land.erase g)
        ∧ t.get Reg.TILE_MESH_CE_COUNT.COUNT = s.get Reg.TILE_MESH_CE_COUNT.COUNT + ce
        ∧ (∀ a' x', x' < 2 ^ 25 → ¬ (a' = ash ∧ g.addr ≤ x' ∧ x' < g.addr + 64) → t.rdByte a' x' = s.rdByte a' x')
        ∧ t.bulk.cornice = s.bulk.cornice ∧ (t.halted (s.domOf ash) = s.halted (s.domOf ash) → t.bulk.core = s.bulk.core)
        ∧ (s.debug = true → s.landRace ash g.addr = true → s.get (Reg.DBG_HAZ_COUNT.COUNT 1) + 1 < 2 ^ 32 →
            t.get (Reg.DBG_HAZ_COUNT.COUNT 1) = s.get (Reg.DBG_HAZ_COUNT.COUNT 1) + 1)
        ∧ (g.final = true → g.inc ≠ 0 →
            let v := s.get (Reg.TILE_CAIRN.VALUE (partOf ash) (idxOf ash) g.cairn) + g.inc
            v + s.takenIn true (ash * 64 + g.cairn) (at_ + 1) ≤ 0xFFFFFF → g.cairn < 64 →
              nextCairn (s.dom (s.domOf ash)).frz ash g.cairn v = none →
            t.get (Reg.TILE_CAIRN.VALUE (partOf ash) (idxOf ash) g.cairn) = v))
    ∧ (s.resetting (partOf ash) = false → s.sliceReady ash slice = false → s.halted (s.domOf ash) = false → s.domOf ash < 12 →
      ∃ t, exec (.granuleLand ash slice at_ 0 ce) s = .next t ∧ t.halted (s.domOf ash) = true
        ∧ t.get (Reg.SEQ_HALT_CODE.CODE (s.domOf ash)) = 0x21 ∧ t.get (Reg.SEQ_HALT_CODE.SOURCE (s.domOf ash)) = 2
        ∧ t.get (Reg.TILE_STATUS.PWR_ACCESS (partOf ash) (idxOf ash)) = 1 ∧ t.bulk.scratch = s.bulk.scratch)

/-- SCRUB_ROW, SLICE_READY, GROUT_BANK_COPY_END and REGROUT (R65, R73, R76 to R81, R502, R504, R505): in a bank cycle that the
engines leave free, scrubbing corrects a single-bit error of the row that its walk has come to, and counts it, without changing
a byte, and goes on to the next row after INTERVAL cycles; a powered-up slice is READY and cleared; an ended bank copy activates
its entry; Boluk answers a CE_EVENT with a spare row. The order of the walk is the model's choice (log entry 96), and so is that the
command names the words that have been upset (log entry 70). -/
def Obligations.ScrubPowerAndGrout : Prop :=
  ∀ (s : State) (ash slice : Nat), ash < 576 → slice < 8 →
    let p := partOf ash
    let i := idxOf ash
    (∀ row col at_, row < 8192 → col < 64 → s.sliceReady ash slice = true → s.get (Reg.TILE_SCRUB_CTRL.EN p i) = 1 →
      s.bulk.upset = [] →
      s.scrubNext ash = some (slice, row) → s.scrubFree ash slice at_ = true → s.steady →
      s.get (Reg.TILE_ECC_CE_COUNT.COUNT p i) + 1 < 2 ^ 32 →
      ∃ t, exec (.scrubRow ash slice row [(col, false)] at_) s = .next t
        ∧ t.get (Reg.TILE_ECC_CE_COUNT.COUNT p i) = s.get (Reg.TILE_ECC_CE_COUNT.COUNT p i) + 1
        ∧ t.upsetAt ash slice row col = 0 ∧ t.bulk.scratch = s.bulk.scratch ∧ t.doms = s.doms
        ∧ mapGet (0, 0) t.scrub ash = (slice * 8192 + row + 1, at_ + s.get (Reg.TILE_SCRUB_CTRL.INTERVAL p i)))
    ∧ (∀ row col at_, row < 8192 → col < 64 → s.sliceReady ash slice = true → s.get (Reg.TILE_SCRUB_CTRL.EN p i) = 1 →
      s.bulk.upset = [] →
      s.scrubNext ash = some (slice, row) → s.scrubFree ash slice at_ = true →
      ∃ t, exec (.scrubRow ash slice row [(col, true)] at_) s = .next t ∧ t.get (Reg.TILE_STATUS.UE p i) = 1
        ∧ t.get (Reg.TILE_ECC_UE_ADDR.ADDR p i) = slice <<< 22 + row <<< 9 + col <<< 3
        ∧ t.upsetAt ash slice row col = 2 ∧ t.bulk.scratch = s.bulk.scratch ∧ ∀ d, t.running d = s.running d)
    ∧ (bitOf (s.get (Reg.TILE_SLICE_PWR.PWR_EN p i)) slice = true → s.sliceReady ash slice = false →
      ∃ t, exec (.sliceReady ash slice) s = .next t ∧ t.sliceReady ash slice = true
        ∧ (∀ x < 4194304, t.rdByte ash (slice <<< 22 + x) = 0)
        ∧ (∀ a' x', x' < 2 ^ 25 → ¬ (a' = ash ∧ x' / 4194304 = slice) → t.rdByte a' x' = s.rdByte a' x')
        ∧ sameRegs s t fun a => a = Reg.TILE_SLICE_PWR.addr p i)
    ∧ (∀ v, s.mgmt.groutCopy = [(ash, slice, v)] → ∃ t, exec (.groutBankCopyEnd ash slice) s = .next t
        ∧ t.get (Reg.TILE_GROUT_BANK.VALID p i slice) = bitsOf v.toNat 7 7
          ∧ t.get (Reg.TILE_GROUT_BANK.BANK p i slice) = v.toNat % 64
        ∧ t.mgmt.groutCopy = [] ∧ t.doms = s.doms)
    ∧ (∀ e j, s.mgmt.boluk = true → s.mgmt.policy.regrout ≠ 0 → s.mgmt.regrouts = [] → s.mgmt.eventsWaiting = [(ash, slice)] →
      s.wornEntry ash slice = some e → s.freeSpare ash slice = some j →
      ∃ t, exec (.regrout ash slice) s = .next t
        ∧ t.mgmt.regrouts = [(ash, slice, s.get (Reg.TILE_CE_LOG.ROW p i e), j, e)]
        ∧ (s.avail p = true → s.holdsWrites p = true → (s.pendAt p).queue.length < 63 → (s.pendAt p).waiting = [] →
            s.spareRow ash slice (s.get (Reg.TILE_CE_LOG.ROW p i e)) = none →
            (t.pendAt p).queue = (s.pendAt p).queue ++ [.reg (Reg.TILE_GROUT_ROW.addr p i (slice * 32 + j))
              (BitVec.ofNat 32 (s.get (Reg.TILE_CE_LOG.ROW p i e) + 2 ^ 15))]))

/-- SEMP_MESSAGE_ARRIVAL, GET_REQ_ARRIVAL and COMPLETION_ARRIVAL (R60, R71, R228, R230, R231, R234, R340, R341): a post is added; a
GET reads its granules in bank cycles in which their banks are free, and then sends its reply; a COMPLETION frees its entry, and a
failed one halts its source's domain. Which entry the reply takes, and what a malformed request gets, are the model's choices (log
entries 94, 34). -/
def Obligations.MessagesArrive : Prop :=
  (∀ (s : State) (i at_ : Nat) (m : SempMsg), s.fab.semps[i]? = some m → m.ready ≤ at_ →
    s.turn (s.domOf m.ash) (at_ - 1) = true →
    let slot := Reg.TILE_SEM.VALUE (partOf m.ash) (idxOf m.ash) m.sem
    m.ash < 576 → m.sem < 32 → s.get slot + m.inc + s.takenIn false (m.ash * 64 + m.sem) at_ ≤ 255 →
    nextSem (s.dom (s.domOf m.ash)).frz m.ash m.sem (s.get slot + m.inc) = none →
    ∃ t, exec (.sempMessageArrival i at_) s = .next t ∧ t.get slot = s.get slot + m.inc
      ∧ t.fab.semps = dropAt s.fab.semps i ∧ sameRegs s t (fun a => a = slot.reg) ∧ t.bulk = s.bulk)
  ∧ (∀ (s : State) (i at_ : Nat) (g : GetReq), s.fab.gets[i]? = some g → g.ready ≤ at_ → g.fits = true →
    s.turn (s.domOf g.ash) at_ = true →
    s.resetting (partOf g.ash) = false → s.readFault g.ash g.addr (64 * g.grans) = none →
    g.replyMod = s.moduleId → s.fab.held = [] → s.fab.land.length + g.grans ≤ 32 →
    let sent (data : List Byte) : Prop := ∃ t, exec (.getReqArrival i at_) s = .next t ∧ t.fab.gets = dropAt s.fab.gets i
      ∧ t.fab.land.length = s.fab.land.length + g.grans
      ∧ (t.fab.land.drop s.fab.land.length).flatMap (·.data) = data
      ∧ (s.debug = false → (∀ e, s.freeEnt g.ash = some e → (t.fab.ents.any fun x => x.ash = g.ash && x.idx = e) = true)
          ∧ (s.freeEnt g.ash = none → t.fab.ents.length = s.fab.ents.length))
      ∧ t.bulk.scratch = s.bulk.scratch ∧ (s.bulk.upset = [] → s.debug = false → t.bulk = s.bulk ∧ t.regs = s.regs)
    let slice := bitsOf g.addr 24 22
    (g.got = [] → g.grans ≤ 8 → s.accesses g.ash slice at_ = [] → loggedAt s.fab.readLog g.ash slice at_ = [] →
      loggedAt s.fab.landLog g.ash slice at_ = [] → (s.dom (s.domOf g.ash)).under = [] →
      sent (s.rdBytes g.ash g.addr (64 * g.grans)))
    ∧ (g.grans ≤ g.got.length → g.bytes.length = 64 * g.grans → sent g.bytes)
    ∧ (s.running (s.domOf g.ash) = true → s.halted (s.domOf g.ash) = false → (s.dom (s.domOf g.ash)).undef = false →
      s.frozen (s.domOf g.ash) = false → (s.dom (s.domOf g.ash)).wall = at_ + 1 → g.got.length < g.grans →
      (∀ n < g.grans, s.readFree g.ash (g.addr + 64 * n) at_ = false) →
      ∃ t, exec (.getReqArrival i at_) s = .next t ∧ t.fab.gets = s.fab.gets ∧ t.fab.land = s.fab.land ∧ t.bulk = s.bulk))
  ∧ (∀ (s : State) (i at_ : Nat) (c : Compl), s.fab.compl[i]? = some c → c.ready ≤ at_ → c.ash < 576 →
    s.turn (s.domOf c.ash) at_ = true → s.servedBy c = none → s.domOf c.ash < 12 →
    (∀ e ∈ s.fab.ents, e.ash = c.ash → e.idx = c.entry → e.stk = false) →
    (s.fab.ents.any fun e => e.ash = c.ash && e.idx = c.entry) = true →
    ∃ t, exec (.completionArrival i at_) s = .next t ∧ t.fab.compl = dropAt s.fab.compl i
      ∧ (c.status = 1 → s.halted (s.domOf c.ash) = false →
          t.get (Reg.SEQ_HALT_CODE.CODE (s.domOf c.ash)) = 0x62 ∧ t.halted (s.domOf c.ash) = true)
      ∧ ((∀ x ∈ s.fab.entq, x.1 ≠ c.ash) →
          (t.fab.ents.any fun e => e.ash = c.ash && e.idx = c.entry) = false))

/-- STK_ROW_COMPLETE and STK_DEADLINE (R63, R232, R233, R410, R413): in the order of the STKs' starts, a row of a load lands,
granule by granule as its banks' write ports are free, and adds 8 to the counter; a row of a store, read in a bank cycle that
the engines leave free, goes to the moraine; a row of a stack in its refresh shadow waits; an STK past its deadline, started or
still in the transfer queue, is a freeze cause and is counted. That a row takes its turn at its stack and in its slice at once, and
lands after the engines' accesses of its cycle, are the model's choices (log entries 119, 30). -/
def Obligations.StreamsOfTheMoraine : Prop :=
  (∀ (s : State) (i row at_ : Nat) (k : StkOp), s.fab.stks[i]? = some k → k.started = true → k.ent.isSome = true → row ∈ k.left →
    s.rowHeld k (k.mor + row) = false → s.inShadow (k.mor + row) 1 = false → s.turn (s.domOf k.ash) at_ = true → k.ash < 576 →
    k.addr % 512 = 0 → k.addr + 512 * row < 2 ^ 25 → k.cairn < 64 →
    let v := s.get (Reg.TILE_CAIRN.VALUE (partOf k.ash) (idxOf k.ash) k.cairn) + 8
    let gs := s.rowGrans k row (k.addr + 512 * row) at_
    v + s.takenIn true (k.ash * 64 + k.cairn) (at_ + 1) ≤ 0xFFFFFF →
    nextCairn (s.dom (s.domOf k.ash)).frz k.ash k.cairn v = none →
    s.sliceReady k.ash (bitsOf (k.addr + 512 * row) 24 22) = true →
    (k.dir = false → s.rowBad (k.mor + row) = false → s.rowWaits k row (k.addr + 512 * row) at_ = false → k.part = [] →
      gs.length = 8 →
      ∃ t, exec (.stkRowComplete i row at_) s = .next t
        ∧ t.rdBytes k.ash (k.addr + 512 * row) 512 = s.morBytes ((k.mor + row) * 512) 512
        ∧ t.get (Reg.TILE_CAIRN.VALUE (partOf k.ash) (idxOf k.ash) k.cairn) = v ∧ t.bulk.moraine = s.bulk.moraine
        ∧ (∀ a' x', x' < 2 ^ 25 → ¬ (a' = k.ash ∧ k.addr + 512 * row ≤ x' ∧ x' < k.addr + 512 * row + 512) →
            t.rdByte a' x' = s.rdByte a' x'))
    ∧ (k.dir = false → s.rowBad (k.mor + row) = false → s.rowWaits k row (k.addr + 512 * row) at_ = false →
      k.part.length + gs.length < 8 →
      ∃ t, exec (.stkRowComplete i row at_) s = .next t
        ∧ (∀ g ∈ gs, t.rdBytes k.ash (k.addr + 512 * row + 64 * g) 64 = s.morBytes ((k.mor + row) * 512 + 64 * g) 64)
        ∧ t.regs = s.regs ∧ t.bulk.moraine = s.bulk.moraine
        ∧ ∀ d, (t.dom d).cyc = (s.dom d).cyc ∧ (t.dom d).wall = (s.dom d).wall ∧ (t.dom d).frz = (s.dom d).frz)
    ∧ (k.dir = true → s.bulk.upset = [] → s.stackFailed (k.mor + row) = false →
      (∀ i < 8, s.readFree k.ash (k.addr + 512 * row + 64 * i) at_ = true) → (s.dom (s.domOf k.ash)).under = [] →
      ∃ t, exec (.stkRowComplete i row at_) s = .next t
        ∧ t.morBytes ((k.mor + row) * 512) 512 = s.rdBytes k.ash (k.addr + 512 * row) 512
        ∧ t.rowBad (k.mor + row) = false
        ∧ t.get (Reg.TILE_CAIRN.VALUE (partOf k.ash) (idxOf k.ash) k.cairn) = v ∧ t.bulk.scratch = s.bulk.scratch
        ∧ (∀ a, ¬ ((k.mor + row) * 512 ≤ a ∧ a < (k.mor + row) * 512 + 512) → t.morByte a = s.morByte a)))
  ∧ (∀ (s : State) (i row at_ : Nat) (k : StkOp), s.fab.stks[i]? = some k → s.inShadow (k.mor + row) 1 = true →
    exec (.stkRowComplete i row at_) s = .next s)
  ∧ (∀ (s : State) (d : Nat) (k : StkOp), d < 12 → s.running d = true → s.halted d = false → s.queuedLate d = [] →
    s.lateStks d = [k] → s.get (Reg.MOR_STK_LATE.COUNT (partOf k.ash)) + 1 < 2 ^ 32 →
    ∃ t, exec (.stkDeadline d) s = .next t
      ∧ t.get (Reg.MOR_STK_LATE.COUNT (partOf k.ash)) = s.get (Reg.MOR_STK_LATE.COUNT (partOf k.ash)) + 1
      ∧ (∃ f ∈ (t.dom d).frz, f.kind = .moraine ∧ f.ref = .stk k.id ∧ f.eff = k.deadline.getD 0 + 24 ∧ f.clr = none)
      ∧ (t.dom d).stkLogged = true ∧ t.bulk = s.bulk)
  ∧ (∀ (s : State) (d a : Nat) (q : QEnt), d < 12 → s.running d = true → s.halted d = false → s.queuedLate d = [(q, a)] →
    s.lateStks d = [] → s.domOf a = d → s.get (Reg.MOR_STK_LATE.COUNT (partOf a)) + 1 < 2 ^ 32 →
    ∃ t, exec (.stkDeadline d) s = .next t
      ∧ t.get (Reg.MOR_STK_LATE.COUNT (partOf a)) = s.get (Reg.MOR_STK_LATE.COUNT (partOf a)) + 1
      ∧ (∃ f ∈ (t.dom d).frz, f.kind = .moraine ∧ f.eff = q.issued + fld q.word 19 0 + 24 ∧ f.clr = none)
      ∧ (∃ k ∈ t.fab.stks, k.ash = a ∧ k.started = false ∧ k.late = true) ∧ t.bulk = s.bulk)

/-! ## Instructions -/

/-- MMA, MMW, ACCZ, WIN and CHK; VCH, VRED, VSUM, CVT, MXP, MXU and RSC; XFER, MCAST, STK, SMP and EMIT (R201, R202, R222, R225,
R232, R240, R241, R244 to R247, R250, R253, R255, R258, R406): an instruction of an engine whose operands pass in every ashlar
it acts in takes one entry of that engine's queue and does nothing else; with the queue full it waits, a cycle at a time, and the
stall is counted. -/
def Obligations.EngineInstructionsTakeAnEntry : Prop :=
  (∀ (s : State) (d : Nat) (w : Quad),
    let ok := fun a => (passOf w).areasOk s.bulk.core a
    s.takesOrWaits d w 4 0 .array (passOf w).reads' ok (.mma d)
    ∧ s.takesOrWaits d w 4 1 .array (passOf w).reads' ok (.mmw d)
    ∧ s.takesOrWaits d w 4 2 .array [] (fun _ => true) (.accz d)
    ∧ s.takesOrWaits d w 4 3 .array [] (fun _ => true) (.win d)
    ∧ s.takesOrWaits d w 4 4 .array [] (fun _ => true) (.chk d))
  ∧ (∀ (s : State) (d : Nat) (w : Quad) (v : VOp), s.vopOf d w = some v →
    let ok := fun a => v.regsOk s.bulk.core a
    s.takesOrWaits d w 5 0 .vector v.reads ok (.vch d)
    ∧ s.takesOrWaits d w 5 1 .vector v.reads ok (.vred d)
    ∧ s.takesOrWaits d w 5 2 .vector v.reads ok (.vsum d)
    ∧ s.takesOrWaits d w 6 0 .vector v.reads ok (.cvt d)
    ∧ s.takesOrWaits d w 6 1 .vector v.reads ok (.mxp d)
    ∧ s.takesOrWaits d w 6 2 .vector v.reads ok (.mxu d)
    ∧ s.takesOrWaits d w 6 3 .vector v.reads ok (.rsc d))
  ∧ (∀ (s : State) (d : Nat) (w : Quad),
    let two := [32 + fld w 47 44, 32 + fld w 39 36]
    s.takesOrWaits d w 2 3 .transfer (two ++ [32 + fld w 43 40]) (fun a => (s.xferCheck d w a).isNone) (.xfer d)
    ∧ s.takesOrWaits d w 2 4 .transfer two (fun a => (s.xferCheck d w a).isNone) (.mcast d)
    ∧ s.takesOrWaits d w 2 5 .transfer [32 + fld w 47 44, 32 + fld w 43 40] (fun a => (s.stkCheck w a).isNone) (.stk d)
    ∧ (s.rankOk d w = true →
      s.takesOrWaits d w 7 1 .vector [fld w 39 35, fld w 34 30, selA (fld w 29 26), selA (fld w 29 26 + 1)]
          (fun a => smpOk w s.bulk.core a) (.smp d)
      ∧ s.takesOrWaits d w 7 0 .transfer (fld w 39 35 :: if fld w 34 34 = 1 then [selA (fld w 33 30)] else [])
          (fun a => emitOk w s.bulk.core a) (.emit d)))

/-- ARRAY_OP_START, VECTOR_OP_START and TRANSFER_OP_START (R95, R146, R201, R226, R548): the head of a queue leaves it and occupies
its engine; an ACCZ and a WIN are then due in every ashlar they act in, an MMA is under way; where an operation's
slice-dependent timing differs between the ashlars of its domain, what the domain does is undefined until its reset (R548): that it
stands still, and nothing else does, is the model's choice (log entry 43); so are the places that the array's cells go wrong in, which
the command brings (log entry 99). -/
def Obligations.EngineStarts : Prop :=
  ((∀ (s : State) (d : Nat) (q : QEnt) (l : List QEnt) (faults : List ArrFault), d < 12 → (s.dom d).aq = q :: l →
    s.canRun d (arrayStart (s.dom d) q) = true →
    ∃ t, exec (.arrayOpStart d faults) s = .next t ∧ (t.dom d).aq = l
      ∧ (t.dom d).aOcc = arrayStart (s.dom d) q + (arrayTiming q.word).1
      ∧ (t.dom d).cyc = (s.dom d).cyc ∧ t.regs = s.regs ∧ t.bulk = s.bulk
      ∧ (clsOf q.word = 4 → opOf q.word = 2 → ∀ a ∈ s.live d q.core q.word,
          (arrayStart (s.dom d) q + 2, DueAct.accz a (fld q.word 43 40) (fld q.word 39 36)) ∈ (t.dom d).due)
      ∧ (clsOf q.word = 4 → opOf q.word = 3 → ∀ a ∈ s.live d q.core q.word,
          (arrayStart (s.dom d) q + 1, DueAct.window a (fld q.word 39 36) (sfld q.word 9 0)) ∈ (t.dom d).due)
      ∧ (clsOf q.word = 4 → opOf q.word = 0 → (passOf q.word).t ≠ 0 → ∀ a ∈ s.live d q.core q.word,
          ∃ r ∈ (t.dom d).runs, r.eng = 0 ∧ r.ash = a ∧ r.q = q ∧ r.st = arrayStart (s.dom d) q))
  ∧ (∀ (s : State) (d : Nat) (q : QEnt) (l : List QEnt) (tm : VStart), d < 12 → (s.dom d).vq = q :: l →
    s.vStart d q = some tm → s.canRun d (vecStart (s.dom d) q tm) = true →
    ∃ t, exec (.vectorOpStart d) s = .next t ∧ (t.dom d).vq = l ∧ (t.dom d).vOcc = vecStart (s.dom d) q tm + tm.occ
      ∧ (t.dom d).aq = (s.dom d).aq ∧ (t.dom d).tq = (s.dom d).tq ∧ t.bulk.scratch = s.bulk.scratch ∧ t.bulk.core = s.bulk.core)
  ∧ (∀ (s : State) (d : Nat) (q : QEnt) (l : List QEnt), d < 12 → (s.dom d).tq = q :: l →
    s.canRun d (transferStart (s.dom d) q) = true → emitTimingOk (s.domAsh d) q = true →
    ∃ t, exec (.transferOpStart d) s = .next t ∧ (t.dom d).tq = l
      ∧ (t.dom d).tOcc = transferStart (s.dom d) q + transferOcc q.word
      ∧ (t.dom d).aq = (s.dom d).aq ∧ (t.dom d).vq = (s.dom d).vq ∧ t.bulk.scratch = s.bulk.scratch
      ∧ (s.debug = false → t.bulk.core = s.bulk.core)))
  ∧ (∀ (s : State) (d : Nat) (q : QEnt) (l : List QEnt),
    ((s.dom d).vq = q :: l → s.vStart d q = none → s.canRun d (max (q.issued + 1) (s.dom d).vOcc) = true →
      exec (.vectorOpStart d) s = .next (s.makeUndef d))
    ∧ ((s.dom d).tq = q :: l → s.canRun d (transferStart (s.dom d) q) = true → emitTimingOk (s.domAsh d) q = false →
      exec (.transferOpStart d) s = .next (s.makeUndef d)))

/-- SUMMARY_ARRIVAL, SMP_COMMIT and EMIT_PRESENT (R158, R194, R196, R256 to R258, R385): the values that reach the lead; the
token that an SMP of one position commits, and the result of one whose context does not sample; the record that an EMIT
presents. When a combined value reaches the lead against the instruction of its cycle is the model's reading (log entry 60). -/
def Obligations.ResultsArrive : Prop :=
  (∀ (s : State) (d t0 k o a : Nat) (l : List (Nat × SumVal)), d < 12 → (s.dom d).sums = (t0, .z k o a) :: l → k < 4 →
    t0 ≤ (s.dom d).cyc → s.canRun d t0 = true →
    ∃ t, exec (.summaryArrival d) s = .next t ∧ t.get (Reg.SEQ_ZSUM.ZOR d k) = o % 2 ^ 16
      ∧ t.get (Reg.SEQ_ZSUM.ZAND d k) = a % 2 ^ 16 ∧ (t.dom d).sums = l ∧ t.bulk = s.bulk
      ∧ sameRegs s t fun x => x = Reg.SEQ_ZSUM.addr d k)
  ∧ (∀ (s : State) (d t0 n : Nat) (v : Word) (wrap : Bool) (l : List (Nat × SumVal)), d < 12 → n < 16 →
    (s.dom d).sums = (t0, .q n v wrap) :: l → t0 < (s.dom d).cyc → s.canRun d t0 = true →
    ∃ t, exec (.summaryArrival d) s = .next t ∧ t.rw (Reg.SEQ_Q.addr d n) = v ∧ (t.dom d).sums = l ∧ t.bulk = s.bulk
      ∧ (wrap = true → t.get (Reg.VEC_STATUS.Q_WRAP d) = 1)
      ∧ ((s.dom d).lastQ.contains (n, t0) = true → t.get (Reg.SEQ_STATUS.Q_COLLIDE d) = 1))
  ∧ (∀ (s : State) (d : Nat) (j : SmpJob), d < 12 → (s.dom d).smps = [j] → (s.dom d).emits = [] → s.canRun d j.due = true →
    j.ctx < 256 → s.rankPart d j.rank < 12 → s.ctxState (s.rankPart d j.rank) j.ctx ≠ 0 →
    s.samples (s.rankPart d j.rank) j.ctx = false → j.dst < 31 →
    ∃ t, exec (.smpCommit d) s = .next t ∧ (t.dom d).smps = [] ∧ t.regs = s.regs ∧ t.srv = s.srv
      ∧ (∀ a ∈ j.ash, t.coreGet a j.dst = 0xFFFFFFFF ∧ t.coreGet a (j.dst + 1) = 256))
  ∧ (∀ (s : State) (d tok : Nat) (j : SmpJob) (z : List (Nat × Word)),
    let p := s.rankPart d j.rank
    d < 12 → (s.dom d).smps = [j] → (s.dom d).emits = [] → s.canRun d j.due = true →
    j.ctx < 256 → p < 12 → s.samples p j.ctx = true → j.dst < 31 → j.logits = [z] →
    sample (s.sampleCfg p j.ctx) (s.ctx p j.ctx).penalty z (s.ctxLen p j.ctx) = some tok →
    ∃ t, exec (.smpCommit d) s = .next t ∧ (t.dom d).smps = [] ∧ t.ctxLen p j.ctx = (s.ctxLen p j.ctx + 1) % 2 ^ 32
      ∧ (∀ a ∈ j.ash, t.coreGet a j.dst = BitVec.ofNat 32 tok ∧ t.coreGet a (j.dst + 1) = 16))
  ∧ (∀ (s : State) (d : Nat) (j : EmitJob), d < 12 → (s.dom d).emits = [j] → (s.dom d).smps = [] → s.canRun d j.due = true →
    j.ctx < 256 → j.data = false → s.rankPart d j.rank < 12 → s.ctxState (s.rankPart d j.rank) j.ctx ≠ 0 →
    ∃ t, exec (.emitPresent d) s = .next t ∧ (t.dom d).emits = [] ∧ (t.ctx (s.rankPart d j.rank) j.ctx).pend = []
      ∧ t.bulk = s.bulk
      ∧ ((s.ctx (s.rankPart d j.rank) j.ctx).pend = [] → t.srv = s.srv ∧ t.regs = s.regs))
  ∧ (∀ (s : State) (d : Nat) (j : EmitJob), d < 12 → (s.dom d).emits = [j] → (s.dom d).smps = [] → s.canRun d j.due = true →
    j.ctx < 256 → j.data = true → s.rankPart d j.rank < 12 → s.ctxState (s.rankPart d j.rank) j.ctx ≠ 0 →
    (s.srvAt (s.rankPart d j.rank)).emitBuf = [] → j.payload.length ≤ 4096 →
    ∃ t, exec (.emitPresent d) s = .next t ∧ (t.dom d).emits = []
      ∧ (t.srvAt (s.rankPart d j.rank)).emitBuf = [.record { s.newRec (s.rankPart d j.rank) j.ctx 1 with
          tag := j.tag, count := j.payload.length / 64, payload := j.payload }]
      ∧ t.regs = s.regs ∧ t.bulk = s.bulk)

/-- MOVI, ALU, CMPP, RDF, RDT and RDZ (R127, R165, R168, R169, R194, R214, R219, R220): in every ashlar whose predicate is true
the destination takes the result, the field, the latest tally or zk; p0 never changes; CLR clears the sticky flags, RDZ the
bits of zk it names; no other register, byte or word changes. -/
def Obligations.RegisterInstructions : Prop :=
  (∀ (s : State) (d : Nat) (w : Quad),
    let frame (t : State) (sel : Nat) : Prop :=
      issuedTo s t d (s.pcAfter d) ∧ sameButCore s t ∧ sameRegs s t (fun a => a = Reg.SEQ_PC.addr d)
        ∧ ∀ a k, k < 64 → ¬ (s.acts d w a ∧ k = sel ∧ k ≠ 48) → t.coreGet a k = s.coreGet a k
    (s.issues d w 1 0 → ∃ t, exec (.movi d) s = .next t ∧ frame t (fld w 43 38)
      ∧ ∀ a, s.acts d w a → t.coreGet a (fld w 43 38) = BitVec.ofNat 32 (fld w 31 0))
    ∧ (s.issues d w 1 1 → s.free d (srcRegs w) → ∃ t, exec (.alu d) s = .next t ∧ frame t (fld w 43 38)
      ∧ ∀ a, s.acts d w a → t.coreGet a (fld w 43 38) = aluOp (fld w 47 44) (s.src d a (fld w 37 32)) (s.srcB d a w))
    ∧ (s.issues d w 1 2 → s.free d (srcRegs w) → ∃ t, exec (.cmpp d) s = .next t ∧ frame t (48 + fld w 47 45)
      ∧ ∀ a, s.acts d w a → fld w 47 45 ≠ 0 →
          let c := cmpWord (fld w 44 42) (s.src d a (fld w 37 32)) (s.srcB d a w)
          let p := s.coreGet a (48 + fld w 47 45) != 0
          let r := match fld w 41 40 with | 0 => c | 1 => p && c | _ => p || c
          t.coreGet a (48 + fld w 47 45) = if r then 1 else 0))
  ∧ (∀ (s : State) (d : Nat) (w : Quad),
    (s.issues d w 1 3 → ∃ t, exec (.rdf d) s = .next t ∧ issuedTo s t d (s.pcAfter d) ∧ sameButCore s t
      ∧ (∀ a, s.acts d w a → t.coreGet a (fld w 43 38) = s.rdfValue d a (fld w 7 0)
          ∧ (fld w 8 8 = 1 → t.rw (Reg.SEQ_NUM_FLAGS.addr (partOf a) (idxOf a)) = 0))
      ∧ (fld w 8 8 = 0 → sameRegs s t fun a => a = Reg.SEQ_PC.addr d)
      ∧ ∀ a k, k < 64 → ¬ (s.acts d w a ∧ k = fld w 43 38) → t.coreGet a k = s.coreGet a k)
    ∧ (s.issues d w 1 4 → ∃ t, exec (.rdt d) s = .next t ∧ issuedTo s t d (s.pcAfter d) ∧ sameButCore s t
      ∧ (∀ a, s.acts d w a →
          let r (x y : Nat) : Word := if fld w 0 0 = 0 then s.rw x else s.rw y
          t.coreGet a (fld w 43 38)
              = r (Reg.ARR_TALLY_LO.addr (partOf a) (idxOf a)) (Reg.VEC_TALLY_LO.addr (partOf a) (idxOf a))
            ∧ t.coreGet a (fld w 43 38 + 1)
              = r (Reg.ARR_TALLY_HI.addr (partOf a) (idxOf a)) (Reg.VEC_TALLY_HI.addr (partOf a) (idxOf a)))
      ∧ sameRegs s t (fun a => a = Reg.SEQ_PC.addr d)
      ∧ ∀ a k, k < 64 → ¬ (s.acts d w a ∧ (k = fld w 43 38 ∨ k = fld w 43 38 + 1)) → t.coreGet a k = s.coreGet a k)
    ∧ (s.issues d w 1 5 → ∃ t, exec (.rdz d) s = .next t ∧ issuedTo s t d (s.pcAfter d) ∧ sameButCore s t
      ∧ (∀ a, s.acts d w a → t.coreGet a (fld w 43 38) = s.coreGet a (56 + fld w 33 32)
          ∧ t.coreGet a (56 + fld w 33 32) = s.coreGet a (56 + fld w 33 32) &&& ~~~ BitVec.ofNat 32 (fld w 15 0))
      ∧ sameRegs s t (fun a => a = Reg.SEQ_PC.addr d)
      ∧ ∀ a k, k < 64 → ¬ (s.acts d w a ∧ (k = fld w 43 38 ∨ k = 56 + fld w 33 32)) → t.coreGet a k = s.coreGet a k))

/-- LDW, LDA and ST (R213, R221 to R224): a word access issues if its address is aligned and in range in every ashlar it acts
in; the load's word is read in its bank cycle and its destination is busy for 13 cycles; the store's word is written in its
bank cycle. An address that is not halts the domain with OPERAND_RANGE, SOURCE 1. What a halt's cycle still brings to pass is the
model's reading (log entries 16, 93). -/
def Obligations.WordAccessesIssue : Prop :=
  ∀ (s : State) (d : Nat) (w : Quad),
    let x (a : Nat) : Nat := memAddr s.bulk.core a w
    let c := (s.dom d).cyc
    let at_ (a : Nat) : Nat := c + sliceLat (bitsOf (x a) 24 22) + 1
    let loads (t : State) : Prop := issuedTo s t d (s.pcAfter d) ∧ t.bulk = s.bulk
      ∧ sameRegs s t (fun a => a = Reg.SEQ_PC.addr d) ∧ (fld w 43 38, c + 13) ∈ (t.dom d).busy
      ∧ ∀ a, s.acts d w a → (at_ a, DueAct.ld a (x a) (fld w 43 38) (s.dom d).pc c) ∈ (t.dom d).due
    (s.issues d w 2 0 → s.free d [32 + fld w 37 34] → s.relWait d w = false → (∀ a, s.acts d w a → memOk s.bulk.core a w = true) →
      ∃ t, exec (.ldw d) s = .next t ∧ loads t)
    ∧ (s.issues d w 2 1 → s.free d [32 + fld w 37 34] → s.relWait d w = false → (∀ a, s.acts d w a → memOk s.bulk.core a w = true) →
      ∃ t, exec (.lda d) s = .next t ∧ loads t)
    ∧ (s.issues d w 2 2 → s.free d [32 + fld w 37 34, fld w 43 38] → s.relWait d w = false →
      (∀ a, s.acts d w a → memOk s.bulk.core a w = true) →
      ∃ t, exec (.st d) s = .next t ∧ issuedTo s t d (s.pcAfter d) ∧ t.bulk.scratch = s.bulk.scratch ∧ t.bulk.core = s.bulk.core
        ∧ sameRegs s t (fun a => a = Reg.SEQ_PC.addr d)
        ∧ ∀ a, s.acts d w a →
            (at_ a, DueAct.wr 3 a (x a) (leBytes 4 (s.src d a (fld w 43 38)).toNat) (s.dom d).pc none) ∈ (t.dom d).due)
    ∧ (s.free d [32 + fld w 37 34] → s.relWait d w = false → (∃ a, s.acts d w a ∧ memOk s.bulk.core a w = false) →
      (s.issues d w 2 0 → ∃ t, exec (.ldw d) s = .next t ∧ haltedWith s t d 0x03 1)
      ∧ (s.issues d w 2 1 → ∃ t, exec (.lda d) s = .next t ∧ haltedWith s t d 0x03 1)
      ∧ (s.issues d w 2 2 → s.free d [32 + fld w 37 34, fld w 43 38] → ∃ t, exec (.st d) s = .next t ∧ haltedWith s t d 0x03 1))

/-- NOP, LOOP, JMP, BRS and CALL (R172, R188 to R193, R195, R197, R199, R200, R498): where fetch goes on. A NOP only lets its
cycle pass; a LOOP with a count of zero pushes no level, goes on after its body and costs its own cycle only. A branch on a
value that is still to change takes the value as it stands; in a debug image it counts as RACE_RAW, and halts the domain if
HALT_ON_HAZARD is 1. Which values a read of its cycle finds, what the detector follows and what a halt's cycle still brings to pass
are the model's readings (log entries 60, 17, 16). -/
def Obligations.ControlFlow : Prop :=
  ∀ (s : State) (d : Nat) (w : Quad),
    let pc := (s.dom d).pc
    let n := if fld w 35 35 = 1 then s.get (Reg.SEQ_Q.VALUE d (fld w 3 0)) else fld w 15 0
    let last := pc + fld w 47 36 + 1
    (s.issues d w 0 0 → ∃ t, exec (.nop d) s = .next t ∧ issuedTo s t d (s.pcAfter d) ∧ t.bulk = s.bulk ∧ t.fab = s.fab
      ∧ sameRegs s t fun a => a = Reg.SEQ_PC.addr d)
    ∧ ((s.dom d).loops = [] → (s.dom d).call = none → s.pcAfter d = pc + 1)
    ∧ (∀ l ls, (s.dom d).loops = ls ++ [l] → (s.dom d).call = none → pc = l.last → 1 < l.remaining → s.pcAfter d = l.first)
    ∧ (∀ c, (s.dom d).loops = [] → (s.dom d).call = some c → pc = c.last → s.pcAfter d = c.ret)
    ∧ (s.issues d w 0 1 → (fld w 35 35 = 1 → s.sumSafe d false (fld w 3 0) = true) → n ≠ 0 → (s.dom d).loops.length < 4 →
      (s.dom d).bodyFits (pc + 1) last = true →
      ∃ t, exec (.loop d) s = .next t ∧ issuedTo s t d (pc + 1) ∧ (t.dom d).loops = (s.dom d).loops ++ [⟨pc + 1, last, n, n⟩]
        ∧ t.bulk = s.bulk)
    ∧ (s.issues d w 0 1 → (fld w 35 35 = 1 → s.sumSafe d false (fld w 3 0) = true) → n = 0 → ∃ t, exec (.loop d) s = .next t
      ∧ issuedTo s t d (last + 1)
        ∧ (t.dom d).loops = (s.dom d).loops ∧ (t.dom d).hold ≤ (t.dom d).cyc ∧ t.bulk = s.bulk)
    ∧ (s.issues d w 0 2 → (s.dom d).call = none → ∃ t, exec (.jmp d) s = .next t ∧ issuedTo s t d (fld w 16 0)
        ∧ (t.dom d).loops = popLoops 0 (fld w 16 0) (s.dom d).loops ∧ (t.dom d).hold = (s.dom d).cyc + 3 ∧ t.bulk = s.bulk)
    ∧ (s.issues d w 0 3 → s.sumSafe d (brsOnZ w) (brsReads w) = true → (s.dom d).call = none → s.brsCond d w = true →
      ∃ t, exec (.brs d) s = .next t
        ∧ issuedTo s t d (fld w 16 0) ∧ (t.dom d).hold = (s.dom d).cyc + 3 ∧ t.bulk = s.bulk)
    ∧ (s.issues d w 0 3 → s.sumSafe d (brsOnZ w) (brsReads w) = true → s.brsCond d w = false →
      ∃ t, exec (.brs d) s = .next t ∧ issuedTo s t d (s.pcAfter d) ∧ t.bulk = s.bulk
        ∧ (s.debug = true → s.sumRace d (brsOnZ w) (brsReads w) = true → s.get (Reg.DBG_HAZ_COUNT.COUNT 0) + 1 < 2 ^ 32 →
            t.get (Reg.DBG_HAZ_COUNT.COUNT 0) = s.get (Reg.DBG_HAZ_COUNT.COUNT 0) + 1))
    ∧ (s.issues d w 0 3 → s.hazardHalts = true → s.sumRace d (brsOnZ w) (brsReads w) = true →
      ∃ t, exec (.brs d) s = .next t ∧ haltedWith s t d 0xF0 1)
    ∧ (let r := fld w 37 32
       let e := s.get (Reg.SEQ_ROUTINE_LO.ENTRY d r)
       let m := s.get (Reg.SEQ_ROUTINE_LO.LENGTH d r)
       s.issues d w 0 4 → (s.dom d).call = none → s.get (Reg.SEQ_ROUTINE_LO.VALID d r) = 1 →
       s.get (Reg.SEQ_ROUTINE_HI.VERSION d r) = fld w 47 40 → m ≠ 0 → m ≤ 4096 → s.resident d e m = true →
       ∃ t, exec (.call d) s = .next t ∧ issuedTo s t d e ∧ (t.dom d).call = some ⟨pc + 1, e, e + m - 1, (s.dom d).loops.length⟩
        ∧ (t.dom d).hold = (s.dom d).cyc + 3 ∧ t.bulk = s.bulk)

/-- The value of qn that a SETQ or an ADDQ leaves. -/
def qAfter (s : State) (d : Nat) (w : Quad) (add : Bool) : Word :=
  (if add then s.rw (Reg.SEQ_Q.addr d (fld w 35 32)) else 0) + BitVec.ofNat 32 (fld w 31 0)

/-- `t` is the state that a SETQ or an ADDQ leaves, and a LOOP or a BRS that looks at the same qn issues in it. -/
def qThen (s : State) (d : Nat) (w : Quad) (add : Bool) (t : State) (w' : Quad) (op : Nat) : Prop :=
  s.issues d w 0 (if add then 8 else 7) ∧ (add = true → s.sumSafe d false (fld w 35 32) = true)
    ∧ exec (if add then .addq d else .setq d) s = .next t ∧ t.issues d w' 0 op ∧ t.sumSafe d false (fld w 35 32) = true

/-- ENDC, OVL, SETQ and ADDQ (R177, R181, R186, R187, R196, R218): ENDC waits to retire with its next entry; OVL queues a load
and makes its bank PENDING; SETQ and ADDQ write a q-register at the end of their issue cycle, and a LOOP or BRS that issues in the
next cycle sees the new value. -/
def Obligations.SequencerStateInstructions : Prop :=
  ∀ (s : State) (d : Nat) (w : Quad),
    (s.issues d w 0 5 → (s.dom d).call = none → ∃ t, exec (.endc d) s = .next t
      ∧ (t.dom d).retire = some (if fld w 47 47 = 1 then some (fld w 16 0) else none) ∧ (t.dom d).cyc = (s.dom d).cyc
      ∧ t.running d = true ∧ t.bulk = s.bulk ∧ sameRegs s t fun a => a = Reg.SEQ_PC.addr d)
    ∧ (∀ p b, s.issues d w 0 6 → s.bankPlace d (fld w 47 40) = some (p, b) → s.get (Reg.SEQ_BANK.RESIDENT p b) = 0 →
      fld w 29 14 % 8192 ≤ 8184 → fld w 39 30 < 576 → (s.members d).contains (partOf (fld w 39 30)) = true →
      s.sliceReady (fld w 39 30) (fld w 29 14 / 8192) = true → (s.dom d).ovq.length < 4 → s.get (Reg.SEQ_BANK.STATE p b) < 2 →
      s.get (Reg.SEQ_BANK.QUEUED p b) < 4 →
      ∃ t, exec (.ovl d) s = .next t ∧ issuedTo s t d (s.pcAfter d) ∧ t.get (Reg.SEQ_BANK.STATE p b) = 2
        ∧ t.get (Reg.SEQ_BANK.QUEUED p b) = s.get (Reg.SEQ_BANK.QUEUED p b) + 1
        ∧ (t.dom d).ovq = (s.dom d).ovq ++ [⟨fld w 47 40, fld w 39 30, fld w 29 14 / 8192, fld w 29 14 % 8192, fld w 13 0, (s.dom d).cyc⟩]
        ∧ t.bulk = s.bulk)
    ∧ (s.issues d w 0 7 → ∃ t, exec (.setq d) s = .next t ∧ issuedTo s t d (s.pcAfter d)
        ∧ t.rw (Reg.SEQ_Q.addr d (fld w 35 32)) = BitVec.ofNat 32 (fld w 31 0) ∧ t.bulk = s.bulk
        ∧ sameRegs s t fun a => a = Reg.SEQ_PC.addr d ∨ a = Reg.SEQ_Q.addr d (fld w 35 32))
    ∧ (s.issues d w 0 8 → s.sumSafe d false (fld w 35 32) = true → ∃ t, exec (.addq d) s = .next t ∧ issuedTo s t d (s.pcAfter d)
        ∧ t.rw (Reg.SEQ_Q.addr d (fld w 35 32)) = s.rw (Reg.SEQ_Q.addr d (fld w 35 32)) + BitVec.ofNat 32 (fld w 31 0)
        ∧ t.bulk = s.bulk ∧ (s.debug = false ∨ s.sumRace d false (fld w 35 32) = false →
            sameRegs s t fun a => a = Reg.SEQ_PC.addr d ∨ a = Reg.SEQ_Q.addr d (fld w 35 32)))
    ∧ (∀ add t w', qThen s d w add t w' 1 → fld w' 35 35 = 1 → fld w' 3 0 = fld w 35 32 →
      let v := (qAfter s d w add).toNat
      let pc := (t.dom d).pc
      let last := pc + fld w' 47 36 + 1
      (v ≠ 0 → (t.dom d).loops.length < 4 → (t.dom d).bodyFits (pc + 1) last = true →
        ∃ u, exec (.loop d) t = .next u ∧ (u.dom d).loops = (t.dom d).loops ++ [⟨pc + 1, last, v, v⟩])
      ∧ (v = 0 → ∃ u, exec (.loop d) t = .next u ∧ issuedTo t u d (last + 1) ∧ (u.dom d).loops = (t.dom d).loops))
    ∧ (∀ add t w', qThen s d w add t w' 3 → brsOnZ w' = false → brsReads w' = fld w 35 32 → (t.dom d).call = none →
      ∃ u, exec (.brs d) t = .next u
        ∧ issuedTo t u d (if cmpZero (fld w' 38 36) (qAfter s d w add).toInt then fld w' 16 0 else t.pcAfter d))

/-- HALT (R204 to R206): the domain halts with code 0x08, SOURCE 0, the instruction's address and its operand; it is neither
running nor armed, nothing of it is due any more, and the scratchpad keeps its contents. That ARMED and RUNNING are 0 at once, and what
the halt's cycle still brings to pass, are the model's readings (log entries 16, 93). -/
def Obligations.HaltStopsTheDomain : Prop :=
  ∀ (s : State) (d : Nat) (w : Quad), s.issues d w 0 9 → (s.dom d).pc < 2 ^ 17 →
    ∃ t, exec (.halt d) s = .next t ∧ t.halted d = true ∧ t.get (Reg.SEQ_HALT_CODE.CODE d) = 0x08
      ∧ t.get (Reg.SEQ_HALT_CODE.SOURCE d) = 0 ∧ t.get (Reg.SEQ_HALT_CODE.PART d) = d
      ∧ t.rw (Reg.SEQ_HALT_PC.addr d) = BitVec.ofNat 32 ((s.dom d).pc + 2 ^ 31)
      ∧ t.get (Reg.SEQ_HALT_ARG.ARG d) = fld w 15 0 ∧ t.running d = false ∧ t.armed d = false
      ∧ t.get (Reg.SEQ_COURSE_STATUS.LAG d) = 0 ∧ (t.dom d).due = [] ∧ (t.dom d).frz = [] ∧ (t.dom d).launch = none
      ∧ (t.dom d).ovq = [] ∧ (t.dom d).ovLoad = none
      ∧ t.bulk.scratch = s.bulk.scratch ∧ t.bulk.core = s.bulk.core ∧ t.bulk.cornice = s.bulk.cornice

/-- SEMP, SEMW and WAITC (R67, R68, R71, R234): a post of the ashlar's own semaphore is added in the next cycle, a remote one is a
control message; a wait that is met takes its count from the counter in every ashlar it acts in; one that is not is a freeze cause
that takes effect 24 cycles later. -/
def Obligations.SynchronisationInstructions : Prop :=
  ∀ (s : State) (d : Nat) (w : Quad),
    (s.issues d w 3 0 → fld w 23 23 = 0 → (s.dom d).relC ≤ (s.dom d).cyc →
      (∀ a, s.acts d w a →
        let v := s.get (Reg.TILE_SEM.VALUE (partOf a) (idxOf a) (fld w 41 37)) + fld w 31 24
        v + s.takenIn false (a * 64 + fld w 41 37) ((s.dom d).wall + 1) ≤ 255
          ∧ nextSem (s.dom d).frz a (fld w 41 37) v = none ∧ s.leadOf (partOf a) = d) →
      ∃ t, exec (.semp d) s = .next t ∧ issuedTo s t d (s.pcAfter d) ∧ t.bulk = s.bulk
        ∧ ∀ a, s.acts d w a → t.get (Reg.TILE_SEM.VALUE (partOf a) (idxOf a) (fld w 41 37))
            = s.get (Reg.TILE_SEM.VALUE (partOf a) (idxOf a) (fld w 41 37)) + fld w 31 24)
    ∧ (s.issues d w 3 0 → fld w 23 23 = 1 → s.free d [32 + fld w 22 19] → (s.dom d).relC ≤ (s.dom d).cyc →
      (∀ a, s.acts d w a → sempCheck s.bulk.core w a = none) →
      ∃ t, exec (.semp d) s = .next t ∧ issuedTo s t d (s.pcAfter d) ∧ t.bulk = s.bulk
        ∧ (∀ a, s.acts d w a → ∃ m ∈ t.fab.semps, m.ash = aField s.bulk.core a w 22 19 % 2 ^ 10 ∧ m.sem = fld w 41 37
            ∧ m.inc = fld w 31 24 ∧ m.ready = (s.dom d).wall + ashLat a m.ash + 1)
        ∧ sameRegs s t fun a => a = Reg.SEQ_PC.addr d)
    ∧ (s.issues d w 3 1 → (∀ a, s.acts d w a → fld w 31 24 ≤ s.get (Reg.TILE_SEM.VALUE (partOf a) (idxOf a) (fld w 41 37))) →
      ∃ t, exec (.semw d) s = .next t ∧ issuedTo s t d (s.pcAfter d) ∧ t.bulk.scratch = s.bulk.scratch ∧ t.bulk.core = s.bulk.core
        ∧ ∀ a, s.acts d w a → a < 576 → t.get (Reg.TILE_SEM.VALUE (partOf a) (idxOf a) (fld w 41 37))
            = s.get (Reg.TILE_SEM.VALUE (partOf a) (idxOf a) (fld w 41 37)) - fld w 31 24)
    ∧ (s.issues d w 3 1 → (∀ a, s.acts d w a → s.get (Reg.TILE_SEM.VALUE (partOf a) (idxOf a) (fld w 41 37)) < fld w 31 24) →
      ∃ t, exec (.semw d) s = .next t ∧ issuedTo s t d (s.pcAfter d) ∧ t.bulk = s.bulk
        ∧ (∀ a, s.acts d w a → ⟨.wait, .sem a (fld w 41 37) (fld w 31 24), (s.dom d).wall, (s.dom d).cyc + 24, none⟩ ∈ (t.dom d).frz)
        ∧ sameRegs s t fun a => a = Reg.SEQ_PC.addr d)
    ∧ (s.issues d w 3 2 → s.free d (if fld w 39 39 = 1 then [fld w 36 32] else []) →
      (∀ a, s.acts d w a → waitcTarget s.bulk.core w a < 2 ^ 24
        ∧ waitcTarget s.bulk.core w a ≤ s.get (Reg.TILE_CAIRN.VALUE (partOf a) (idxOf a) (fld w 45 40))) →
      ∃ t, exec (.waitc d) s = .next t ∧ issuedTo s t d (s.pcAfter d) ∧ t.bulk.scratch = s.bulk.scratch ∧ t.bulk.core = s.bulk.core
        ∧ ∀ a, s.acts d w a → a < 576 → t.get (Reg.TILE_CAIRN.VALUE (partOf a) (idxOf a) (fld w 45 40))
            = s.get (Reg.TILE_CAIRN.VALUE (partOf a) (idxOf a) (fld w 45 40)) - waitcTarget s.bulk.core w a)
    ∧ (s.issues d w 3 2 → s.free d (if fld w 39 39 = 1 then [fld w 36 32] else []) →
      (∀ a, s.acts d w a → waitcTarget s.bulk.core w a < 2 ^ 24
        ∧ s.get (Reg.TILE_CAIRN.VALUE (partOf a) (idxOf a) (fld w 45 40)) < waitcTarget s.bulk.core w a) →
      ∃ t, exec (.waitc d) s = .next t ∧ issuedTo s t d (s.pcAfter d) ∧ t.bulk = s.bulk
        ∧ (∀ a, s.acts d w a → ⟨.wait, .cairn a (fld w 45 40) (waitcTarget s.bulk.core w a), (s.dom d).wall, (s.dom d).cyc + 24, none⟩
            ∈ (t.dom d).frz)
        ∧ sameRegs s t fun a => a = Reg.SEQ_PC.addr d)

/-- REL, ACQ and FENCE (R234 to R236, R273, R498): a release of the control core waits for its latest write, one of an engine goes
through its queue, and a debug image with HALT_ON_HAZARD 1 halts the domain where the ashlar passes on what it has observed of
another without an ACQ; an acquire drops the staging copies of the engines it names, and halts the domain of a debug image with
HALT_ON_HAZARD 1 where its scope does not cover what it synchronises with; a fence issues once those engines are drained and waits
until then. What the detector follows, what a halt's cycle still brings to pass, and which count a waiting fence adds to, are the
model's readings (log entries 17, 16, 61). -/
def Obligations.OrderingInstructions : Prop :=
  ∀ (s : State) (d : Nat) (w : Quad),
    (s.issues d w 3 3 → fld w 35 34 = 0 → ∃ t, exec (.rel d) s = .next t ∧ issuedTo s t d (s.pcAfter d) ∧ t.bulk = s.bulk
      ∧ (t.dom d).relC = (if (s.dom d).wCore = 0 then (s.dom d).relC else (s.dom d).wCore + 1)
      ∧ sameRegs s t fun a => a = Reg.SEQ_PC.addr d)
    ∧ (fld w 35 34 = 1 → s.takesOrWaits d w 3 3 .array [] (fun _ => true) (.rel d))
    ∧ (fld w 35 34 = 2 → s.takesOrWaits d w 3 3 .vector [] (fun _ => true) (.rel d))
    ∧ (fld w 35 34 = 3 →
      (s.debug = true → ∀ a, s.acts d w a → (s.haz.lands.any fun l => l.observed a && decide (l.srcAsh ≠ a)) = false) →
      s.takesOrWaits d w 3 3 .transfer [] (fun _ => true) (.rel d))
    ∧ (s.issues d w 3 3 → fld w 35 34 = 3 → s.hazardHalts = true →
      (∃ a, s.acts d w a ∧ (s.haz.lands.any fun l => l.observed a && decide (l.srcAsh ≠ a)) = true) →
      ∃ t, exec (.rel d) s = .next t ∧ haltedWith s t d 0xF2 1)
    ∧ (s.issues d w 3 4 → (s.hazardHalts = true → ∀ a, s.acts d w a → s.scopeMiss a (fld w 33 32) = false) →
      ∃ t, exec (.acq d) s = .next t ∧ issuedTo s t d (s.pcAfter d)
      ∧ (∀ a e, s.acts d w a → e < 3 → bitOf (fld w 2 0) e = true → mapGet [] t.bulk.stage (a * 3 + e) = [])
      ∧ (∀ a e, e < 3 → ¬ (s.acts d w a ∧ bitOf (fld w 2 0) e = true) →
          mapGet [] t.bulk.stage (a * 3 + e) = mapGet [] s.bulk.stage (a * 3 + e))
      ∧ { t.bulk with stage := s.bulk.stage } = s.bulk
      ∧ ((∀ a, s.acts d w a → s.scopeMiss a (fld w 33 32) = false) → sameRegs s t fun a => a = Reg.SEQ_PC.addr d))
    ∧ (s.issues d w 3 4 → s.hazardHalts = true → (∃ a, s.acts d w a ∧ s.scopeMiss a (fld w 33 32) = true) →
      ∃ t, exec (.acq d) s = .next t ∧ haltedWith s t d 0xF2 1)
    ∧ (s.issues d w 3 5 → (s.dom d).drained (fld w 3 0) = true → ∃ t, exec (.fence d) s = .next t
      ∧ issuedTo s t d (s.pcAfter d) ∧ t.bulk = s.bulk ∧ sameRegs s t fun a => a = Reg.SEQ_PC.addr d)
    ∧ (s.issues d w 3 5 → (s.dom d).drained (fld w 3 0) = false → s.get (Reg.SEQ_STALL_QUEUE.CYCLES d) + 1 < 2 ^ 32 →
      ∃ t, exec (.fence d) s = .next t ∧ waited s t d
        ∧ t.get (Reg.SEQ_STALL_QUEUE.CYCLES d) = s.get (Reg.SEQ_STALL_QUEUE.CYCLES d) + 1)

/-- OVERLAY_LOAD_START, OVERLAY_LOAD_DONE and OVERLAY_DEADLOCK (R180, R182): a load starts and its bank is LOADING; after 96
cycles the bank is VALID with its tag; a fetch that has waited 65,536 cycles halts the domain. What the halt's cycle still brings to
pass is the model's reading (log entry 16). -/
def Obligations.OverlaysLoad : Prop :=
  (∀ (s : State) (d p b : Nat) (o : Ovl) (l : List Ovl), d < 12 → s.canRun d (s.dom d).cyc = true → s.loadCan d = true →
    (s.dom d).ovq = o :: l → s.bankPlace d o.bank = some (p, b) → p < 12 →
    ∃ t, exec (.overlayLoadStart d) s = .next t ∧ t.get (Reg.SEQ_BANK.STATE p b) = 3 ∧ (t.dom d).ovq = l
      ∧ (t.dom d).ovLoad = some (o, (s.dom d).cyc)
      ∧ (∀ i < 8, ((s.dom d).cyc + i + sliceLat o.slice + 1, DueAct.ovl i) ∈ (t.dom d).due) ∧ t.bulk = s.bulk)
  ∧ (∀ (s : State) (d p b st : Nat) (o : Ovl), d < 12 → (s.dom d).ovLoad = some (o, st) → s.canRun d (st + 96) = true →
    s.bankPlace d o.bank = some (p, b) → p < 12 → ((s.dom d).ovq.any fun q => q.bank = o.bank) = false → o.tag < 2 ^ 14 →
    ∃ t, exec (.overlayLoadDone d) s = .next t ∧ t.get (Reg.SEQ_BANK.STATE p b) = 1 ∧ t.get (Reg.SEQ_BANK.TAG p b) = o.tag
      ∧ (t.dom d).ovLoad = none ∧ t.bulk = s.bulk)
  ∧ (∀ (s : State) (d b : Nat), s.canIssue d = true → (s.dom d).hold ≤ (s.dom d).cyc → s.fetch d = .wait b →
    (s.dom d).fetchWait = 65535 →
    ∃ t, exec (.overlayDeadlock d) s = .next t ∧ t.halted d = true ∧ t.get (Reg.SEQ_HALT_CODE.CODE d) = 0x06
      ∧ t.running d = false ∧ t.armed d = false ∧ t.bulk.scratch = s.bulk.scratch)

/-! ## Clocks and the time base -/

/-- STEP_REQUEST and STEP_CHANGE_APPLY (R303, R304, R307, R311): a request is refused for a step that is not available, for want
of notice and for an armed domain that spans the seam, each with its own bit; an accepted one waits for its tick, or for 4
counts while no ticks come, and then both halves run at the planned steps; a crossing entry that the switch makes late is a
freeze cause of its domain, 24 cycles later, for as long. That a request is refused for every reason that holds, the tick that a
rewritten CLK_STEP_COURSE applies at, and that the command names the late entries, are the model's choices (log entries 29, 114, 70). -/
def Obligations.FrequencySteps : Prop :=
  (∀ (s : State) (w : Who) (v : Word),
    let nw := v.toNat % 16
    let ne := v.toNat / 16 % 16
    let short := s.tickEn && decide (s.get2 Reg.CLK_STEP_COURSE_LO.COURSE Reg.CLK_STEP_COURSE_HI.COURSE ≤ s.courseNum + 1)
    let spans := decide (nw ≠ ne) && (List.range 12).any fun d => s.armed d && s.spans d
    s.postFree w = true → s.hostOpen w Reg.CLK_STEP_PLAN.addr = true → s.mayField w Reg.CLK_STEP_PLAN.addr .rw = true →
    bitOf v.toNat 8 = true →
    (s.stepOk nw = true → s.stepOk ne = true → short = false → spans = false → ∃ t, exec (.stepRequest w v) s = .next t
      ∧ t.get Reg.CLK_STEP_PLAN.PENDING = 1 ∧ t.get Reg.CLK_STEP_PLAN.NEXT_W = nw ∧ t.get Reg.CLK_STEP_PLAN.NEXT_E = ne
      ∧ t.clk.stepDue = (if s.tickEn then none else some (s.now + 4))
        ∧ t.get Reg.CLK_STEP_CUR.STEP_W = s.get Reg.CLK_STEP_CUR.STEP_W
      ∧ sameRegs s t fun a => a = Reg.CLK_STEP_PLAN.addr)
    ∧ (s.stepOk nw = true → s.stepOk ne = true → short = true → spans = false → ∃ t, exec (.stepRequest w v) s = .next t
      ∧ t.get Reg.CLK_STEP_PLAN.PENDING = 0 ∧ t.get Reg.CLK_STEP_STATUS.REFUSED_NOTICE = 1 ∧ t.clk.stepDue = none ∧ t.doms = s.doms)
    ∧ ((s.stepOk nw && s.stepOk ne) = false → ∃ t, exec (.stepRequest w v) s = .next t ∧ t.get Reg.CLK_STEP_PLAN.PENDING = 0
      ∧ t.get Reg.CLK_STEP_STATUS.REFUSED_UNAVAIL = 1 ∧ t.clk.stepDue = none ∧ t.doms = s.doms
      ∧ (s.logClear → spans = false → loggedOne s t 0xC6))
    ∧ (spans = true → ∃ t, exec (.stepRequest w v) s = .next t ∧ t.get Reg.CLK_STEP_PLAN.PENDING = 0
      ∧ t.get Reg.CLK_STEP_STATUS.REFUSED_SPAN = 1 ∧ t.clk.stepDue = none ∧ t.doms = s.doms))
  ∧ (∀ (s : State) (late : List (Nat × Nat)), s.get Reg.CLK_STEP_PLAN.PENDING = 1 →
    let g := s.clk.stepDue.getD (s.get2 Reg.CLK_COURSE_START_LO.START Reg.CLK_COURSE_START_HI.START)
    s.clk.stepDue.isSome = true ∨ s.stepWaits = true → s.steady → ∃ t, exec (.stepChangeApply late) s = .next t
      ∧ t.get Reg.CLK_STEP_CUR.STEP_W = s.get Reg.CLK_STEP_PLAN.NEXT_W
        ∧ t.get Reg.CLK_STEP_CUR.STEP_E = s.get Reg.CLK_STEP_PLAN.NEXT_E
      ∧ t.get Reg.CLK_STEP_CUR.MISMATCHED = (if s.get Reg.CLK_STEP_PLAN.NEXT_W = s.get Reg.CLK_STEP_PLAN.NEXT_E then 0 else 1)
      ∧ t.get Reg.CLK_BRIDGE_STATUS.RATE_ADAPTED = t.get Reg.CLK_STEP_CUR.MISMATCHED
      ∧ t.get Reg.CLK_STEP_STATUS.APPLIED = 1 ∧ t.get Reg.CLK_STEP_PLAN.PENDING = 0 ∧ t.clk.stepDue = none ∧ t.now = max s.now g
      ∧ ((∃ d < 12, s.running d = true) → t.get Reg.CLK_STEP_STATUS.MID_COURSE = 1)
      ∧ t.bulk = s.bulk ∧ (∀ d, (t.dom d).cyc = (s.dom d).cyc)
      ∧ ∀ a n, late = [(a, n)] → a < 576 → s.domOf a < 12 → s.running (s.domOf a) = true → s.halted (s.domOf a) = false →
          ∃ f ∈ (t.dom (s.domOf a)).frz, f.kind = .cross ∧ f.clr = some (f.due + n))

/-- PLUMB_CALIBRATION, DROOP_STRETCH and STRETCH_END (R297, R299 to R301, R308, R309): the steps that every crossing meets are
available, none above the fused maximum; step 0 out of reach, or a crossing that fails at it, is a failed calibration, and the
crossing costs the partitions at both its ends, the crevasse bridge all of them, and the ashlar it is recorded on is dead from the
next cold reset on; a supply more than DROOP below nominal starts a stretch, which is counted; one in the lead's region makes the
domain's wall cycles longer for as long as it lasts, one in another ashlar makes that region lag. Which of a crossing's ashlars is
recorded, what the command measures, and how a region lags, are the model's choices (log entries 125, 70, 67). -/
def Obligations.CalibrationAndStretch : Prop :=
  (∀ (s : State) (avail margin : Nat) (failed : List (Nat × Nat)) (bridge : Bool),
    s.mgmt.dieDone = true → s.mgmt.calDone = false → s.fuses.maxStep < 16 → margin < 2 ^ 16 →
    ∃ t, exec (.plumbCalibration avail margin failed bridge) s = .next t
      ∧ t.get Reg.CLK_STEP_AVAIL.AVAIL = avail % 2 ^ (s.fuses.maxStep + 1) ∧ t.get Reg.CLK_PLUMB_STATUS.DONE = 1
      ∧ t.get Reg.CLK_PLUMB_STATUS.CAL_MARGIN = margin ∧ t.mgmt.calDone = true
      ∧ t.get Reg.CLK_PLUMB_MARGIN.MIN_MARGIN = min margin (s.get Reg.CLK_PLUMB_MARGIN.MIN_MARGIN)
      ∧ (bridge = true → ∀ p, t.avail p = false)
      ∧ (∀ x ∈ failed, t.avail (partOf x.1) = false ∧ t.avail (partOf x.2) = false ∧ s.physPlace x.1 ∈ t.mgmt.flash.repair)
      ∧ (failed = [] → bridge = false → (∀ p, t.avail p = s.avail p) ∧ t.bulk = s.bulk)
      ∧ (failed = [] → bridge = false → bitOf avail 0 = true → t.flt = s.flt
        ∧ t.get Reg.CLK_PLUMB_STATUS.FAILED = s.get Reg.CLK_PLUMB_STATUS.FAILED)
      ∧ (failed ≠ [] ∨ bridge = true ∨ bitOf avail 0 = false → t.get Reg.CLK_PLUMB_STATUS.FAILED = 1 ∧ (s.logClear →
        loggedOne s t 0xC7)) ∧ t.bulk = s.bulk)
  ∧ (∀ (s : State) (ash mv : Nat) (leaf : Bool), ash < 576 →
    (s.get Reg.CLK_STRETCH_CFG.DROOP < mv → (s.clk.stretching.any fun a => a.1 = ash) = false →
      s.get (Reg.TEL_DROOP.EVENTS ash) + 1 < 2 ^ 32 →
      let since := (s.dom (s.domOf ash)).timeOf (s.wallNow (s.domOf ash))
      ∃ t, exec (.droopStretch ash mv leaf) s = .next t ∧ t.clk.stretching = (ash, leaf, since) :: s.clk.stretching
        ∧ t.get (Reg.TEL_DROOP.EVENTS ash) = s.get (Reg.TEL_DROOP.EVENTS ash) + 1 ∧ t.bulk = s.bulk
        ∧ sameRegs s t (fun a => a = Reg.TEL_DROOP.addr ash)
        ∧ (s.domOf ash < 12 → (t.dom (s.domOf ash)).cyc = (s.dom (s.domOf ash)).cyc)
        ∧ (s.domOf ash < 12 → ash = ashOf (s.domOf ash) 0 → (t.dom (s.domOf ash)).lags = (s.dom (s.domOf ash)).lags
            ∧ (t.dom (s.domOf ash)).slow
              = (s.dom (s.domOf ash)).slow ++ [(s.wallNow (s.domOf ash), none, 2 ^ s.get Reg.CLK_STRETCH_CFG.DEPTH)])
        ∧ (ash ≠ ashOf (s.domOf ash) 0 → s.running (s.domOf ash) = false → t.doms = s.doms)
        ∧ (ash ≠ ashOf (s.domOf ash) 0 → s.running (s.domOf ash) = true → s.domOf ash < 12 →
            (t.dom (s.domOf ash)).slow = (s.dom (s.domOf ash)).slow
            ∧ ∃ l ∈ (t.dom (s.domOf ash)).lags, l.ash = ash ∧ (since, none, 2 ^ s.get Reg.CLK_STRETCH_CFG.DEPTH) ∈ l.parts))
    ∧ (mv ≤ s.get Reg.CLK_STRETCH_CFG.DROOP → exec (.droopStretch ash mv leaf) s = .next s))
  ∧ (∀ (s : State) (ash cycles : Nat), ash < 576 → (s.clk.stretching.any fun a => a.1 = ash) = true →
    s.get Reg.CLK_STRETCH_CFG.MIN_CYCLES ≤ cycles → s.get (Reg.TEL_STRETCH.CYCLES ash) + cycles < 2 ^ 32 →
    ∃ t, exec (.stretchEnd ash cycles) s = .next t ∧ (t.clk.stretching.any fun a => a.1 = ash) = false
      ∧ t.get (Reg.TEL_STRETCH.CYCLES ash) = s.get (Reg.TEL_STRETCH.CYCLES ash) + cycles
      ∧ (s.domOf ash < 12 → ash = ashOf (s.domOf ash) 0 →
          (∀ v ∈ (s.dom (s.domOf ash)).slow, v.2.1 = none → (v.1, some (v.1 + cycles), v.2.2) ∈ (t.dom (s.domOf ash)).slow)
          ∧ ∀ v ∈ (t.dom (s.domOf ash)).slow, v.2.1 ≠ none)
      ∧ (s.domOf ash < 12 → ash ≠ ashOf (s.domOf ash) 0 →
          (∀ l ∈ (t.dom (s.domOf ash)).lags, l.ash = ash → ∀ v ∈ l.parts, v.2.1 ≠ none)
          ∧ ∀ l ∈ (s.dom (s.domOf ash)).lags, l.ash = ash → ∃ l' ∈ (t.dom (s.domOf ash)).lags, l'.ash = ash
            ∧ ∀ v ∈ l.parts, v.2.1 = none → (v.1, some (v.1 + cycles * (8 + v.2.2)), v.2.2) ∈ l'.parts)
      ∧ sameRegs s t (fun a => a = Reg.TEL_STRETCH.addr ash) ∧ t.bulk = s.bulk)

/-- REF_QUALIFIED, REFERENCE_LOST, HOLDOVER_LIMIT_EXCEEDED, PHASE_SLEW_END and CLK_GLACIER_WRITE (R312 to R317): the modes of
the time base; with ticks enabled the counter is never stepped and a load of it is rejected. How far a slew has come, when a loaded
value is taken, and what FREE leaves as it is, are the model's choices (log entries 102, 103, 115). -/
def Obligations.TheTimeBaseKeepsItsReference : Prop :=
  (∀ (s : State) (ph : Int), s.get Reg.CLK_TIME_CTRL.FREE = 0 →
    (s.get Reg.CLK_TIME_STATUS.MODE ≠ 1 → ∃ t, exec (.refQualified ph) s = .next t ∧ t.get Reg.CLK_TIME_STATUS.MODE = 0
      ∧ t.get Reg.CLK_TIME_STATUS.REF_OK = 1 ∧ t.now = s.now ∧ t.doms = s.doms)
    ∧ (s.get Reg.CLK_TIME_STATUS.MODE = 1 → s.tickEn = true → ph ≠ 0 → ∃ t, exec (.refQualified ph) s = .next t
      ∧ t.get Reg.CLK_TIME_STATUS.SLEWING = 1 ∧ t.get Reg.CLK_TIME_STATUS.MODE = 1
      ∧ t.get Reg.CLK_TIME_STATUS.PHASE_ERR = wrapInt 16 ph ∧ t.clk.slewAt = s.now ∧ t.now = s.now ∧ t.doms = s.doms)
    ∧ (s.get Reg.CLK_TIME_STATUS.MODE = 1 → s.tickEn = false → 0 ≤ ph → s.now + (ph.toNat + 8) / 16 < 2 ^ 64 →
      ∃ t, exec (.refQualified ph) s = .next t ∧ t.get Reg.CLK_TIME_STATUS.MODE = 0 ∧ t.now = s.now + (ph.toNat + 8) / 16
      ∧ t.doms = s.doms))
  ∧ (∀ s : State, s.get Reg.CLK_TIME_STATUS.MODE = 0 → s.get Reg.CLK_REF_LOSS_COUNT.COUNT + 1 < 2 ^ 32 →
    ∃ t, exec .referenceLost s = .next t ∧ t.get Reg.CLK_TIME_STATUS.MODE = 1 ∧ t.get Reg.CLK_TIME_STATUS.REF_OK = 0
      ∧ t.get Reg.CLK_TIME_STATUS.REF_LOST = 1 ∧ t.get Reg.CLK_REF_LOSS_COUNT.COUNT = s.get Reg.CLK_REF_LOSS_COUNT.COUNT + 1
      ∧ t.get Reg.CLK_TIME_STATUS.SLEWING = 0 ∧ t.get Reg.CLK_TIME_STATUS.PHASE_ERR = 0
      ∧ t.clk.lostAt = some (s.now : Int) ∧ t.doms = s.doms ∧ t.bulk = s.bulk ∧ (s.logClear → loggedOne s t 0xC0))
  ∧ (∀ (s : State) (g : Int), s.get Reg.CLK_TIME_STATUS.MODE = 1 → s.clk.lostAt = some g → s.clk.holdLogged = false →
    (s.get Reg.CLK_HOLDOVER_LIMIT.LIMIT = 0 → exec .holdoverLimitExceeded s = .next s)
    ∧ (s.get Reg.CLK_HOLDOVER_LIMIT.LIMIT ≠ 0 → s.steady → ∃ t, exec .holdoverLimitExceeded s = .next t
      ∧ t.get Reg.CLK_TIME_STATUS.HOLDOVER_EXPIRED = 1 ∧ t.now = max s.now (g + s.get Reg.CLK_HOLDOVER_LIMIT.LIMIT * 1000).toNat
      ∧ t.clk.holdLogged = true ∧ (s.logClear → loggedOne s t 0xC8) ∧ t.doms = s.doms ∧ t.bulk = s.bulk))
  ∧ (∀ s : State, s.get Reg.CLK_TIME_STATUS.SLEWING = 1 → ∃ t, exec .phaseSlewEnd s = .next t
    ∧ t.get Reg.CLK_TIME_STATUS.SLEWING = 0 ∧ t.get Reg.CLK_TIME_STATUS.PHASE_ERR = 0 ∧ t.get Reg.CLK_TIME_STATUS.MODE = 0
    ∧ t.now = s.now ∧ t.doms = s.doms ∧ t.bulk = s.bulk)
  ∧ (∀ (s : State) (w : Who) (v : Word), s.postFree w = true → s.hostOpen w Reg.CLK_GLACIER_HI.addr = true →
    s.mayField w Reg.CLK_GLACIER_HI.addr .rw = true →
    (s.tickEn = false → exec (.clkGlacierWrite w v) s
      = .next { s with clk := { s.clk with load := some (s.clk.glacierLo.toNat + v.toNat <<< 32) } })
    ∧ (s.tickEn = true → exec (.clkGlacierWrite w v) s = .next (s.put Reg.CLK_TIME_STATUS.SET_REJECT 1)))

/-! ## Ubnov -/

/-- UBN_PACKET_RECEIVE, INGRESS_RELEASE and EGRESS_SEND (R323, R329, R331 to R334, R336, R338 to R340, R346): a frame under which
a codeword was uncorrectable, or that fails its CRC or breaks the header's rules, is asked for again, once, and every later one
is discarded until it comes; a good one is acknowledged and goes to the ingress pool, to its target or on by its route with
HOPS one less, and its link credit returns as it leaves the receive buffer, where it stays while there is no room in egress;
the pool's next packet goes over the mesh to its ashlar while the slice's landing buffer gives credit (R64); a packet leaves with link
credit and an end-to-end credit. When a receive buffer's credit returns, what a packet without payload takes, and which headers the
tables shut out, are the model's choices (log entries 40, 31, 116). -/
def Obligations.PacketsCrossPorts : Prop :=
  (∀ (s : State) (p seq vc : Nat) (h0 h1 : Quad) (pl : List Byte) (crc fec : Bool), p < 32 →
    let st := s.get (Reg.UBN_PORT_STATUS.STATE p)
    let k := readHeader h0 h1 pl p
    let x := s.port p
    let q := x.rxSeq
    let good := crc && headerFits h0 h1 pl && decide (vc = k.vc)
    let go (t : State) : Prop := exec (.ubnPacketReceive p h0 h1 pl crc seq vc fec) s = .next t ∧ t.bulk = s.bulk
    let dropped (t : State) : Prop := (t.port p).rxSeq = q ∧ (t.port p).nakked = true ∧ t.fab = s.fab
      ∧ (x.nakked = true → seq ≠ q → t.out = s.out) ∧ (x.nakked = false ∨ seq = q → t.out = s.out ++ [.nak p q])
    let taken (t : State) : Prop := (t.port p).rxSeq = (q + 1) % 65536 ∧ (t.port p).nakked = false ∧ Out.ack p q ∈ t.out
      ∧ t.get (Reg.UBN_PORT_RX_PKTS.COUNT p) = s.get (Reg.UBN_PORT_RX_PKTS.COUNT p) + 1
    let freed (t : State) : Prop := Out.credit p k.vc (max 1 k.grans) ∈ t.out
    (st ≠ 2 → st ≠ 3 → go s)
    ∧ (st = 2 ∨ st = 3 → fec = false → s.get (Reg.UBN_PORT_FEC_UE.COUNT p) + 1 < 2 ^ 32 →
      ∃ t, go t ∧ dropped t ∧ t.get (Reg.UBN_PORT_FEC_UE.COUNT p) = s.get (Reg.UBN_PORT_FEC_UE.COUNT p) + 1
        ∧ sameRegs s t fun a => a = Reg.UBN_PORT_FEC_UE.addr p)
    ∧ (st = 2 ∨ st = 3 → fec = true → good = false → s.get (Reg.UBN_PORT_CRC_ERR.COUNT p) + 1 < 2 ^ 32 →
      ∃ t, go t ∧ dropped t ∧ t.get (Reg.UBN_PORT_CRC_ERR.COUNT p) = s.get (Reg.UBN_PORT_CRC_ERR.COUNT p) + 1
        ∧ sameRegs s t fun a => a = Reg.UBN_PORT_CRC_ERR.addr p)
    ∧ (st = 2 ∨ st = 3 → fec = true → good = true → seq ≠ q → ∃ t, go t ∧ dropped t ∧ t.regs = s.regs)
    ∧ (st = 3 → fec = true → good = true → seq = q → k.mc = false → s.get (Reg.UBN_PORT_RX_PKTS.COUNT p) + 1 < 2 ^ 32 →
      (k.typ ∈ [0, 2] → k.dstMod = s.moduleId → s.reachable k.dst = true → placeFits k = true →
        s.replayBars (partOf k.dst) k = false →
        (k.typ = 0 → s.accepts (partOf k.dst) k = true) → s.get Reg.UBN_POOL_STATUS.IN_USE < 8192 →
        ∃ t, go t ∧ taken t ∧ freed t ∧ t.fab.pool = s.fab.pool ++ [{ k with id := s.fab.nextId }]
          ∧ t.get Reg.UBN_POOL_STATUS.IN_USE = s.get Reg.UBN_POOL_STATUS.IN_USE + 1)
      ∧ (k.typ = 0 → k.dstMod = s.moduleId → s.reachable k.dst = true → placeFits k = true → s.replayBars (partOf k.dst) k = false →
        s.accepts (partOf k.dst) k = false →
        s.get (Reg.MGT_PART_INGRESS_DENIED.COUNT (partOf k.dst)) + 1 < 2 ^ 32 →
        ∃ t, go t ∧ taken t ∧ freed t ∧ t.get (Reg.MGT_PART_INGRESS_DENIED.COUNT (partOf k.dst))
            = s.get (Reg.MGT_PART_INGRESS_DENIED.COUNT (partOf k.dst)) + 1
          ∧ t.fab.pool = s.fab.pool ∧ t.fab.land = s.fab.land ∧ t.get Reg.UBN_STATUS.UNREACHABLE = 1)
      ∧ (k.typ ≠ 3 → k.dstMod ≠ s.moduleId → k.hops ≠ 0 → s.fab.fwd = [] → ∀ o, s.routeOf k = some o → o < 32 →
        (s.egressRoom o k = true → ∃ t, go t ∧ taken t ∧ freed t
          ∧ (t.port o).egress = (s.port o).egress ++ [(k.vc, { k with hops := k.hops - 1 })] ∧ t.fab = s.fab)
        ∧ (s.egressRoom o k = false → ∃ t, go t ∧ taken t ∧ t.out = s.out ++ [.ack p q] ∧ t.fab.fwd = [k]
          ∧ ∀ i, (t.port i).egress = (s.port i).egress))
      ∧ (k.typ ≠ 3 → k.dstMod ≠ s.moduleId → k.hops = 0 →
        ∃ t, go t ∧ taken t ∧ freed t ∧ t.get Reg.UBN_STATUS.HOP_LIMIT = 1 ∧ t.fab.pool = s.fab.pool ∧ t.fab.fwd = s.fab.fwd)))
  ∧ (∀ (s : State) (ash w : Nat),
    (s.nextPooled ash = none → exec (.ingressRelease ash w) s = .next s)
    ∧ (w < s.wallNow (s.domOf ash) ∨ w < mapGet 0 s.fab.lastRel ash → exec (.ingressRelease ash w) s = .next s)
    ∧ (∀ k, s.nextPooled ash = some k → s.sliceFull ash k.addr w = true → exec (.ingressRelease ash w) s = .next s)
    ∧ (∀ k, s.nextPooled ash = some k → s.wallNow (s.domOf ash) ≤ w → mapGet 0 s.fab.lastRel ash ≤ w → k.payload.length = 64 →
      s.sliceFull ash k.addr w = false →
      ∃ t, exec (.ingressRelease ash w) s = .next t ∧ (∀ x ∈ t.fab.pool, x.id ≠ k.id)
        ∧ t.fab.land.map (fun g => { g with slack := none }) = s.fab.land.map (fun g => { g with slack := none }) ++ [{
            ash := ash
            addr := k.addr
            data := k.payload
            ready := w + s.stopLat k.inPort ash true + 1
            final := true
            cairn := k.cairn
            inc := k.inc
            src := .ubn k.srcMod k.srcAsh k.entry k.inPort 0 true
            pkt := k.id
            start := k.addr
            slack := none
            org := some (1024 + k.inPort)
            stream := k.stream
            hand := s.fab.nextId + 1
            word0 := k.word0 }]
        ∧ mapGet 0 t.fab.lastRel ash = w + 1 ∧ t.regs = s.regs ∧ t.bulk = s.bulk))
  ∧ (∀ (s : State) (p vc ce i : Nat) (k : Pkt), p < 32 → s.get (Reg.UBN_PORT_STATUS.STATE p) = 3 → (s.port p).replaying = none →
    s.nextOut vc (s.port p).egress [] 0 = some (i, k) → retryBytes (s.port p).retry + k.payload.length + 28 ≤ 262144 →
    s.get (Reg.UBN_PORT_TX_PKTS.COUNT p) + 1 < 2 ^ 32 → s.get Reg.TILE_MESH_CE_COUNT.COUNT + ce < 2 ^ 32 →
    (s.linkRoom p vc k.grans = true → s.fab.waits = [] → s.fab.inj = [] → s.fab.fwd = [] → s.mor.relayWait = [] →
      ∃ t, exec (.egressSend p vc ce) s = .next t
      ∧ (t.port p).retry = (s.port p).retry ++ [⟨(s.port p).nextSeq, k, 0⟩] ∧ (t.port p).egress = dropAt (s.port p).egress i
      ∧ (t.port p).nextSeq = ((s.port p).nextSeq + 1) % 65536 ∧ t.out = s.out ++ [.frame p (s.port p).nextSeq vc k]
      ∧ mapGet 0 (t.port p).creditUsed vc = mapGet 0 (s.port p).creditUsed vc + max 1 k.grans
      ∧ t.get (Reg.UBN_PORT_TX_PKTS.COUNT p) = s.get (Reg.UBN_PORT_TX_PKTS.COUNT p) + 1
      ∧ t.get Reg.TILE_MESH_CE_COUNT.COUNT = s.get Reg.TILE_MESH_CE_COUNT.COUNT + ce
      ∧ (s.needsCredit k = true → t.credUsed k.dstMod k.net = s.credUsed k.dstMod k.net + 1)
      ∧ (s.needsCredit k = false → t.fab.used = s.fab.used) ∧ t.bulk = s.bulk)
    ∧ (s.linkRoom p vc k.grans = false → exec (.egressSend p vc ce) s = .next s))

/-- CREDIT_GRANT_ARRIVAL, RESV_APPLY, MC_COPY_RELEASE and MULTICAST_STUCK (R335, R336, R337, R344): grants are kept by
destination; reservations of more than 8,192 slots, or under an armed domain, are refused; a held copy goes when link credit
returns, behind the earlier ones of its source, and is reported once after 1 ms. Where a copy's receive buffer is freed, and what
becomes of packets whose grant is lowered to 0, are the model's choices (log entries 40, 117). -/
def Obligations.GrantsAndHeldCopies : Prop :=
  (∀ (s : State) (md req rpl : Nat), md < 4096 → req < 8 → rpl < 8 → ∃ t, exec (.creditGrantArrival md req rpl) s = .next t
    ∧ t.get (Reg.UBN_CRED.REQ md) = req ∧ t.get (Reg.UBN_CRED.RPL md) = rpl ∧ t.fab = s.fab ∧ t.bulk = s.bulk
    ∧ sameRegs s t fun a => a = Reg.UBN_CRED.addr md)
  ∧ (∀ (s : State) (w : Who) (v : Word), s.postFree w = true → s.hostOpen w Reg.UBN_CTRL.addr = true →
    s.mayField w Reg.UBN_CTRL.addr .rw = true →
    bitOf v.toNat 8 = true →
    (resvSum s.resvWords ≤ 8192 → s.anyArmed = false → ∃ t, exec (.resvApply w v) s = .next t ∧ t.fab.granted = s.resvWords
      ∧ t.out = s.out ++ [.grants s.resvWords] ∧ t.get Reg.UBN_POOL_STATUS.RESERVED = resvSum s.resvWords
      ∧ t.get Reg.UBN_CTRL.HOP_LIMIT = v.toNat % 32
      ∧ t.get Reg.UBN_STATUS.RESV_REJECT = s.get Reg.UBN_STATUS.RESV_REJECT)
    ∧ (8192 < resvSum s.resvWords ∨ s.anyArmed = true → ∃ t, exec (.resvApply w v) s = .next t
      ∧ t.get Reg.UBN_STATUS.RESV_REJECT = 1 ∧ t.fab = s.fab ∧ t.out = s.out
      ∧ t.get Reg.UBN_POOL_STATUS.RESERVED = s.get Reg.UBN_POOL_STATUS.RESERVED))
  ∧ (∀ (s : State) (i : Nat) (h : McHold), s.fab.holds[i]? = some h → h.port < 32 → s.portUp h.port h.pkt.cls = true →
    (∀ x ∈ s.fab.holds.take i, ¬ (x.port = h.port ∧ x.pkt.srcMod = h.pkt.srcMod ∧ x.pkt.srcAsh = h.pkt.srcAsh)) →
    (s.copyRoom h.port h.pkt = true → ∃ t, exec (.mcCopyRelease i) s = .next t
      ∧ t.fab.holds = dropAt s.fab.holds i ∧ (t.port h.port).egress = (s.port h.port).egress ++ [(h.pkt.vc, h.pkt)]
        ∧ t.regs = s.regs)
    ∧ (s.copyRoom h.port h.pkt = false → exec (.mcCopyRelease i) s = .next s))
  ∧ (∀ (s : State) (i j : Nat) (h x : McHold), s.fab.holds[i]? = some h → s.fab.holds[j]? = some x → j < i → x.port = h.port →
    x.pkt.srcMod = h.pkt.srcMod → x.pkt.srcAsh = h.pkt.srcAsh → exec (.mcCopyRelease i) s = .next s)
  ∧ (∀ (s : State) (i : Nat) (h : McHold), s.fab.holds[i]? = some h → h.pkt.dst < 4096 →
    (h.logged = true → exec (.multicastStuck i) s = .next s)
    ∧ (h.logged = false → s.steady → ∃ t, exec (.multicastStuck i) s = .next t ∧ t.get Reg.UBN_STATUS.MC_STUCK = 1
      ∧ t.fab.holds[i]? = some { h with logged := true } ∧ t.now = max s.now (h.since + 100000)
      ∧ t.get Reg.UBN_FAULT_INFO.VALID = 1 ∧ (s.logClear → loggedOne s t 0x61) ∧ t.bulk = s.bulk))

/-- LINK_ACK, LINK_REPLAY, REPLAY_COMPLETE and LINK_DOWN (R331, R346 to R348): acknowledged frames leave the retry buffer and the
credit that a control word brings is free again; a replay sends the named frame and all after it again and ends later, and while
the port narrows there is none (R324); a frame replayed MAX times, as a lost lane group, takes the port down, and the packets of
its retry buffer and egress are discarded with STATUS 2. The moment at which MAX replays take it down, and the source field of an
answer in an ashlar's place, are the model's choices (log entries 68, 35). -/
def Obligations.LinksRetryAndFail : Prop :=
  (∀ (s : State) (p seq i : Nat), p < 32 → (s.port p).retry.findIdx? (fun f => f.seq = seq) = some i → s.fab.waits = [] →
    s.fab.inj = [] →
    ∀ credits : List (Nat × Nat), ∃ t, exec (.linkAck p (some seq) credits) s = .next t
      ∧ (t.port p).retry = (s.port p).retry.drop (i + 1)
      ∧ (∀ vc n, credits = [(vc, n)] → ∀ v, mapGet 0 (t.port p).creditUsed v
          = if v = vc then mapGet 0 (s.port p).creditUsed v - n else mapGet 0 (s.port p).creditUsed v)
      ∧ (t.port p).egress = (s.port p).egress ∧ t.regs = s.regs ∧ t.doms = s.doms ∧ t.bulk = s.bulk)
  ∧ (∀ (s : State) (p seq : Nat), s.get (Reg.UBN_PORT_STATUS.STATE p) = 4 → exec (.linkReplay p seq) s = .next s)
  ∧ (∀ (s : State) (p seq i : Nat), p < 32 → (s.port p).retry.findIdx? (fun f => f.seq = seq) = some i →
    s.get (Reg.UBN_PORT_STATUS.STATE p) ≠ 4 →
    let frames := (s.port p).retry.drop i
    ((∀ f ∈ frames, f.count < s.get (Reg.UBN_PORT_RETRY_MAX.MAX p)) → s.get (Reg.UBN_PORT_REPLAYS.COUNT p) + 1 < 2 ^ 32 →
      ∃ t, exec (.linkReplay p seq) s = .next t ∧ t.out = s.out ++ frames.map (fun f => Out.frame p f.seq f.pkt.vc f.pkt)
        ∧ (t.port p).retry = (s.port p).retry.take i ++ frames.map (fun f => { f with count := f.count + 1 })
        ∧ (t.port p).replaying = some s.now ∧ t.get (Reg.UBN_PORT_STATUS.REPLAYING p) = 1
        ∧ t.get (Reg.UBN_PORT_REPLAYS.COUNT p) = s.get (Reg.UBN_PORT_REPLAYS.COUNT p) + 1 ∧ t.bulk = s.bulk)
    ∧ ((∃ f ∈ frames, s.get (Reg.UBN_PORT_RETRY_MAX.MAX p) ≤ f.count) →
      exec (.linkReplay p seq) s = exec (.linkDown p) s))
  ∧ (∀ (s : State) (p n g : Nat), p < 32 → (s.port p).replaying = some g → s.steady → ∃ t, exec (.replayComplete p n) s = .next t
    ∧ (t.port p).replaying = none ∧ t.get (Reg.UBN_PORT_STATUS.REPLAYING p) = 0 ∧ t.now = max s.now (g + n)
    ∧ (∀ d < 12, ∀ f ∈ (t.dom d).frz, f.ref = .port p → f.clr ≠ none) ∧ t.bulk = s.bulk)
  ∧ (∀ (s : State) (p : Nat), p < 32 → s.get (Reg.UBN_PORT_STATUS.STATE p) ≠ 0 →
    (∀ h ∈ s.fab.holds, h.port ≠ p) → s.fab.waits = [] → s.fab.inj = [] → s.fab.fwd = [] → s.mor.relayWait = [] →
    let lost := (s.port p).retry.map (·.pkt) ++ (s.port p).egress.map (·.2)
    let data (k : Pkt) : Prop := k.mc = false ∧ k.typ ≠ 3 ∧ k.typ ≠ 5
    let down (t : State) : Prop := exec (.linkDown p) s = .next t
      ∧ t.get (Reg.UBN_PORT_STATUS.STATE p) = 0 ∧ t.get (Reg.UBN_PORT_STATUS.DOWN_EVENT p) = 1
      ∧ t.get (Reg.UBN_NBR_VERDICT.LOCAL p) = 0 ∧ (s.logClear → loggedOne s t 0x60) ∧ t.bulk = s.bulk
      ∧ (t.port p).retry = [] ∧ (t.port p).egress = []
      ∧ t.get Reg.UBN_STATUS.UNRECOVERED = (if lost = [] then s.get Reg.UBN_STATUS.UNRECOVERED else 1)
    ((∀ k ∈ lost, data k ∧ k.srcMod = s.moduleId) → ∃ t, down t ∧ (∀ q, q ≠ p → t.port q = s.port q)
      ∧ t.fab.compl = s.fab.compl ++ lost.map (fun k => ⟨k.srcAsh, k.entry, 2, k.srcMod, k.id, 0⟩)
      ∧ { t.fab with compl := s.fab.compl, used := s.fab.used } = s.fab
      ∧ ((s.port p).retry = [] → t.fab.used = s.fab.used)
      ∧ (∀ f, (s.port p).retry = [f] → s.needsCredit f.pkt = true →
          t.credUsed f.pkt.dstMod f.pkt.net = s.credUsed f.pkt.dstMod f.pkt.net - 1))
    ∧ (∀ k q, lost = [k] → data k → k.srcMod ≠ s.moduleId → q ≠ p →
      s.routeOf { typ := 3, net := 1, cls := 2, dstMod := k.srcMod } = some q → s.get Reg.UBN_CTRL.HOP_LIMIT ≠ 0 →
      ∃ t, down t ∧ ∃ e, (t.port q).egress = (s.port q).egress ++ [e] ∧ e.2.typ = 3 ∧ e.2.dstMod = k.srcMod ∧ e.2.dst = k.srcAsh
        ∧ e.2.entry = k.entry ∧ e.2.addr = 2))

/-- LINK_NARROWED, NARROWING_DONE, LINK_BER_WINDOW, RETRAIN, LIGHT_RETURNS and PORT_TRAINED (R324, R325, R346, R356, R484): a
port whose lanes fail narrows to the first healthy group of the spec's order, or goes down with 0x60; a retrained port starts over in
TRAINING; a port without a healthy group cannot train; a committed port that has trained starts its identity exchange. What lanes and
symbols the command counts, and what RETRAIN discards, are the model's choices (log entries 41, 68). -/
def Obligations.PortsNarrowAndTrain : Prop :=
  (∀ (s : State) (p ok : Nat), p < 32 → s.get (Reg.UBN_PORT_STATUS.STATE p) ≠ 0 → ok < 256 →
    let st := s.get (Reg.UBN_PORT_STATUS.STATE p)
    (ok &&& (s.port p).lanes = (s.port p).lanes ∨ (st ≠ 3 ∧ st ≠ 4) → ∃ t, exec (.linkNarrowed p ok) s = .next t
      ∧ t.get (Reg.UBN_PORT_STATUS.STATE p) = st
      ∧ t.get (Reg.UBN_PORT_STATUS.LANE_OK p) = ok ∧ t.ports = s.ports ∧ t.bulk = s.bulk)
    ∧ (ok &&& (s.port p).lanes ≠ (s.port p).lanes → st = 3 ∨ st = 4 → ∀ g, pickLanes ok (popcount 8 (s.port p).lanes) = some g →
      ∃ t, exec (.linkNarrowed p ok) s = .next t ∧ t.get (Reg.UBN_PORT_STATUS.STATE p) = 4 ∧ (t.port p).lanes = g
        ∧ (t.port p).egress = (s.port p).egress ∧ (t.port p).retry = (s.port p).retry ∧ t.bulk = s.bulk)
    ∧ (ok &&& (s.port p).lanes ≠ (s.port p).lanes → st = 3 ∨ st = 4 → pickLanes ok (popcount 8 (s.port p).lanes) = none →
      ∃ t, exec (.linkNarrowed p ok) s = .next t ∧ t.get (Reg.UBN_PORT_STATUS.STATE p) = 0
        ∧ t.get (Reg.UBN_PORT_STATUS.DOWN_EVENT p) = 1 ∧ (t.port p).retry = [] ∧ (t.port p).egress = []
        ∧ ((s.port p).retry = [] → (s.port p).egress = [] → (∀ h ∈ s.fab.holds, h.port ≠ p) → s.fab.fwd = [] → s.fab.waits = [] →
            s.fab.inj = [] → s.logClear → loggedOne s t 0x60) ∧ t.bulk = s.bulk))
  ∧ (∀ (s : State) (p : Nat), p < 32 → s.get (Reg.UBN_PORT_STATUS.STATE p) = 4 → ∃ t, exec (.narrowingDone p) s = .next t
    ∧ t.get (Reg.UBN_PORT_STATUS.STATE p) = 3 ∧ t.get (Reg.UBN_PORT_STATUS.NARROWED p) = 1
    ∧ t.get (Reg.UBN_PORT_STATUS.WIDTH p) = widthOf (s.port p).lanes ∧ t.ports = s.ports ∧ t.bulk = s.bulk
    ∧ (s.logClear → loggedOne s t 0x66))
  ∧ (∀ (s : State) (p : Nat) (l : List Nat), p < 32 →
    (∀ i < 8, (l[i]?.getD 0) ≤ s.get (Reg.UBN_PORT_BER_THRESH.THRESH p)) →
    ∀ n, s.get (Reg.UBN_PORT_FEC_CE.COUNT p) + n < 2 ^ 32 → ∃ t, exec (.linkBerWindow p l n) s = .next t
    ∧ t.get (Reg.UBN_PORT_FEC_CE.COUNT p) = s.get (Reg.UBN_PORT_FEC_CE.COUNT p) + n
    ∧ (l.foldl (· + ·) 0 * 2 ≤ s.get (Reg.UBN_PORT_BER_THRESH.THRESH p) →
        t.get Reg.TEL_LINK_WARN.PORTS = s.get Reg.TEL_LINK_WARN.PORTS)
    ∧ (s.get (Reg.UBN_PORT_BER_THRESH.THRESH p) < l.foldl (· + ·) 0 * 2 → bitOf (t.get Reg.TEL_LINK_WARN.PORTS) p = true)
    ∧ t.get (Reg.UBN_PORT_STATUS.STATE p) = s.get (Reg.UBN_PORT_STATUS.STATE p) ∧ t.ports = s.ports ∧ t.bulk = s.bulk)
  ∧ (∀ (s : State) (w : Who) (p : Nat) (v : Word), p < 32 → s.postFree w = true → s.hostOpen w (Reg.UBN_PORT_CTRL.addr p) = true →
    s.mayField w (Reg.UBN_PORT_CTRL.addr p) .rw = true →
    (bitOf v.toNat 0 = true → bitOf v.toNat 3 = true → ∃ t, exec (.retrain w p v) s = .next t
      ∧ t.get (Reg.UBN_PORT_STATUS.STATE p) = 1 ∧ (t.port p).retry = [] ∧ (t.port p).trained = false ∧ (t.port p).exchAt = none
      ∧ t.bulk = s.bulk)
    ∧ (bitOf v.toNat 0 = true → bitOf v.toNat 3 = false → ∃ t, exec (.retrain w p v) s = .next t ∧ t.ports = s.ports
      ∧ t.get (Reg.UBN_PORT_CTRL.WIDTH_MAX p) = v.toNat / 2 % 4 ∧ sameRegs s t fun a => a = Reg.UBN_PORT_CTRL.addr p)
    ∧ (bitOf v.toNat 0 = false → ∃ t, exec (.retrain w p v) s = .next t ∧ t.get (Reg.UBN_PORT_STATUS.STATE p) = 0
      ∧ t.bulk = s.bulk))
  ∧ (∀ (s : State) (p : Nat), p < 32 → s.get (Reg.UBN_PORT_STATUS.STATE p) = 0 → s.get (Reg.UBN_PORT_CTRL.EN p) = 1 →
    exec (.lightReturns p) s = .next (s.put (Reg.UBN_PORT_STATUS.STATE p) 1))
  ∧ (∀ (s : State) (p rtt ok : Nat), p < 32 → rtt < 2 ^ 16 → ok < 256 → s.get (Reg.UBN_PORT_STATUS.STATE p) = 1 →
    (s.port p).trained = false →
    let group := if s.get (Reg.UBN_PORT_CTRL.WIDTH_MAX p) = 0 ∧ ok = 255 then some 255
      else pickLanes ok (if s.get (Reg.UBN_PORT_CTRL.WIDTH_MAX p) < 2 then 4 else 2)
    let fits (t : State) (g : Nat) : Prop := exec (.portTrained p rtt ok) s = .next t ∧ (t.port p).trained = true
      ∧ (t.port p).lanes = g
      ∧ t.get (Reg.UBN_PORT_RTT.RTT p) = rtt ∧ t.get (Reg.UBN_PORT_STATUS.WIDTH p) = widthOf g ∧ t.bulk = s.bulk
    (∀ g, group = some g → s.disc.committed = false → ∃ t, fits t g ∧ t.get (Reg.UBN_PORT_STATUS.STATE p) = 1 ∧ t.out = s.out)
    ∧ (∀ g, group = some g → s.disc.committed = true → ∃ t, fits t g ∧ (t.port p).exchAt = some s.now
        ∧ ∃ w0 w1, Out.identity p w0 w1 s.fuses.serial (List.replicate 5 0) ∈ t.out)
    ∧ (group = none → ∃ t, exec (.portTrained p rtt ok) s = .next t ∧ t.get (Reg.UBN_PORT_STATUS.STATE p) = 0
        ∧ (t.port p).trained = false ∧ t.get (Reg.UBN_PORT_STATUS.DOWN_EVENT p) = 1 ∧ t.bulk = s.bulk))

/-- PLAN_COMMIT, IDENTITY_FRAME, IDENT_TIMEOUT and PLANNED_LINK_MISSING (R354 to R360, R363): an armed domain refuses a commit; a
frame with a reserved bit set counts as none; one that the checks pass is accepted and the peer's accept makes the port UP; one
that a check fails is quarantined with the reason of the first; silence until the timeout is quarantined too; a planned port
without a verdict is missing. The wait that R361 asks of a group's member counts from the end of its training. Frames kept over a
commit, and the state that a new exchange shows, are the model's choices (log entries 69, 118). -/
def Obligations.NeighboursAreIdentified : Prop :=
  (∀ (s : State) (w : Who) (v : Word), s.postFree w = true → s.hostOpen w Reg.UBN_DISC_CTRL.addr = true →
    s.mayField w Reg.UBN_DISC_CTRL.addr .rw = true →
    bitOf v.toNat 0 = true →
    (s.anyArmed = true → ∃ t, exec (.planCommit w v) s = .next t ∧ t.get Reg.UBN_DISC_STATUS.COMMIT_REJECT = 1 ∧ t.disc = s.disc
      ∧ t.ports = s.ports)
    ∧ (s.anyArmed = false → ∃ t, exec (.planCommit w v) s = .next t ∧ t.disc.committed = true
      ∧ t.moduleId = s.get Reg.UBN_SELF.MODULE_ID ∧ t.disc.tag = s.get Reg.UBN_PLAN_ID.SYSTEM_TAG
      ∧ t.disc.gen = s.get Reg.UBN_PLAN_ID.PLAN_GEN ∧ t.get Reg.UBN_PART_LINKS_OK.READY = 0
      ∧ (∀ p < 32, (mapGet 0 t.disc.planLo p) = s.rw (Reg.UBN_PLAN_LO.addr p)) ∧ t.bulk = s.bulk))
  ∧ (∀ (s : State) (p : Nat) (w0 w1 w2 : Quad) (rest : List Quad), identityFits w0 w1 rest = false →
    exec (.identityFrame p w0 w1 w2 rest) s = .next s)
  ∧ (∀ (s : State) (p g : Nat) (w0 w1 w2 : Quad) (rest : List Quad),
    let f := readIdentity (w0, w1, w2)
    p < 32 → s.get (Reg.UBN_PORT_STATUS.STATE p) = 1 → identityFits w0 w1 rest = true → (s.port p).exchAt = some g →
    (∀ q < 32, q ≠ p → (s.port q).exchAt = none) → (s.port p).timedOut = false → s.get (Reg.UBN_NBR_VERDICT.LOCAL p) = 0 →
    (∀ r, s.earlyCheck p f = some r → ∃ t, exec (.identityFrame p w0 w1 w2 rest) s = .next t
      ∧ t.get (Reg.UBN_NBR_VERDICT.LOCAL p) = 2 ∧ t.get (Reg.UBN_NBR_VERDICT.REASON p) = r
      ∧ t.get (Reg.UBN_PORT_STATUS.STATE p) = 2 ∧ t.get Reg.UBN_DISC_STATUS.QUAR_EVENT = 1 ∧ (s.logClear → loggedOne s t 0x67)
      ∧ t.bulk = s.bulk)
    ∧ (s.earlyCheck p f = none → s.isPair p f = true → f.tier = s.planTier p →
      s.get (Reg.UBN_PORT_STATUS.LANE_OK p) &&& (s.port p).lanes = (s.port p).lanes →
      ∃ t, exec (.identityFrame p w0 w1 w2 rest) s = .next t
      ∧ t.get (Reg.UBN_NBR_VERDICT.LOCAL p) = 1 ∧ t.get (Reg.UBN_NBR_LO.MODULE_ID p) = f.md
      ∧ t.get (Reg.UBN_PORT_STATUS.STATE p) = (if f.verdict = 1 then 3 else if f.verdict = 2 then 2 else 1) ∧ t.bulk = s.bulk))
  ∧ (∀ (s : State) (p g : Nat), p < 32 → (s.port p).exchAt = some g → (s.port p).frame = none → (s.port p).timedOut = false →
    (∀ q < 32, q ≠ p → (s.port q).exchAt = none) → s.get (Reg.UBN_NBR_VERDICT.LOCAL p) = 0 →
    s.get (Reg.UBN_PORT_STATUS.STATE p) = 1 → s.steady →
    (s.portHeard p = true ∨ g ≤ (s.port p).trainedAt → ∃ t, exec (.identTimeout p) s = .next t
      ∧ t.get (Reg.UBN_NBR_VERDICT.LOCAL p) = 2 ∧ t.get (Reg.UBN_NBR_VERDICT.REASON p) = 9
      ∧ t.get (Reg.UBN_PORT_STATUS.STATE p) = 2 ∧ t.now = max s.now (g + s.get Reg.UBN_IDENT_TIMEOUT.COUNTS) ∧ t.bulk = s.bulk)
    ∧ (s.portHeard p = false → (s.port p).trainedAt < g → ∃ t, exec (.identTimeout p) s = .next t
      ∧ t.get (Reg.UBN_NBR_VERDICT.LOCAL p) = 0 ∧ (t.port p).heard = true ∧ (t.port p).timedOut = false
      ∧ (t.port p).exchAt = some g ∧ t.now = max s.now ((s.port p).trainedAt + s.get Reg.UBN_IDENT_TIMEOUT.COUNTS)
        ∧ t.bulk = s.bulk))
  ∧ (∀ (s : State) (p : Nat), p < 32 → s.disc.committed = true → s.planUse p = 1 ∨ s.planUse p = 2 → (s.port p).missing = false →
    s.get (Reg.UBN_NBR_VERDICT.LOCAL p) = 0 → s.steady → ∃ t, exec (.plannedLinkMissing p) s = .next t ∧ (t.port p).missing = true
    ∧ t.get Reg.UBN_DISC_STATUS.MISSING_EVENT = 1 ∧ (s.logClear → loggedOne s t 0x68)
    ∧ t.now = max s.now (if s.get (Reg.UBN_PORT_CTRL.EN p) = 0 then s.now
        else max s.disc.commitAt (s.port p).downAt + 5000000 + s.get Reg.UBN_IDENT_TIMEOUT.COUNTS) ∧ t.bulk = s.bulk)

/-! ## Serving engines -/

/-- The completion ring of a partition can take `n` records of one slot: the host link is up and the ring is not full. -/
def ringOpen (s : State) (p n : Nat) : Prop :=
  let j := s.get (Reg.SRV_CTRL.CMPL_RING p)
  s.pciUp = true ∧ (s.get (Reg.SRV_RING_PROD.PROD p j) + 65536 - s.get (Reg.SRV_RING_CONS.CONS p j)) % 65536 + n
    ≤ 2 ^ s.get (Reg.SRV_RING_SIZE.SIZE p j)

/-- One completion record has gone to a partition's completion ring, of this context, tag and status (R374, R388). -/
def completed (s t : State) (p c tag status : Nat) : Prop :=
  let j := s.get (Reg.SRV_CTRL.CMPL_RING p)
  let prod := s.get (Reg.SRV_RING_PROD.PROD p j)
  let size := 2 ^ s.get (Reg.SRV_RING_SIZE.SIZE p j)
  t.get (Reg.SRV_RING_PROD.PROD p j) = (prod + 1) % 65536
    ∧ ∃ r : Rec, r.kind = 3 ∧ r.ctx = c ∧ r.part = p ∧ r.tag = tag ∧ r.status = status
      ∧ t.out = s.out ++ [.hostWrite (s.get2 (Reg.SRV_RING_BASE_LO.BASE p j) (Reg.SRV_RING_BASE_HI.BASE p j) + prod % size * 64)
          (quadBytes (r.words (prod / size % 2 = 0)))]

/-- The command `k`, of an operation, is at the head of its queue and due, and its completion has room. -/
def cmdReady (s : State) (p : Nat) (k : SrvCmd) (rest : List SrvCmd) (op : Nat) : Prop :=
  p < 12 ∧ k.ctx < 256 ∧ k.op = op ∧ (s.srvAt p).cmds = k :: rest ∧ s.cmdDue p k = true ∧ s.recording p = false ∧ ringOpen s p 1

/-- A command has left its queue and completed with a status. -/
def cmdEnds (s t : State) (p : Nat) (k : SrvCmd) (rest : List SrvCmd) (status : Nat) : Prop :=
  (t.srvAt p).cmds = rest ∧ completed s t p k.ctx k.tag status ∧ t.bulk = s.bulk

/-- OPEN, APPEND, GO, SET and CLOSE (R369, R373, R374): the effect of each on a context in a state that allows it, and STATUS 0;
in any other state STATUS 2, the context as it was. How ring positions are counted and to which ring a completion goes are the
model's choices (log entries 22, 24). -/
def Obligations.ContextCommands : Prop :=
  ∀ (s : State) (p : Nat) (k : SrvCmd) (rest : List SrvCmd),
    let st := s.ctxState p k.ctx
    let toks := ([k.arg0, k.arg1].filter fun w => w ≠ 0xFFFFFFFF).map (·.toNat)
    let kept (t : State) : Prop := cmdEnds s t p k rest 2 ∧ t.ctxState p k.ctx = st ∧ t.ctxLen p k.ctx = s.ctxLen p k.ctx
      ∧ (t.ctx p k.ctx).input = (s.ctx p k.ctx).input ∧ (t.ctx p k.ctx).pages = (s.ctx p k.ctx).pages
    (cmdReady s p k rest 1 → st = 0 → ∃ t, exec (.cmdOpen p) s = .next t ∧ cmdEnds s t p k rest 0 ∧ t.ctxState p k.ctx = 1
      ∧ t.ctxLen p k.ctx = 0 ∧ t.get (Reg.SRV_CTX_STATE.GAP p k.ctx) = 0 ∧ (t.ctx p k.ctx).input = [])
    ∧ (cmdReady s p k rest 1 → st ≠ 0 → ∃ t, exec (.cmdOpen p) s = .next t ∧ kept t)
    ∧ (cmdReady s p k rest 2 → st = 1 ∨ st = 2 → (∀ x ∈ toks, x ≤ s.get (Reg.SRV_CTX_CFG.VOCAB_M1 p k.ctx)) →
        (s.ctx p k.ctx).input.length + toks.length ≤ 64 →
        ∃ t, exec (.cmdAppend p) s = .next t ∧ cmdEnds s t p k rest 0
          ∧ (t.ctx p k.ctx).input = (s.ctx p k.ctx).input ++ toks ∧ t.ctxLen p k.ctx = s.ctxLen p k.ctx)
    ∧ (cmdReady s p k rest 2 → st ≠ 1 → st ≠ 2 → ∃ t, exec (.cmdAppend p) s = .next t ∧ kept t)
    ∧ (cmdReady s p k rest 3 → st = 1 → ∃ t, exec (.cmdGo p) s = .next t ∧ cmdEnds s t p k rest 0 ∧ t.ctxState p k.ctx = 2
        ∧ t.get (Reg.SRV_CTX_STATE.LATCH p k.ctx) = 0 ∧ (t.ctx p k.ctx).sinceGo = 0
        ∧ (t.ctx p k.ctx).penalty = (if bitOf k.arg0.toNat 0 then [] else (s.ctx p k.ctx).penalty))
    ∧ (cmdReady s p k rest 3 → st ≠ 1 → ∃ t, exec (.cmdGo p) s = .next t ∧ kept t)
    ∧ (cmdReady s p k rest 5 → st ≠ 0 → k.arg0.toNat ∈ [0x10, 0x14, 0x18, 0x1C, 0x20, 0x24, 0x30, 0x3C] →
        let a := Reg.SRV_CTX_STATE.addr p k.ctx + k.arg0.toNat
        ∃ t, exec (.cmdSet p) s = .next t ∧ cmdEnds s t p k rest 0 ∧ t.rw a = k.arg1
          ∧ sameRegs s t fun b => b = a ∨ b = Reg.SRV_RING_PROD.addr p (s.get (Reg.SRV_CTRL.CMPL_RING p)))
    ∧ (cmdReady s p k rest 5 → st = 0 ∨ k.arg0.toNat = 0xC → ∃ t, exec (.cmdSet p) s = .next t ∧ kept t)
    ∧ (cmdReady s p k rest 6 → st = 1 → ∃ t, exec (.cmdClose p) s = .next t ∧ cmdEnds s t p k rest 0 ∧ t.ctxState p k.ctx = 0
        ∧ t.ctxLen p k.ctx = 0 ∧ (t.ctx p k.ctx).pages = [] ∧ (t.ctx p k.ctx).input = [])
    ∧ (cmdReady s p k rest 6 → st ≠ 1 → ∃ t, exec (.cmdClose p) s = .next t ∧ kept t)

/-- PARK, RESUME, DROP, ABORT, TOUCH and an unknown opcode (R373, R374, R393 to R397): a park takes a handle and granules, a resume
pins its handle and takes pages; a dropped or aborted handle is free, once no resume reads it; TOUCH sets an expiry; STATUS 7
answers an unknown opcode; a command with AT_EN waits for the boundary of its course. What a handle keeps, what several resumes of it
do, and ring positions, are the model's choices (log entries 44, 97, 22). -/
def Obligations.ParkStoreCommands : Prop :=
  ∀ (s : State) (p : Nat) (k : SrvCmd) (rest : List SrvCmd),
    let st := s.ctxState p k.ctx
    (cmdReady s p k rest 7 → st = 1 → 1 ≤ k.arg0.toNat → k.arg0.toNat ≤ 86400000 → ∀ slot l, s.freeSlot = some slot →
        s.takeGrans (48 * s.pagesFor p (s.ctxLen p k.ctx) + 1) = some l →
        ∃ t, exec (.cmdPark p) s = .next t ∧ t.ctxState p k.ctx = 3 ∧ (t.srvAt p).cmds = rest ∧ t.out = s.out
          ∧ (t.ctx p k.ctx).xfer = some (slot, k.tag) ∧ t.bulk = s.bulk
          ∧ ∃ h, t.handleAt slot = some h ∧ h.grans = l ∧ h.valid = false ∧ h.part = p ∧ h.ctx = k.ctx
            ∧ h.len = s.ctxLen p k.ctx ∧ h.ttl = k.arg0.toNat ∧ h.entry = s.entryWords p k.ctx)
    ∧ (cmdReady s p k rest 7 → st ≠ 1 ∨ k.arg0.toNat = 0 ∨ 86400000 < k.arg0.toNat →
        ∃ t, exec (.cmdPark p) s = .next t ∧ cmdEnds s t p k rest 2 ∧ t.park = s.park)
    ∧ (cmdReady s p k rest 8 → st = 0 → ∀ h, s.lookup p k.arg0 = .found h → s.now < h.expiry →
        h.layout = s.get (Reg.SRV_KV_CFG.LAYOUT p) → s.pagesFor p h.len ≤ (s.freePages p).length →
        ∃ t, exec (.cmdResume p) s = .next t ∧ t.ctxState p k.ctx = 4 ∧ (t.srvAt p).cmds = rest ∧ t.out = s.out
          ∧ (t.ctx p k.ctx).pages = (s.freePages p).take (s.pagesFor p h.len)
          ∧ t.handleAt h.slot = some { h with pins := h.pins + 1 } ∧ t.bulk = s.bulk)
    ∧ (cmdReady s p k rest 8 → st = 0 → s.lookup p k.arg0 = .bad →
        ∃ t, exec (.cmdResume p) s = .next t ∧ cmdEnds s t p k rest 3 ∧ t.ctxState p k.ctx = 0 ∧ t.park = s.park)
    ∧ (cmdReady s p k rest 9 → ∀ h, s.lookup p k.arg0 = .found h →
        ∃ t, exec (.cmdDrop p) s = .next t ∧ cmdEnds s t p k rest 0
          ∧ t.handleAt h.slot = (if h.pinned then some { h with doomed := true } else none))
    ∧ (cmdReady s p k rest 10 → ringOpen s p 2 → st = 3 → ∀ slot tag, (s.ctx p k.ctx).xfer = some (slot, tag) →
        ∃ t, exec (.cmdAbort p) s = .next t ∧ t.ctxState p k.ctx = 1 ∧ t.handleAt slot = none ∧ (t.ctx p k.ctx).xfer = none
          ∧ (t.srvAt p).cmds = rest ∧ t.out.length = s.out.length + 2 ∧ t.bulk = s.bulk)
    ∧ (cmdReady s p k rest 11 → ∀ h, s.lookup p k.arg0 = .found h → 1 ≤ k.arg1.toNat → k.arg1.toNat ≤ 86400000 →
        ∃ t, exec (.cmdTouch p) s = .next t ∧ cmdEnds s t p k rest 0
          ∧ t.handleAt h.slot = some { h with expiry := s.now + k.arg1.toNat * 100000 })
    ∧ (∀ op, op = 0 ∨ 11 < op → cmdReady s p k rest op →
        ∃ t, exec (.badOpcodeCommand p) s = .next t ∧ cmdEnds s t p k rest 7 ∧ t.ctxState p k.ctx = st ∧ t.park = s.park)
    ∧ ((s.srvAt p).cmds = k :: rest → k.atEn = true → 1 ≤ k.op → k.op ≤ 11 →
        (∀ n, (s.srvAt p).boundary = some n → n % 65536 ≠ k.at_) →
        ∀ c ∈ [Instr.cmdOpen p, .cmdAppend p, .cmdGo p, .cmdCancel p, .cmdSet p, .cmdClose p, .cmdPark p, .cmdResume p, .cmdDrop p,
          .cmdAbort p, .cmdTouch p, .badOpcodeCommand p], exec c s = .next s)

/-- PARK_COMMIT, RESUME_COMMIT, RESUME_DATA_ERROR and HANDLE_EXPIRY (R393 to R397, R414): a committed park's handle is valid until
its expiry and its context FREE, its last granule holds the entry and the penalty table; a resume puts both back from it, with
LATCH, GAP and PEND_FULL; one that meets an uncorrectable row ends with STATUS 8 and frees the context; a handle that expires
gives its granules back. The packing of the last granule, that the copies are made as the park commits and the resume ends, and what
several resumes of a handle do, are the model's choices (log entries 44, 120, 97). -/
def Obligations.ParkedContexts : Prop :=
  (∀ (s : State) (slot : Nat) (h : Handle), s.handleAt slot = some h → h.part < 12 → h.ctx < 256 → h.valid = false →
    h.freed = false →
    s.ctxState h.part h.ctx = 3 → ringOpen s h.part 1 → s.bulk.upset = [] →
    (∀ a < 48, ∀ k < 8, s.sliceReady (ashOf h.part a) k = true) → ∃ t, exec (.parkCommit slot) s = .next t
    ∧ t.handleAt slot = some { h with valid := true, expiry := s.now + h.ttl * 100000 }
    ∧ t.ctxState h.part h.ctx = 0 ∧ t.ctxLen h.part h.ctx = 0 ∧ (t.ctx h.part h.ctx).pages = []
    ∧ completed s t h.part h.ctx h.tag 0 ∧ t.bulk.scratch = s.bulk.scratch
    ∧ ((∀ r, s.stackFailed r = false) → ∀ g, h.grans.getLast? = some g → t.morBytes (s.parkByte g) 65536 = lastGranule h)
    ∧ ∀ x, (∀ g ∈ h.grans, x < s.parkByte g ∨ s.parkByte g + 65536 ≤ x) → t.morByte x = s.morByte x)
  ∧ (∀ (s : State) (p c slot tag : Nat) (h : Handle), p < 12 → c < 256 → s.ctxState p c = 4 → (s.ctx p c).resumed = none →
    (s.ctx p c).xfer = some (slot, tag) → s.handleAt slot = some h → h.pins ≤ 1 → (s.ctx p c).keep = false ∨ h.doomed = true →
      ringOpen s p 1 →
    s.parkBad h = none → (∀ a < 48, ∀ k < 8, s.sliceReady (ashOf p a) k = true) →
    ∀ g, h.grans.getLast? = some g →
    let last := readLast (s.morBytes (s.parkByte g) 65536)
    ∃ t, exec (.resumeCommit p c) s = .next t ∧ (t.ctx p c).resumed = some (h.len, h.ctxGen) ∧ t.handleAt slot = none
    ∧ completed s t p c tag 0 ∧ t.entryWords p c = last.entry ∧ (t.ctx p c).penalty = last.penalty ∧ t.bulk.moraine = s.bulk.moraine
    ∧ t.get (Reg.SRV_CTX_STATE.LATCH p c) = bitsOf last.state.toNat 3 3
      ∧ t.get (Reg.SRV_CTX_STATE.GAP p c) = bitsOf last.state.toNat 5 5
    ∧ t.get (Reg.SRV_CTX_STATE.PEND_FULL p c) = bitsOf last.state.toNat 6 6)
  ∧ (∀ (s : State) (p c row slot tag : Nat), p < 12 → c < 256 → s.ctxState p c = 4 → (s.ctx p c).resumed = none →
    (s.ctx p c).xfer = some (slot, tag) → s.get Reg.MOR_UE_COUNT.COUNT + 1 < 2 ^ 32 → ringOpen s p 1 →
    (∀ h, s.handleAt slot = some h → h.pins ≤ 1) →
    ∃ t, exec (.resumeDataError p c row) s = .next t ∧ t.ctxState p c = 0 ∧ t.handleAt slot = none ∧ completed s t p c tag 8
    ∧ t.get Reg.MOR_UE_COUNT.COUNT = s.get Reg.MOR_UE_COUNT.COUNT + 1 ∧ t.rowBad row = true ∧ t.bulk = s.bulk
    ∧ (s.logClear → loggedOne s t 0x80))
  ∧ (∀ (s : State) (slot : Nat) (h : Handle), s.handleAt slot = some h → h.valid = true → h.pinned = false → h.expired = false →
    h.freed = false → s.get Reg.SRV_PARK_EXPIRED.COUNT + 1 < 2 ^ 32 → h.part < 12 → ringOpen s h.part 1 → s.steady →
      ∃ t, exec (.handleExpiry slot) s = .next t
    ∧ t.now = max s.now h.expiry ∧ t.get Reg.SRV_PARK_EXPIRED.COUNT = s.get Reg.SRV_PARK_EXPIRED.COUNT + 1
    ∧ t.handleAt slot = some (if s.get Reg.SRV_PARK_CTRL.HOLD_EXPIRED = 1 then { h with expired := true, pins := 0 }
        else { h with expired := true, pins := 0, freed := true, grans := [] })
    ∧ t.bulk = s.bulk)

/-- SERVING_BOUNDARY, CANCEL, FAST_CANCEL and SRV_CTX_WRITE (R370, R371, R375, R391): at a boundary up to 32 waiting inputs of a
context (here of an engine with one context in use) are committed; a cancel makes an ACTIVE context IDLE, sets its latch and
takes back what no EMIT has taken; entry fields are written only while the context is FREE. When a boundary comes, and that the next
one that waits follows it, are the model's choices (log entry 65). -/
def Obligations.BoundariesCancelsAndEntries : Prop :=
  (∀ (s : State) (p c k : Nat) (x : Ctx), p < 12 → c < 256 → (s.srvAt p).boundary = some k → (s.srvAt p).ctxs = [(c, x)] →
    (s.srvAt p).cmds = [] → (s.srvAt p).inbox = [] → x.resumed = none → x.input ≠ [] → s.recd.mode = 0 → s.recd.want = none →
    s.ctxState p c = 1 ∨ s.ctxState p c = 2 → s.get (Reg.SRV_CTX_CFG.CANCEL_EN p c) = 0 →
    s.ctxLen p c + min 32 x.input.length < 2 ^ 32 → ∃ t, exec (.servingBoundary p) s = .next t
      ∧ (t.srvAt p).boundary = (s.srvAt p).ticks.head? ∧ (t.srvAt p).ticks = (s.srvAt p).ticks.drop 1
    ∧ t.ctxLen p c = s.ctxLen p c + min 32 x.input.length ∧ (t.ctx p c).input = x.input.drop 32
    ∧ (t.ctx p c).inToks = x.input.take 32 ∧ t.bulk.scratch = s.bulk.scratch)
  ∧ (∀ (s : State) (p : Nat) (k : SrvCmd) (rest : List SrvCmd), cmdReady s p k rest 4 →
    (s.ctxState p k.ctx = 2 → ∃ t, exec (.cmdCancel p) s = .next t ∧ cmdEnds s t p k rest 0 ∧ t.ctxState p k.ctx = 1
      ∧ t.get (Reg.SRV_CTX_STATE.LATCH p k.ctx) = 1 ∧ (t.ctx p k.ctx).undo = []
      ∧ ((s.ctx p k.ctx).undo = [] → t.ctxLen p k.ctx = s.ctxLen p k.ctx))
    ∧ (s.ctxState p k.ctx ≠ 2 → ∃ t, exec (.cmdCancel p) s = .next t ∧ cmdEnds s t p k rest 2
      ∧ t.ctxState p k.ctx = s.ctxState p k.ctx ∧ t.ctxLen p k.ctx = s.ctxLen p k.ctx))
  ∧ (∀ (s : State) (w : Who) (p : Nat) (v : Word) (n : Nat) (pen : Option (Nat × Option PenEnt))
      (l : List (Nat × Option (Nat × Option PenEnt))),
    let c := v.toNat % 256
    p < 12 → s.postFree w = true → s.hostOpen w (Reg.SRV_DB_CANCEL.addr p) = true →
      s.mayField w (Reg.SRV_DB_CANCEL.addr p) .wo = true →
    s.replaying p = false → s.recording p = false →
    (s.ctxState p c = 2 → (s.ctx p c).undo = (n, pen) :: l → n < 2 ^ 32 → ∃ t, exec (.fastCancel w p v) s = .next t
      ∧ t.ctxState p c = 1 ∧ t.get (Reg.SRV_CTX_STATE.LATCH p c) = 1 ∧ t.ctxLen p c = n ∧ (t.ctx p c).hist = (s.ctx p c).hist.take n
      ∧ t.bulk = s.bulk)
    ∧ (s.ctxState p c ≠ 2 → ∃ t, exec (.fastCancel w p v) s = .next t ∧ t.ctxState p c = s.ctxState p c
      ∧ t.ctxLen p c = s.ctxLen p c ∧ t.bulk = s.bulk
      ∧ ((s.srvAt p).emitBuf = [] → ∃ r : Rec, (t.srvAt p).emitBuf = [.record r] ∧ r.kind = 2 ∧ r.status = 2
          ∧ r.tag = v.toNat / 65536)))
  ∧ (∀ (s : State) (w : Who) (p c off : Nat) (v : Word), p < 12 → c < 256 →
    let a := Reg.SRV_CTX_STATE.addr p c + off
    s.postFree w = true → s.hostOpen w a = true → s.mayField w a .rw = true → s.writeDenied w a = false →
    (s.ctxState p c = 0 → off ∈ [0x10, 0x14, 0x18, 0x1C, 0x20, 0x24, 0x30, 0x3C] →
      ∃ t, exec (.srvCtxWrite w p c off v) s = .next t ∧ t.rw a = v ∧ sameRegs s t fun b => b = a)
    ∧ (s.ctxState p c ≠ 0 → 8 ≤ off → off < 64 →
      exec (.srvCtxWrite w p c off v) s = .next (s.put (Reg.SRV_STATUS.ENTRY_REJECT p) 1)))

/-! ## The moraine outside the schedule -/

/-- SWAP_GO and SWAP_DONE (R416 to R418): a swap of an armed or busy partition is refused, one with an invalid entry reported;
when it is done the partition's entry and its bank are those of the library entry (stated for an entry without chain entries
and with one bank image); a row that cannot be read ends it with ERROR, and neither cornice nor moraine is written; the PF and Boluk
alone may ask for one (R431). What a swap has landed before a row that cannot be read, and that its copies are made as it ends,
are the model's choices (log entries 47, 120). -/
def Obligations.SwapsLoadLibraryEntries : Prop :=
  (∀ (s : State) (w : Who) (p : Nat), p < 12 → s.postFree w = true → s.hostOpen w (Reg.MOR_SWAP_CTRL.addr p) = true →
    s.mayField w (Reg.MOR_SWAP_CTRL.addr p) .wo = true → (∀ n, w ≠ .vf n) →
    let ws := s.entryAt (s.get (Reg.MOR_SWAP_ROW.ROW p))
    let rows := (List.range (ceilDiv ws.length 64)).map (s.get (Reg.MOR_SWAP_ROW.ROW p) + ·)
    let busy := s.armed (s.leadOf p) || s.get (Reg.MOR_SWAP_STATUS.BUSY p) = 1
    (busy = true → exec (.swapGo w p) s = .next (s.put (Reg.MOR_SWAP_STATUS.REFUSED p) 1))
    ∧ (busy = false → (∀ r ∈ rows, s.rowBad r = false) → s.entryValid p ws = true → ∃ t, exec (.swapGo w p) s = .next t
      ∧ t.get (Reg.MOR_SWAP_STATUS.BUSY p) = 1
      ∧ t.mor.swaps = s.mor.swaps ++ [⟨p, ws, s.now⟩] ∧ t.bulk = s.bulk ∧ sameRegs s t fun a => a = Reg.MOR_SWAP_STATUS.addr p)
    ∧ (busy = false → (∃ r ∈ rows, s.rowBad r = true) → s.get Reg.MOR_UE_COUNT.COUNT + 1 < 2 ^ 32 →
      ∃ t, exec (.swapGo w p) s = .next t ∧ t.get (Reg.MOR_SWAP_STATUS.ERROR p) = 1
        ∧ t.get Reg.MOR_UE_COUNT.COUNT = s.get Reg.MOR_UE_COUNT.COUNT + 1 ∧ t.mor.swaps = s.mor.swaps ∧ t.bulk = s.bulk)
    ∧ (busy = false → (∀ r ∈ rows, s.rowBad r = false) → s.entryValid p ws = false → ∃ t, exec (.swapGo w p) s = .next t
      ∧ t.get (Reg.MOR_SWAP_STATUS.INVALID p) = 1 ∧ t.mor = s.mor ∧ t.bulk = s.bulk ∧ (s.logClear → loggedOne s t 0x83)))
  ∧ (∀ (s : State) (p n : Nat), p < 12 → n < 12 → s.postFree (.vf n) = true → s.hostOpen (.vf n) (Reg.MOR_SWAP_CTRL.addr p) = true →
    s.get (Reg.MGT_PART_HOST_DENIED.COUNT n) + 1 < 2 ^ 32 → ∃ t, exec (.swapGo (.vf n) p) s = .next t ∧ t.mor = s.mor
      ∧ t.bulk = s.bulk
      ∧ t.get (Reg.MGT_PART_HOST_DENIED.COUNT n) = s.get (Reg.MGT_PART_HOST_DENIED.COUNT n) + 1
      ∧ sameRegs s t fun a => a = Reg.MGT_PART_HOST_DENIED.addr n)
  ∧ (∀ (s : State) (p : Nat) (x : Swap), p < 12 → s.mor.swaps = [x] → x.part = p →
    let chains := bitsOf (x.words[0]?.getD 0) 19 14
    (∀ r, s.rowBad r = false) → (∀ r ∈ swapRows p x.words, s.sliceReady r.2.1 (bitsOf r.2.2 24 22) = true) →
    ∃ t, exec (.swapDone p none) s = .next t
      ∧ t.get (Reg.MOR_SWAP_STATUS.BUSY p) = 0 ∧ t.get (Reg.MOR_SWAP_STATUS.DONE p) = 1 ∧ t.mor.swaps = []
      ∧ (chains = 0 → t.get (Reg.SEQ_ENTRY.ENTRY p) = (x.words[1]?.getD 0) % 2 ^ 17
          ∧ t.get (Reg.SEQ_NEXT_ENTRY.ENTRY p) = (x.words[1]?.getD 0) % 2 ^ 17)
      ∧ t.get (Reg.MOR_SWAP_TIME.COUNTS p) = (s.now - x.startG) % 2 ^ 32 ∧ t.bulk.moraine = s.bulk.moraine
      ∧ t.bulk.core = s.bulk.core
      ∧ (chains = 0 → ∀ b, banksOf x.words = [b] → b.2 < 12 → t.get (Reg.SEQ_BANK.STATE p b.2) = 1
          ∧ ∀ i < 512, t.cornice p (b.2 * 512 + i) = BitVec.ofNat 64 (leNat (s.morBytes (b.1 * 512 + 8 * i) 8)))
      ∧ (chains = 0 → t.flt = s.flt))
  ∧ (∀ (s : State) (p row : Nat) (x : Swap), p < 12 → s.mor.swaps = [x] → x.part = p → (∀ r, s.rowBad r = false) →
    row ∈ (swapRows p x.words).map (·.1) → s.get Reg.MOR_UE_COUNT.COUNT + 1 < 2 ^ 32 →
    (∀ r ∈ swapRows p x.words, s.sliceReady r.2.1 (bitsOf r.2.2 24 22) = true) →
    ∃ t, exec (.swapDone p (some row)) s = .next t ∧ t.get (Reg.MOR_SWAP_STATUS.BUSY p) = 0
      ∧ t.get (Reg.MOR_SWAP_STATUS.ERROR p) = 1 ∧ t.get (Reg.SEQ_ENTRY.ENTRY p) = s.get (Reg.SEQ_ENTRY.ENTRY p)
      ∧ t.get Reg.MOR_UE_COUNT.COUNT = s.get Reg.MOR_UE_COUNT.COUNT + 1 ∧ t.bulk.cornice = s.bulk.cornice
      ∧ t.bulk.moraine = s.bulk.moraine ∧ (s.logClear → loggedOne s t 0x80))

/-- A frame has left a port, or waits behind the pause of its priority (R528, R533). -/
def sentEth (s t : State) (e : Nat) (o : Out) : Prop :=
  (s.ethPaused e = false → (s.ethAt e).held = [] → t.out = s.out ++ [s.framed e o] ∧ (t.ethAt e).held = [])
    ∧ (s.ethPaused e = true ∨ (s.ethAt e).held ≠ [] → t.out = s.out ∧ (t.ethAt e).held = (s.ethAt e).held ++ [o])

/-- LOAD_SUBMIT, LOAD_COMPLETE and RDMA_LOAD_TIMEOUT (R419, R421, R529): a descriptor joins the queue of 64, and one whose destination
is valid is read from the remote side; the oldest load of the port completes, with its bytes at its destination and STATUS 0, that
of a chain once its last chunk has room in the relay buffer; one that fails or times out keeps the whole chunks that it has
fetched and completes with STATUS 1, one whose destination is not valid with STATUS 2; without a load of the port nothing happens.
Which chunks were fetched before a failure is the command's operand, and what a landing buffer, a shadow or a pause holds back
waits, by the model's choices (log entries 3, 119, 123). -/
def Obligations.LoadsFillTheMoraine : Prop :=
  (∀ (s : State) (w : Who) (v : Word), s.postFree w = true → s.hostOpen w Reg.MOR_LOAD_D7.addr = true →
    s.mayField w Reg.MOR_LOAD_D7.addr .wo = true →
    let r (i : Nat) : Nat := (mapGet 0 s.mor.loadRegs i).toNat
    let x : LoadDesc := { port := r 0 % 2, qpn := r 0 / 2 ^ 8, rkey := r 1, dkind := r 0 / 2 % 4, raddr := r 2 + r 3 * 2 ^ 32,
                          len := r 4, d5 := r 5, d6 := r 6, tag := v.toNat % 65536 }
    (64 ≤ s.mor.loads.length → exec (.loadSubmit w v) s = .next (s.put Reg.MOR_STATUS.LOAD_LOST 1))
    ∧ (s.mor.loads.length < 64 → ∃ t, exec (.loadSubmit w v) s = .next t ∧ t.mor.loads = s.mor.loads ++ [x]
      ∧ (s.loadFits x = true → sentEth s t x.port (.rdmaRead x.port x.qpn x.rkey x.raddr (4096 * x.len)))
      ∧ (s.loadFits x = false → t.out = s.out) ∧ t.regs = s.regs ∧ t.bulk = s.bulk))
  ∧ (∀ (s : State) (port : Nat) (x : LoadDesc), s.mor.loads.find? (fun y => y.port = port) = some x → s.mor.relayWait = [] →
    let l := dropAt s.mor.loads (s.mor.loads.findIdx fun y => y.port = port)
    let ends (t : State) (status : Nat) : Prop := t.mor.loads = l ∧ t.mor.cmpl = s.mor.cmpl ++ [(x.tag, status)]
    let clear : Prop := s.mor.writes = [] ∧ (∀ r, s.stackFailed r = false) ∧ s.inShadow x.d5 (8 * x.len) = false
    (∀ data, s.loadFits x = true → data.length = 4096 * x.len → ∃ t, exec (.loadComplete port 0 data) s = .next t ∧ t.mor.loads = l
        ∧ (x.dkind ≠ 3 → ends t 0)
        ∧ (x.dkind < 2 → clear →
            t.morBytes (x.d5 * 512) (4096 * x.len) = data ∧ t.bulk.scratch = s.bulk.scratch
            ∧ ∀ a, a < x.d5 * 512 ∨ x.d5 * 512 + 4096 * x.len ≤ a → t.morByte a = s.morByte a)
        ∧ (x.dkind = 2 → x.len = 1 → s.sliceFull (x.d6 % 1024) x.d5 (s.wallNow (s.domOf (x.d6 % 1024))) = false →
            t.fab.land.length = s.fab.land.length + 64 ∧ (t.fab.land.drop s.fab.land.length).flatMap (·.data) = data
            ∧ ∀ g ∈ t.fab.land.drop s.fab.land.length, g.ash = x.d6 % 1024 ∧ x.d5 ≤ g.addr ∧ g.addr < x.d5 + 4096)
        ∧ (x.dkind = 2 → x.len = 1 → s.sliceFull (x.d6 % 1024) x.d5 (s.wallNow (s.domOf (x.d6 % 1024))) = true →
            t.fab.land = s.fab.land ∧ t.mor.writes.map (·.data) = s.mor.writes.map (·.data) ++ [data])
        ∧ (x.dkind = 3 → x.len = 1 → s.relayRoom 4096 = true → ends t 0 ∧ t.mor.relayWait = [])
        ∧ (x.dkind = 3 → x.len = 1 → s.relayRoom 4096 = false → t.mor.cmpl = s.mor.cmpl
            ∧ t.mor.relayWait = [{ chain := x.d5 % 16, idx := 0, data, tag := some x.tag }]))
    ∧ (∀ status data, s.loadFits x = true → status ≠ 0 ∨ data.length ≠ 4096 * x.len →
        let n := min (x.len - 1) (data.length / 4096)
        ∃ t, exec (.loadComplete port status data) s = .next t ∧ ends t 1
        ∧ (x.dkind < 2 → clear → t.morBytes (x.d5 * 512) (4096 * n) = data.take (4096 * n)
            ∧ ∀ a, a < x.d5 * 512 ∨ x.d5 * 512 + 4096 * n ≤ a → t.morByte a = s.morByte a)
        ∧ (data.length < 4096 → t.bulk = s.bulk) ∧ (s.logClear → x.dkind < 2 ∨ data.length < 4096 → loggedOne s t 0x85))
    ∧ (∀ status data, s.loadFits x = false → ∃ t, exec (.loadComplete port status data) s = .next t ∧ ends t 2 ∧ t.bulk = s.bulk
        ∧ (s.logClear → loggedOne s t 0x85))
    ∧ (∀ data, exec (.rdmaLoadTimeout port data) s = exec (.loadComplete port 1 data) s))
  ∧ (∀ (s : State) (port status : Nat) (data : List Byte), s.mor.loads.find? (fun y => y.port = port) = none →
    exec (.loadComplete port status data) s = .next s ∧ exec (.rdmaLoadTimeout port data) s = .next s)

/-- MORAINE_WRITE_PERFORMED, RELAY_PACKET_ARRIVAL, MOR_CHAIN_WRITE and REFRESH_SHADOW (R411, R412, R420, R421, R424): the oldest
write waits for the end of its stack's refresh shadow and then stands in the moraine; a chunk of a valid chain is queued to
be written; a write to a chain's setting clears what it has received; shadows begin at the stack's own counts. That a write waits as a
whole for the shadows of its rows, and what a relay chunk for an ashlar lands as, are the model's choices (log entries 119, 46, 110). -/
def Obligations.WritesReachTheMoraine : Prop :=
  (∀ (s : State) (w : MorWrite) (l : List MorWrite), s.mor.writes = w :: l → w.land = none →
    (s.inShadow w.row w.rows = true → exec (.moraineWritePerformed 0) s = .next s)
    ∧ (s.inShadow w.row w.rows = false → (∀ r, s.stackFailed r = false) → w.chain = none ∨ s.mor.relayWait = [] →
      ∃ t, exec (.moraineWritePerformed 0) s = .next t ∧ t.mor.writes = l
        ∧ t.morBytes (w.row * 512 + w.off) w.data.length = w.data ∧ t.bulk.scratch = s.bulk.scratch
        ∧ (∀ a, a < w.row * 512 + w.off ∨ w.row * 512 + w.off + w.data.length ≤ a → t.morByte a = s.morByte a)
        ∧ (l.length < 128 → t.readView Reg.MOR_HOST_PENDING.addr = BitVec.ofNat 32 (l.filter fun x => x.host).length)
        ∧ (∀ c, w.chain = some c → w.host = false → c < 16 → s.get (Reg.MOR_CHAIN_RECV.RECV c) + 1 < 2 ^ 25 →
            t.get (Reg.MOR_CHAIN_RECV.RECV c) = s.get (Reg.MOR_CHAIN_RECV.RECV c) + 1
            ∧ (s.get (Reg.MOR_CHAIN_RECV.RECV c) + 1 = s.get (Reg.MOR_CHAIN_LEN.LEN c) → t.get (Reg.MOR_CHAIN_STATUS.DONE c) = 1))))
  ∧ (∀ (s : State) (i : Nat) (k : Pkt), s.fab.relayIn[i]? = some k →
    let valid := decide (k.dst < 16) && s.get (Reg.MOR_CHAIN_CFG.VALID k.dst) = 1 && decide (k.addr < s.get (Reg.MOR_CHAIN_LEN.LEN k.dst))
    (valid = false → ∃ t, exec (.relayPacketArrival i) s = .next t ∧ t.fab.relayIn = dropAt s.fab.relayIn i
      ∧ t.get Reg.UBN_STATUS.UNREACHABLE = 1 ∧ t.mor = s.mor ∧ t.bulk = s.bulk)
    ∧ (valid = true → s.get (Reg.MOR_CHAIN_CFG.LOCAL_KIND k.dst) = 1 → s.get (Reg.MOR_CHAIN_CFG.FWD_EN k.dst) = 0 →
      s.relayBytes + k.payload.length ≤ 1048576 → ∃ t, exec (.relayPacketArrival i) s = .next t
        ∧ t.fab.relayIn = dropAt s.fab.relayIn i
      ∧ t.mor.writes = s.mor.writes
          ++ [{ row := s.get (Reg.MOR_CHAIN_BASE.BASE k.dst) + 8 * k.addr, off := 0, data := k.payload, chain := some k.dst, idx := k.addr }]
      ∧ t.get Reg.UBN_POOL_STATUS.IN_USE = s.get Reg.UBN_POOL_STATUS.IN_USE - 1 ∧ t.bulk = s.bulk))
  ∧ (∀ (s : State) (w : Who) (c a : Nat) (v : Word), c < 16 →
    a ∈ [Reg.MOR_CHAIN_CFG.addr c, Reg.MOR_CHAIN_BASE.addr c, Reg.MOR_CHAIN_AUX.addr c, Reg.MOR_CHAIN_LEN.addr c] →
    s.postFree w = true → s.hostOpen w a = true → s.mayField w a .rw = true → ∃ t, exec (.morChainWrite w a v) s = .next t
    ∧ (∀ r, findRow a = some r → t.rw a = s.afterWrite w a r.fields v)
    ∧ (a = Reg.MOR_CHAIN_BASE.addr c → t.get (Reg.MOR_CHAIN_BASE.BASE c) = v.toNat)
    ∧ t.get (Reg.MOR_CHAIN_RECV.RECV c) = 0 ∧ t.bulk = s.bulk
    ∧ sameRegs s t fun b => b = a ∨ b = Reg.MOR_CHAIN_RECV.addr c)
  ∧ (∀ (s : State) (k : Nat), k < 32 →
    (((s.now : Int) - (12 * k : Nat)) % 390 = 0 → ∃ t, exec (.refreshShadow k) s = .next t
      ∧ mapGet 0 t.mor.shadow k = s.now + 32 ∧ t.regs = s.regs ∧ t.bulk = s.bulk)
    ∧ (((s.now : Int) - (12 * k : Nat)) % 195 ≠ 0 → exec (.refreshShadow k) s = .next s))

/-- MORAINE_READ_RETRY, MORAINE_PATROL_SCRUB, MORAINE_STACK_FAILED and MORAINE_STACK_HOT (R412, R414, R415, R426): a read
without error leaves no trace, one with corrected symbols is counted; an uncorrectable row is counted, logged and reads bad from
then on, and the domain of an STK that reads it halts; patrol scrub counts what it corrects; a failed stack stays failed, and a carrier
link that cannot retrain fails its eight stacks. How reads end and what fails are the commands' operands, and how long a row stays bad
is the model's choice (log entries 70, 71). -/
def Obligations.MoraineErrorsAreReported : Prop :=
  (∀ (s : State) (cls row i : Nat), exec (.moraineReadRetry cls row i 0) s = .next s)
  ∧ (∀ (s : State) (cls row i : Nat), s.get Reg.MOR_CE_COUNT.COUNT + 1 < 2 ^ 32 →
    ∃ t, exec (.moraineReadRetry cls row i 1) s = .next t ∧ t.get Reg.MOR_CE_COUNT.COUNT = s.get Reg.MOR_CE_COUNT.COUNT + 1
      ∧ t.bulk = s.bulk ∧ t.doms = s.doms ∧ sameRegs s t fun a => a = Reg.MOR_CE_COUNT.addr)
  ∧ (∀ (s : State) (row p : Nat), exec (.moraineReadRetry 3 row p 2) s = exec (.swapDone p (some row)) s)
  ∧ (∀ (s : State) (row i : Nat), s.get Reg.MOR_UE_COUNT.COUNT + 1 < 2 ^ 32 → ∃ t, exec (.moraineReadRetry 6 row i 2) s = .next t
    ∧ t.get Reg.MOR_UE_COUNT.COUNT = s.get Reg.MOR_UE_COUNT.COUNT + 1 ∧ t.get Reg.MOR_STATUS.UE = 1 ∧ t.rowBad row = true
    ∧ t.bulk = s.bulk ∧ (s.logClear → loggedOne s t 0x80))
  ∧ (∀ (s : State) (row i : Nat) (k : StkOp), s.fab.stks[i]? = some k → k.dir = false → k.started = true → k.mor ≤ row →
    row - k.mor ∈ k.left → k.ash < 576 → s.domOf k.ash < 12 →
    s.halted (s.domOf k.ash) = false → ∃ t, exec (.moraineReadRetry 1 row i 2) s = .next t
    ∧ t.halted (s.domOf k.ash) = true ∧ t.get (Reg.SEQ_HALT_CODE.CODE (s.domOf k.ash)) = 0x80
    ∧ t.running (s.domOf k.ash) = false ∧ t.armed (s.domOf k.ash) = false ∧ t.bulk.scratch = s.bulk.scratch)
  ∧ (∀ (s : State) (row res : Nat), s.get Reg.MOR_CTRL.SCRUB_EN = 1 → s.inAnyRegion row = true → s.rowBad row = false →
    (res = 0 → exec (.morainePatrolScrub row res) s = .next s)
    ∧ (res = 1 → s.get Reg.MOR_CE_COUNT.COUNT + 1 < 2 ^ 32 → ∃ t, exec (.morainePatrolScrub row res) s = .next t
      ∧ t.get Reg.MOR_CE_COUNT.COUNT = s.get Reg.MOR_CE_COUNT.COUNT + 1 ∧ t.bulk = s.bulk
      ∧ sameRegs s t fun a => a = Reg.MOR_CE_COUNT.addr)
    ∧ (res = 2 → s.get Reg.MOR_UE_COUNT.COUNT + 1 < 2 ^ 32 → ∃ t, exec (.morainePatrolScrub row res) s = .next t
      ∧ t.get Reg.MOR_UE_COUNT.COUNT = s.get Reg.MOR_UE_COUNT.COUNT + 1 ∧ t.rowBad row = true ∧ t.bulk = s.bulk))
  ∧ (∀ (s : State) (row res : Nat), s.get Reg.MOR_CTRL.SCRUB_EN = 0 → exec (.morainePatrolScrub row res) s = .next s)
  ∧ (∀ (s : State) (k : Nat), k < 32 →
    (s.get (Reg.MOR_STACK.STATE k) ≠ 2 → ∃ t, exec (.moraineStackFailed k) s = .next t ∧ t.get (Reg.MOR_STACK.STATE k) = 2
      ∧ t.get Reg.MOR_STATUS.STACK_FAILED = 1 ∧ (∀ r, stackOf r = k → t.rowBad r = true) ∧ t.bulk = s.bulk
      ∧ (s.logClear → loggedOne s t 0x82))
    ∧ (s.get (Reg.MOR_STACK.STATE k) = 2 → exec (.moraineStackFailed k) s = .next s)
    ∧ (∃ t, exec (.moraineStackFailed k true) s = .next t ∧ t.bulk = s.bulk
      ∧ (∀ i < 8, t.get (Reg.MOR_STACK.STATE (k / 8 * 8 + i)) = 2)
      ∧ ∀ j < 4, bitOf (t.get Reg.MOR_STATUS.LINK_UP) j = (bitOf (s.get Reg.MOR_STATUS.LINK_UP) j && decide (j ≠ k / 8))))
  ∧ (∀ (s : State) (k temp : Nat), k < 32 → temp < 256 → ∃ t, exec (.moraineStackHot k temp) s = .next t
    ∧ t.get (Reg.MOR_STACK.TEMP k) = temp
    ∧ t.get (Reg.MOR_STACK.STATE k) = (if s.get (Reg.MOR_STACK.STATE k) = 2 then 2 else if 85 < temp then 1 else 0)
    ∧ (85 < temp → s.get (Reg.MOR_STACK.STATE k) ≠ 2 → t.get Reg.MOR_STATUS.HOT = 1) ∧ t.bulk = s.bulk
    ∧ sameRegs s t fun a => a = Reg.MOR_STACK.addr k ∨ a = Reg.MOR_STATUS.addr)

/-! ## The firmware mailbox -/

/-- An instance of the mailbox is BUSY with a request of this opcode while Boluk runs, and it is its turn (R463). -/
def asks (s : State) (m op : Nat) : Prop :=
  m < 13 ∧ s.mbxBusy m = true ∧ s.mbxOpcode m = op ∧ s.mgmt.boluk = true ∧ s.mgmt.powered = true ∧ s.mbxTurn m = true

/-- A request has been answered: BUSY is clear, DONE set, and the response holds its opcode, status, tag, length and payload
(R462, R463). -/
def answered (s t : State) (m status : Nat) (payload : List Byte) : Prop :=
  let r := mbxBase m + 0x1000
  t.mbxBusy m = false ∧ t.get (mbxBit m 1) = 1
    ∧ t.rw r = BitVec.ofNat 32 (s.mbxOpcode m + status * 2 ^ 8 + s.mbxTag m * 2 ^ 16)
      ∧ t.rw (r + 4) = BitVec.ofNat 32 payload.length
    ∧ (∀ i w, i < 1022 → (wordsOf payload)[i]? = some w → t.rw (r + 8 + 4 * i) = BitVec.ofNat 32 w) ∧ t.bulk = s.bulk

/-- Registers that an answer writes: the response buffer and the status word of an instance. -/
def answerRegs (m a : Nat) : Prop := (mbxBase m + 0x1000 ≤ a ∧ a < mbxBase m + 0x2000) ∨ a = mbxBase m + 0x2004

/-- GET_INFO, FAULT_READ, POLICY_GET, POLICY_SET, PLAN_SET and an unknown opcode (R460 to R464, R495): what each answers; a request
that only the module's instance may make is DENIED from a partition's, a payload too short is a BAD_ARGUMENT (the model's choice, log
entry 55); a request whose instance does not have the turn waits. -/
def Obligations.MailboxRequestsAreAnswered : Prop :=
  ∀ (s : State) (m : Nat),
    let q := s.mbxQuad m 0
    let id := q % 256
    let v := q / 2 ^ 32
    (asks s m 1 → ∃ t, exec (.getInfo m) s = .next t ∧ answered s t m 0 s.infoBytes ∧ sameRegs s t (answerRegs m) ∧ t.doms = s.doms)
    ∧ (asks s m 6 → 4 ≤ s.mbxLen m → ∃ t, exec (.faultRead m) s = .next t ∧ answered s t m 0 (s.faultBytes m)
        ∧ sameRegs s t (answerRegs m) ∧ t.flt = s.flt)
    ∧ (asks s m 6 → s.mbxLen m < 4 → ∃ t, exec (.faultRead m) s = .next t ∧ answered s t m 2 [] ∧ sameRegs s t (answerRegs m))
    ∧ (asks s m 7 → 1 ≤ s.mbxLen m → 1 ≤ id → id ≤ 8 → ∃ t, exec (.policyGet m) s = .next t
        ∧ answered s t m 0 (leBytes 8 (id + s.mgmt.policy.value id * 2 ^ 32)) ∧ sameRegs s t (answerRegs m))
    ∧ (asks s m 7 → 1 ≤ s.mbxLen m → id = 0 ∨ 8 < id → ∃ t, exec (.policyGet m) s = .next t ∧ answered s t m 2 [])
    ∧ (asks s m 8 → m = 12 → 8 ≤ s.mbxLen m → policyOk id v = true → ∃ t, exec (.policySet m) s = .next t
        ∧ answered s t m 0 [] ∧ t.mgmt.policy.value id = v ∧ (id = 1 → t.get Reg.GOV_CAP.CAP_W = v)
        ∧ ∀ j, 1 ≤ j → j ≤ 8 → j ≠ id → t.mgmt.policy.value j = s.mgmt.policy.value j)
    ∧ (asks s m 8 → m ≠ 12 → ∃ t, exec (.policySet m) s = .next t ∧ answered s t m 3 [] ∧ t.mgmt.policy = s.mgmt.policy)
    ∧ (asks s m 9 → m = 12 → s.mbxLen m = 272 → bitOf ((wordsOf (s.mbxData m))[2]?.getD 0) 0 = false → s.anyArmed = false →
        ∃ t, exec (.planSet m) s = .next t ∧ answered s t m 0 [] ∧ t.disc.committed = true
          ∧ t.moduleId = ((wordsOf (s.mbxData m))[0]?.getD 0) % 2 ^ 12)
    ∧ (asks s m 9 → m = 12 → s.mbxLen m = 272 → bitOf ((wordsOf (s.mbxData m))[2]?.getD 0) 0 = false → s.anyArmed = true →
        ∃ t, exec (.planSet m) s = .next t ∧ answered s t m 4 [] ∧ t.disc = s.disc)
    ∧ (∀ op, op = 0 ∨ 9 < op → asks s m op → ∃ t, exec (.mailboxBadOpcode m) s = .next t ∧ answered s t m 1 []
        ∧ sameRegs s t (answerRegs m))
    ∧ (s.mbxTurn m = false → ∀ c ∈ [Instr.getInfo m, .imageWrite m, .imageCommit m, .mbxReset m, .faultRead m, .policyGet m, .policySet m,
        .planSet m, .mailboxBadOpcode m], exec c s = .next s)

/-- IMAGE_WRITE, IMAGE_COMMIT, RESET, PARTITION_LOAD, MCTP_MESSAGE and PLDM_FIRMWARE_UPDATE (R455, R464, R465, R536, R537): image
data go to the slot that is not selected; a commit selects it only if it verifies; a RESET does the reset it names; a
partition load of running domains is refused, one that may begin resets its partitions, and one that has begun ends with them out of
reset; a request by MCTP is the module's mailbox request, and the FRU EEPROM answers whenever input power is present. What a partition
reset keeps, what firmware does beside, and the messages' bodies, are the model's choices (log entries 53, 73, 48). -/
def Obligations.MailboxServesImagesAndResets : Prop :=
  (∀ (s : State) (m : Nat), m = 12 → 8 ≤ s.mbxLen m →
    let q := s.mbxQuad m 0
    let kind := q % 256
    let other := 1 - s.mgmt.flash.selected kind
    let data := (s.mbxData m).drop 8
    (asks s m 2 → imageWriteOk kind (q >>> 32) data.length = true → s.mgmt.updKind ≠ some kind → s.mgmt.flash.selected kind < 2 →
      ∃ t, exec (.imageWrite m) s = .next t ∧ answered s t m 0 []
        ∧ t.image kind other = writeAt (s.image kind other) (q >>> 32) data
        ∧ t.image kind (1 - other) = s.image kind (1 - other) ∧ t.mgmt.flash.selected kind = s.mgmt.flash.selected kind)
    ∧ (asks s m 3 → kind = 1 ∨ kind = 2 → s.mgmt.updKind ≠ some kind →
      let r := s.imageReason kind (s.image kind other) false
      ∃ t, exec (.imageCommit m) s = .next t
        ∧ answered s t m (if r = 0 then 0 else 5) (if r = 0 then [] else leBytes 8 r)
        ∧ t.mgmt.flash.selected kind = (if r = 0 then other else s.mgmt.flash.selected kind)
          ∧ t.image kind other = s.image kind other)
    ∧ (asks s m 4 →
      (q % 4 = 0 → ∃ t, exec (.mbxReset m) s = .next t ∧ t.mbxBusy m = false ∧ t.get Reg.MGT_RESET_CAUSE.CAUSE = 5
        ∧ t.doms = State.reset.doms ∧ t.bulk.moraine = s.bulk.moraine ∧ t.bulk.scratch = [] ∧ t.now = s.now)
      ∧ (q % 4 = 1 → ∃ t, exec (.mbxReset m) s = .next t ∧ t.get Reg.MGT_RESET_CAUSE.CAUSE = 2
        ∧ t.bulk = State.reset.bulk ∧ t.mgmt.flash = s.mgmt.flash ∧ t.mgmt.boluk = false)
      ∧ (q % 4 = 2 → ∃ t, exec (.mbxReset m) s = .next t ∧ t.mbxBusy m = false ∧ t.doms = s.doms ∧ t.bulk = s.bulk
        ∧ t.get Reg.MGT_RESET_CAUSE.MGMT_RESETS = min (s.get Reg.MGT_RESET_CAUSE.MGMT_RESETS + 1) 255)
      ∧ (q % 4 = 3 → ∃ t, exec (.mbxReset m) s = .next t ∧ answered s t m 2 [])))
  ∧ (∀ (s : State) (m : Nat), asks s m 5 → 8 ≤ s.mbxLen m →
    let mask := s.mbxQuad m 0 % 4096
    (m = 12 → s.mgmt.loading = none → s.wholeDomains mask = false ∨ (∃ p < 12, inMask mask p = true ∧ s.armed (s.leadOf p) = true) →
      ∃ t, exec (.partitionLoad m) s = .next t ∧ answered s t m 4 [])
    ∧ (m ≠ 12 → s.mgmt.loading = none → mask ≠ 2 ^ m → ∃ t, exec (.partitionLoad m) s = .next t ∧ answered s t m 3 [])
    ∧ (m = 12 → s.mgmt.loading = none → s.wholeDomains mask = true → (∀ p < 12, inMask mask p = true →
      s.armed (s.leadOf p) = false) →
      s.imageReason 2 (s.image 2 s.mgmt.flash.selImage) true = 0 → ∃ t, exec (.partitionLoad m) s = .next t
        ∧ t.mgmt.loading = some (mask, m, s.mgmt.flash.selImage) ∧ t.mbxBusy m = true
        ∧ (∀ p < 12, inMask mask p = true → t.resetting p = true ∧ t.pendAt p = {} ∧ (t.srvAt p).cmds = []
          ∧ (∀ c < 256, t.ctxState p c = 0)
            ∧ t.get (Reg.SEQ_ENTRY.ENTRY p) = 3)
        ∧ ∀ p < 12, inMask mask p = false → t.resetting p = s.resetting p ∧ t.dom p = s.dom p
            ∧ t.get (Reg.SEQ_ENTRY.ENTRY p) = s.get (Reg.SEQ_ENTRY.ENTRY p))
    ∧ (∀ k, s.mgmt.loading = some (mask, m, k) → ∃ t, exec (.partitionLoad m) s = .next t ∧ t.mgmt.loading = none
        ∧ t.mbxBusy m = false ∧ ∀ p < 12, inMask mask p = true → t.resetting p = false))
  ∧ (∀ (s : State) (body : List Byte) (via : Via), s.hears via = true → via ≠ .smbus (0x50 + s.fuses.strap) →
    (s.mbxBusy 12 = false → ∃ t, exec (.mctpMessage 0x7E body via) s = .next t ∧ t.mbxBusy 12 = true ∧ t.mgmt.mctpAsk = true
      ∧ t.mgmt.mctpVia = via
      ∧ (∀ i w, i < 1024 → (wordsOf (body.take 4096))[i]? = some w → t.rw (mbxBase 12 + 4 * i) = BitVec.ofNat 32 w)
        ∧ t.bulk = s.bulk)
    ∧ (s.mbxBusy 12 = true → ∃ t, exec (.mctpMessage 0x7E body via) s = .next t ∧ t.get (mbxBit 12 2) = 1
      ∧ sameRegs s t fun a => a = mbxBase 12 + 0x2004))
  ∧ (∀ (s : State) (typ : Nat) (body : List Byte),
    (s.mgmt.input = true → exec (.mctpMessage typ body (.smbus (0x50 + s.fuses.strap))) s
      = .next { s with out := s.out ++ [.fru (orderCode s.fuses.grade ++ leBytes 8 s.fuses.serial.toNat ++ leBytes 6 s.fuses.mac0.toNat
          ++ leBytes 6 s.fuses.mac1.toNat)] })
    ∧ (s.mgmt.input = false → exec (.mctpMessage typ body (.smbus (0x50 + s.fuses.strap))) s = .next s)
    ∧ (∀ via, s.hears via = false → via ≠ .smbus (0x50 + s.fuses.strap) → exec (.mctpMessage typ body via) s = .next s))
  ∧ (∀ (s : State) (kind off : Nat) (data : List Byte) (via : Via),
    let other := 1 - s.mgmt.flash.selected kind
    s.hears via = true → imageWriteOk kind off data.length = true → s.mbxImage kind = false → s.mgmt.updKind = none →
    s.mgmt.flash.selected kind < 2 → ∃ t, exec (.pldmFirmwareUpdate kind off data false via) s = .next t
      ∧ t.image kind other = writeAt (s.image kind other) off data ∧ t.mgmt.updKind = some kind
        ∧ t.out = s.out ++ [.mctp 1 [5, 0] via]
      ∧ t.mgmt.flash.selected kind = s.mgmt.flash.selected kind ∧ t.regs = s.regs ∧ t.bulk = s.bulk)

/-! ## Power, resets and boot -/

/-- POWER_ON, POWER_LOSS, COLD_RESET, WARM_RESET, MANAGEMENT_RESET, PERST_ASSERT and FIRMWARE_WATCHDOG (R452 to R457, R527, R541,
R542): what each reset keeps and what it returns to its reset value; PWR_OK follows the rails (R539); a reset of the endpoint loses
its configuration space and the host's writes not yet accepted. That a reset is one step, what a warm reset keeps beside what R454
names, and the free contents of flash and moraine, are the model's choices (log entries 50, 51, 52, 5). -/
def Obligations.ResetsKeepWhatTheyMust : Prop :=
  (∀ (s : State) (mv : Nat), s.mgmt.powered = false →
    (44000 ≤ mv → ∃ t, exec (.powerOn mv true) s = .next t ∧ t.mgmt.powered = true ∧ t.get Reg.MGT_RESET_CAUSE.CAUSE = 0
      ∧ t.get Reg.MGT_BOOT_STATUS.STAGE = 0 ∧ t.bulk = State.reset.bulk ∧ t.doms = State.reset.doms ∧ t.mgmt.flash = s.mgmt.flash
      ∧ t.fuses = s.fuses ∧ t.mgmt.boluk = false ∧ t.mgmt.input = true ∧ t.out = s.out ++ [.pwrOk true])
    ∧ (mv < 44000 → exec (.powerOn mv true) s = .next { s with mgmt := { s.mgmt with input := decide (0 < mv) } })
    ∧ exec (.powerOn mv false) s = .next { s with mgmt := { s.mgmt with input := false } })
  ∧ (∀ (s : State) (mv : Nat) (present : Bool), s.mgmt.powered = true → exec (.powerOn mv present) s = .next s)
  ∧ (∀ (s : State) (mv : Nat), ∃ t, exec (.powerLoss mv) s = .next t ∧ t.mgmt.powered = false ∧ t.mgmt.input = decide (0 < mv)
    ∧ t.bulk = State.reset.bulk ∧ t.mgmt.flash = s.mgmt.flash ∧ t.fuses = s.fuses ∧ t.pciUp = false
      ∧ t.out = s.out ++ [.pwrOk false])
  ∧ (∀ (s : State) (cause : Nat), s.mgmt.powered = true → cause < 16 →
    (∃ t, exec (.coldReset cause) s = .next t ∧ t.get Reg.MGT_RESET_CAUSE.CAUSE = cause ∧ t.bulk = State.reset.bulk
      ∧ t.doms = State.reset.doms ∧ t.park = State.reset.park ∧ t.now = State.reset.now ∧ t.mgmt.flash = s.mgmt.flash
      ∧ t.get Reg.FLT_NEXT_SEQ.SEQ = 0)
    ∧ (∃ t, exec (.warmReset cause) s = .next t ∧ t.get Reg.MGT_RESET_CAUSE.CAUSE = cause ∧ t.bulk.moraine = s.bulk.moraine
      ∧ t.bulk.scratch = [] ∧ t.bulk.cornice = [] ∧ t.doms = State.reset.doms ∧ t.park.handles = [] ∧ t.now = s.now
      ∧ t.mgmt.flash = s.mgmt.flash ∧ t.mgmt.boluk = s.mgmt.boluk ∧ t.pciUp = s.pciUp
      ∧ (∀ d < 12, t.halted d = false ∧ t.running d = false ∧ t.armed d = false)
      ∧ (∀ i < 512, ∀ j < 16, t.rw (Reg.FLT_REC.addr i j) = s.rw (Reg.FLT_REC.addr i j))
      ∧ (s.mgmt.boluk = true → t.get Reg.MGT_BOOT_STATUS.STAGE = 2)))
  ∧ (∀ s : State, s.mgmt.boluk = true →
    let n := min (s.get Reg.MGT_RESET_CAUSE.MGMT_RESETS + 1) 255
    (∃ t, exec .managementReset s = .next t ∧ t.get Reg.MGT_RESET_CAUSE.MGMT_RESETS = n ∧ t.doms = s.doms ∧ t.fab = s.fab
      ∧ t.bulk = s.bulk ∧ t.mgmt.updKind = none ∧ t.mgmt.loading = s.mgmt.loading.map (fun v => (v.1, 13, v.2.2))
      ∧ ∀ m < 13, t.mbxBusy m = false)
    ∧ (∃ t, exec .firmwareWatchdog s = .next t ∧ t.get Reg.MGT_RESET_CAUSE.MGMT_RESETS = n ∧ t.doms = s.doms ∧ t.bulk = s.bulk
      ∧ (s.logClear → loggedOne s t 0xE0)))
  ∧ (∀ s : State, s.mgmt.powered = true →
    (s.get Reg.MGT_RESET_CFG.PERST_ACTION = 0 → s.get Reg.MGT_PCI_PERST_COUNT.COUNT + 1 < 2 ^ 32 →
      ∃ t, exec .perstAssert s = .next t ∧ t.pciUp = false ∧ t.pci = {} ∧ t.posted = [] ∧ t.doms = s.doms ∧ t.bulk = s.bulk
        ∧ t.mgmt = s.mgmt
        ∧ t.get Reg.MGT_PCI_PERST_COUNT.COUNT = s.get Reg.MGT_PCI_PERST_COUNT.COUNT + 1)
    ∧ (s.get Reg.MGT_RESET_CFG.PERST_ACTION = 1 → ∃ t, exec .perstAssert s = .next t ∧ t.get Reg.MGT_RESET_CAUSE.CAUSE = 7
        ∧ t.doms = State.reset.doms ∧ t.bulk.moraine = s.bulk.moraine)
    ∧ (s.get Reg.MGT_RESET_CFG.PERST_ACTION = 2 → ∃ t, exec .perstAssert s = .next t ∧ t.get Reg.MGT_RESET_CAUSE.CAUSE = 3
        ∧ t.bulk = State.reset.bulk))

/-- BOOT_ROM_VERIFY, DIE_INIT_END, IMAGE_VERIFY, IMAGE_APPLY and PCI_EXPRESS_LINK_UP (R438, R439, R458, R459, R522): the selected
slot is taken if it passes every check, else the other one, else the boot fails; the module is READY once its image has been
applied; the host link shows the rate, the width and the mode it has trained at, and carries the host's settings of the endpoint.
The hash and the signature of an image, what of it is not checked, and the endpoint's form, are the model's choices (log entries 13, 74,
75). -/
def Obligations.BootGoesByStages : Prop :=
  (∀ s : State, s.mgmt.powered = true → s.mgmt.boluk = false → s.get Reg.MGT_BOOT_STATUS.STAGE = 0 → s.mgmt.dieDone = false →
    let k := s.mgmt.flash.selected 1
    let r0 := s.imageReason 1 (s.image 1 k) false
    let r1 := s.imageReason 1 (s.image 1 (1 - k)) false
    ∃ t, exec .bootRomVerify s = .next t ∧ t.mgmt.boluk = decide (r0 = 0 ∨ r1 = 0)
      ∧ t.get Reg.MGT_BOOT_STATUS.STAGE = (if r0 = 0 ∨ r1 = 0 then 2 else 7)
      ∧ (r0 = 0 ∨ r1 = 0 → t.get Reg.MGT_BOOT_STATUS.BOLUK_SLOT = (if r0 = 0 then k else 1 - k) % 2) ∧ t.bulk = s.bulk)
  ∧ (∀ s : State, s.mgmt.boluk = true → s.mgmt.dieDone = false → ∃ t, exec .dieInitEnd s = .next t ∧ t.mgmt.dieDone = true
    ∧ t.get Reg.MOR_STATUS.LINK_UP = 15
    ∧ (s.get Reg.MGT_BOOT_STATUS.STAGE = 2 → s.mgmt.calDone = false → t.get Reg.MGT_BOOT_STATUS.STAGE = 3)
    ∧ (∀ p < 32, s.get (Reg.UBN_PORT_CTRL.EN p) = 1 → t.get (Reg.UBN_PORT_STATUS.STATE p) = 1) ∧ t.bulk = s.bulk)
  ∧ (∀ s : State, s.mgmt.boluk = true → 2 ≤ s.get Reg.MGT_BOOT_STATUS.STAGE → s.get Reg.MGT_BOOT_STATUS.STAGE ≤ 5 →
    s.mgmt.verDone = none →
    let k := s.mgmt.flash.selected 2
    let r0 := s.imageReason 2 (s.image 2 k) false
    let r1 := s.imageReason 2 (s.image 2 (1 - k)) false
    ∃ t, exec .imageVerify s = .next t ∧ t.mgmt.verDone = (if r0 = 0 then some k else if r1 = 0 then some (1 - k) else none)
      ∧ (t.get Reg.MGT_BOOT_STATUS.STAGE = 7 ↔ r0 ≠ 0 ∧ r1 ≠ 0) ∧ t.bulk = s.bulk ∧ t.doms = s.doms)
  ∧ (∀ (s : State) (k : Nat), s.mgmt.boluk = true → s.get Reg.MGT_BOOT_STATUS.STAGE = 5 → s.mgmt.verDone = some k →
    let img := s.image 2 k
    let r := s.imageReason 2 img false
    ∃ t, exec .imageApply s = .next t ∧ (t.get Reg.MGT_BOOT_STATUS.STAGE = 6 ↔ r = 0)
      ∧ t.get Reg.MGT_IMAGE_ID.ID = (if r = 0 then imgNat img 8 4 else s.get Reg.MGT_IMAGE_ID.ID)
      ∧ (r ≠ 0 → t.mgmt.verDone = none))
  ∧ (∀ (s : State) (rate width : Nat) (flit : Bool), s.mgmt.powered = true →
    (wfPci rate width = true → (∃ t, exec (.pciExpressLinkUp rate width flit []) s = .next t
      ∧ t.pciUp = true ∧ t.get Reg.MGT_PCI_LINK.RATE = rate ∧ t.get Reg.MGT_PCI_LINK.WIDTH = width
      ∧ t.get Reg.MGT_PCI_LINK.FLIT = (if rate = 6 ∨ flit = true then 1 else 0) ∧ t.bulk = s.bulk ∧ t.pci = s.pci
      ∧ sameRegs s t fun a => a = Reg.MGT_PCI_LINK.addr)
      ∧ (∀ fn off v, ∃ t, exec (.pciExpressLinkUp rate width flit [.config fn off v]) s = .next t
          ∧ mapGet 0 t.pci.config (fn * 1024 + off / 4) = v)
      ∧ (∀ fn, ∃ t, exec (.pciExpressLinkUp rate width flit [.mask fn true]) s = .next t ∧ fn ∈ t.pci.masked ∧ t.out = s.out)
      ∧ ∀ fn, ∃ t, exec (.pciExpressLinkUp rate width flit [.mask fn false]) s = .next t ∧ fn ∉ t.pci.masked
          ∧ (∀ v ∈ t.pci.waiting, v.1 ≠ fn)
          ∧ t.out = s.out ++ (s.pci.waiting.filter fun v => v.1 = fn).map fun v => .irq v.1 v.2)
    ∧ (wfPci rate width = false → ∀ ws, exec (.pciExpressLinkUp rate width flit ws) s = .next s))

/-! ## Power and measurement -/

/-- GOVERNOR_LOOP and THROTTLE_CLEAR (R472, R473, R477 to R481): each microsecond the buffer's energy takes the input less the load,
within its limits, and where even the ballast at its top cannot keep it there the converter stops for that microsecond; the ballast's
own draw is part of the load; the command moves towards the target by at most the slew; the ballast level moves by at most one;
below 2 J a throttle freeze is requested, which ends after its counts. The units, and what the operand counts of the load, are the
model's choices (log entries 54, 70). -/
def Obligations.GovernorFollowsTheForecast : Prop :=
  (∀ (s : State) (pLoad : Nat), s.mgmt.powered = true →
    let e0 : Int := (s.gov.e : Int) + s.gov.pIn - (pLoad * 1000 + s.ballastPower : Nat)
    let stop := decide ((15 * joule : Int) ≤ e0) && decide (s.gov.ballast = 15)
    let e := (satInt (if stop then e0 - s.gov.pIn else e0) 0 (15 * joule)).toNat
    let pull := satInt (((9 * joule : Int) - e) / 1000) (-(200 * watt : Int)) (200 * watt)
    let want : Int := min ((s.forecast : Int) + pull) s.capActive
    let d : Int := s.slew * 1000
    ∃ t, exec (.governorLoop pLoad) s = .next t ∧ t.gov.e = e ∧ t.get Reg.GOV_E.E_MJ = e / 1000000000
      ∧ t.gov.stopped = stop ∧ (stop = true → t.get Reg.GOV_STATUS.SLEW_BREACH = 1)
      ∧ t.gov.pCmd = ((s.gov.pCmd : Int) + satInt (want - s.gov.pCmd) (-d) d).toNat
      ∧ t.gov.ballast = (if 14 * joule < e ∧ s.get Reg.GOV_CTRL.BALLAST_EN = 1 then min 15 (s.gov.ballast + 1)
          else if e < 13 * joule then s.gov.ballast - 1 else s.gov.ballast)
      ∧ (e < 2 * joule → t.gov.throttle.isSome = true)
      ∧ (2 * joule ≤ e → s.gov.hardEpisode = false → s.gov.tempEpisode = false → t.gov.throttle = s.gov.throttle ∧ t.doms = s.doms)
      ∧ t.bulk = s.bulk ∧ t.now = s.now)
  ∧ (∀ (s : State) (g len : Nat), s.gov.throttle = some (g, len) → s.steady → ∃ t, exec .throttleClear s = .next t
    ∧ t.gov.throttle = none
    ∧ t.get Reg.GOV_STATUS.THROTTLING = 0 ∧ t.now = max s.now (g + len) ∧ t.bulk = s.bulk
    ∧ ∀ d < 12, s.running d = true → ∀ f ∈ (t.dom d).frz, f.ref = .throttle → f.clr ≠ none)

/-- TELEMETRY_SAMPLE, TEMPERATURE_SAMPLE and FAULT_LOG_COPY (R301, R471, R482, R483, R494): a sample shows voltage, current and
time and adds to the energy, ten of them a mean; the sensors' values are kept and one at its trip point throttles; the phase
monitors' smallest margin is kept, and entries that a drift makes late freeze their domain; halting and copied
records join the persistent log, which keeps the latest 65,536. What the sensors and monitors see is the commands' operand, the units
and the moment of a copy are the model's choices (log entries 70, 54, 73). -/
def Obligations.MeasurementsAndPersistentLog : Prop :=
  (∀ (s : State) (mv ma : Nat), s.mgmt.powered = true → mv < 2 ^ 16 → ma / 10 < 2 ^ 16 →
    (s.gov.samples.length < 9 → ∃ t, exec (.telemetrySample mv ma) s = .next t ∧ t.get Reg.TEL_VIN.MV = mv
      ∧ t.get Reg.TEL_IIN.I = ma / 10 ∧ t.gov.pIn = mv * ma ∧ t.gov.energy = s.gov.energy + mv * ma
      ∧ t.gov.samples = s.gov.samples ++ [(mv, ma)] ∧ t.get Reg.TEL_PIN.W = s.get Reg.TEL_PIN.W ∧ t.doms = s.doms ∧ t.bulk = s.bulk)
    ∧ (s.gov.samples.length = 9 → ∃ t, exec (.telemetrySample mv ma) s = .next t ∧ t.gov.samples = []
      ∧ t.get Reg.TEL_PIN.W = meanOf ((s.gov.samples ++ [(mv, ma)]).map fun x => x.1 * x.2) / watt % 2 ^ 13
      ∧ t.gov.vinMean = meanOf ((s.gov.samples ++ [(mv, ma)]).map (·.1)) ∧ t.gov.energy = s.gov.energy + mv * ma ∧ t.bulk = s.bulk))
  ∧ (∀ (s : State) (temps : List Nat) (margin : Nat) (late : List (Nat × Nat)), s.mgmt.powered = true → (∀ v ∈ temps, v < 2 ^ 12) →
    let trip := s.get Reg.TEL_TEMP_TRIP.TRIP * 16
    ∃ t, exec (.temperatureSample temps margin late) s = .next t ∧ t.bulk = s.bulk
      ∧ t.get Reg.CLK_PLUMB_MARGIN.MIN_MARGIN = min margin (s.get Reg.CLK_PLUMB_MARGIN.MIN_MARGIN)
      ∧ (∀ a n, late = [(a, n)] → a < 576 → s.domOf a < 12 → s.running (s.domOf a) = true → s.halted (s.domOf a) = false →
          ∃ f ∈ (t.dom (s.domOf a)).frz, f.kind = .cross ∧ f.clr = some (f.due + n))
      ∧ (∀ i v, i < 96 → temps[i]? = some v → t.get (Reg.TEL_TEMP.TEMP i) = v)
      ∧ ((∃ v ∈ temps, s.get Reg.TEL_TEMP_TRIP.WARN * 16 ≤ v) → t.get Reg.GOV_STATUS.TEMP_WARN = 1)
      ∧ ((∃ v ∈ temps, trip ≤ v) → t.gov.tempEpisode = true ∧ t.gov.throttle.isSome = true)
      ∧ ((∀ v ∈ temps, v + 80 ≤ trip) → t.gov.tempEpisode = false ∧ t.gov.throttle = s.gov.throttle))
  ∧ (∀ s : State, s.mgmt.boluk = true → ∃ t, exec .faultLogCopy s = .next t
    ∧ t.mgmt.flash.log = (s.mgmt.flash.log ++ s.flt.copies).drop ((s.mgmt.flash.log ++ s.flt.copies).length - 65536)
    ∧ t.flt.copies = [] ∧ t.bulk = s.bulk ∧ (s.steady → t.regs = s.regs ∧ t.doms = s.doms))

/-! ## Record, replay and Ethernet -/

/-- REC_CTRL_WRITE and REPLAY_ENTRY_APPLY (R510, R512, R515, R516, R520): MODE waits for the next serving boundary; the first
recorded entry that is due takes effect and leaves the list, at a boundary after the resumed contexts have become IDLE; one that is
staged late is a freeze cause of its domain first; the granules of a LANDING land ahead of its position. What the reserved MODE does,
and what an entry needs beside its table, are the model's choices (log entries 56, 57). -/
def Obligations.RecordAndReplay : Prop :=
  (∀ (s : State) (w : Who) (v : Word), s.postFree w = true → s.hostOpen w Reg.REC_CTRL.addr = true →
    s.mayField w Reg.REC_CTRL.addr .rw = true →
    ∃ t, exec (.recCtrlWrite w v) s = .next t ∧ t.recd = { s.recd with want := some (v.toNat % 4) }
    ∧ t.get Reg.REC_CTRL.PARTS = bitsOf v.toNat 27 16 ∧ t.get Reg.REC_CTRL.WRAP = bitsOf v.toNat 2 2
    ∧ (∀ p, t.replaying p = (s.recd.mode = 2 && bitOf (bitsOf v.toNat 27 16) p)) ∧ sameRegs s t fun a => a = Reg.REC_CTRL.addr)
  ∧ (∀ (s : State) (late : Nat), (∀ e ∈ s.recd.todo, s.replayDue e = false ∧ s.replayAhead e = false) →
    exec (.replayEntryApply late) s = .next s)
  ∧ (∀ (s : State) (e : REnt) (l : List REnt) (late : Nat), s.recd.todo = e :: l → s.replayAhead e = true →
    ∃ t, exec (.replayEntryApply late) s = .next t ∧ t.recd.todo = { e with landed := true } :: l
      ∧ ∀ a < 576, ∀ k < 64, t.get (Reg.TILE_CAIRN.VALUE (partOf a) (idxOf a) k) = s.get (Reg.TILE_CAIRN.VALUE (partOf a) (idxOf a) k))
  ∧ (∀ (s : State) (e : REnt) (l : List REnt) (late : Nat), s.recd.todo = e :: l → s.replayDue e = true → s.replayAhead e = false →
    e.pre = false → e.boundary = false → s.leadOf e.part < 12 → s.halted (s.leadOf e.part) = false →
    s.stagedLate (s.leadOf e.part) = false → 0 < late →
    ∃ t, exec (.replayEntryApply late) s = .next t ∧ t.recd = s.recd ∧ t.bulk = s.bulk
      ∧ ∃ f ∈ (t.dom (s.leadOf e.part)).frz, f.kind = .moraine ∧ f.ref = .staged ∧ f.clr = some (f.due + late))
  ∧ (∀ (s : State) (e : REnt) (l : List REnt) (late : Nat), s.recd.todo = e :: l → s.replayDue e = true → e.part < 12 →
    e.ctx < 256 →
    e.pre = true ∨ e.boundary = true ∨ (late = 0 ∧ s.stagedLate (s.leadOf e.part) = false) →
    let b := if e.boundary then s.openBoundary e.part else s
    (e.kind = 6 → ∃ t, exec (.replayEntryApply late) s = .next t ∧ t.recd.todo = l
      ∧ t.get (Reg.SRV_CTX_STATE.KV_WAIT e.part e.ctx) = (e.body[0]?.getD 0) % 2
      ∧ t.bulk = b.bulk ∧ sameRegs b t fun a => a = Reg.SRV_CTX_STATE.addr e.part e.ctx)
    ∧ (e.kind = 2 → b.ctxState e.part e.ctx = 2 → (b.ctx e.part e.ctx).undo = [] → ∃ t, exec (.replayEntryApply late) s = .next t
      ∧ t.recd.todo = l ∧ t.ctxState e.part e.ctx = 1 ∧ t.get (Reg.SRV_CTX_STATE.LATCH e.part e.ctx) = 1
      ∧ t.ctxLen e.part e.ctx = b.ctxLen e.part e.ctx ∧ t.bulk = b.bulk))

/-- RDMA_WRITE, ETH_FRAME_RECEIVE, STREAM_FRAME_TRANSMIT, ETH_FLOW_WRITE, ETH_LINK_CHANGE, PTP_EVENT_MESSAGE and PTP_TS_READ (R528
to R534): a write through a valid key lands in its region, any other is turned away and counted; a bad frame is counted and
dropped, one that does not validate too where MACsec is on; a pause of the port's priority holds back what it sends; a congestion
notification answers a marked packet, and one received lowers its queue pair's rate; the oldest stream frame leaves with its flow's
next SEQ, which a write of the flow restarts; a port has a link when it is enabled, trained at its speed and, with MACsec, has an
association to send under; up to 16 stamps are kept and read oldest first. What the remote address of a write means, when an
association is installed, what a pause covers and how far a rate falls, are the model's choices (log entries 59, 58, 123). -/
def Obligations.EthernetPorts : Prop :=
  ((∀ (s : State) (e rkey addr srcMod srcAsh : Nat) (data : List Byte), e < 2 → s.ethUp e = true →
    let deny := ((s.regionOf rkey).map fun m => s.rdmaFits m addr srcMod srcAsh data.length) ≠ some true
    (deny → s.get (Reg.ETH_RDMA_NAK.COUNT e) + 1 < 2 ^ 32 → ∃ t, exec (.rdmaWrite e rkey addr srcMod srcAsh data) s = .next t
      ∧ t.get (Reg.ETH_RDMA_NAK.COUNT e) = s.get (Reg.ETH_RDMA_NAK.COUNT e) + 1 ∧ sentEth s t e (.rdmaNak e false) ∧ t.fab = s.fab
      ∧ t.bulk = s.bulk)
    ∧ (¬ deny → data.length = 64 → ∀ m, s.regionOf rkey = some m →
      let ash := s.get (Reg.ETH_MR_CFG.ASHLAR m)
      ∃ t, exec (.rdmaWrite e rkey addr srcMod srcAsh data) s = .next t
      ∧ (s.sliceFull ash addr (s.wallNow (s.domOf ash)) = false →
          ∃ g, t.fab.land = s.fab.land ++ [g] ∧ g.ash = ash ∧ g.addr = addr ∧ g.data = data
          ∧ g.inc = s.get (Reg.ETH_MR_CFG.INC m) ∧ g.cairn = s.get (Reg.ETH_MR_CFG.CAIRN m) ∧ g.final = true)
      ∧ (s.sliceFull ash addr (s.wallNow (s.domOf ash)) = true →
          t.fab = s.fab ∧ t.mor.writes.map (·.data) = s.mor.writes.map (·.data) ++ [data])
      ∧ sentEth s t e (.rdmaAck e) ∧ t.regs = s.regs ∧ t.bulk = s.bulk))
  ∧ (∀ (s : State) (e len an : Nat), e < 2 → s.ethHears e = true →
    let fits : Prop := len ≤ s.get (Reg.ETH_CTRL.MTU e) ∧ len ≤ 9216
    (∀ q, s.get (Reg.ETH_FCS_ERR.COUNT e) + 1 < 2 ^ 32 → ∃ t, exec (.ethFrameReceive e len .bad an q) s = .next t
      ∧ t.get (Reg.ETH_FCS_ERR.COUNT e) = s.get (Reg.ETH_FCS_ERR.COUNT e) + 1 ∧ t.fab = s.fab ∧ t.out = s.out
      ∧ sameRegs s t fun a => a = Reg.ETH_FCS_ERR.addr e)
    ∧ (∀ f q, fits → s.get (Reg.ETH_CTRL.MACSEC_EN e) = 1 → f ≠ .bad → (∀ prio n, f ≠ .pause prio n) →
      f = .unprotected ∨ f = .invalid ∨ (∀ a ∈ (s.ethAt e).rxSa, a.an ≠ an) →
      s.get (Reg.ETH_MACSEC_DROP.COUNT e) + 1 < 2 ^ 32 → ∃ t, exec (.ethFrameReceive e len f an q) s = .next t
      ∧ t.get (Reg.ETH_MACSEC_DROP.COUNT e) = s.get (Reg.ETH_MACSEC_DROP.COUNT e) + 1 ∧ t.fab = s.fab ∧ t.out = s.out
      ∧ sameRegs s t fun a => a = Reg.ETH_MACSEC_DROP.addr e)
    ∧ (∀ rkey addr srcMod srcAsh data, fits → s.get (Reg.ETH_CTRL.MACSEC_EN e) = 0 ∨ (∃ a ∈ (s.ethAt e).rxSa, a.an = an) →
      exec (.ethFrameReceive e len (.rdmaWrite rkey addr srcMod srcAsh data) an none) s
        = exec (.rdmaWrite e rkey addr srcMod srcAsh data) s)
    ∧ (∀ q, fits → s.get (Reg.ETH_CTRL.MACSEC_EN e) = 0 → s.ethUp e = true →
      ∃ t, exec (.ethFrameReceive e len .other an (some q)) s = .next t ∧ sentEth s t e (.cnp e q) ∧ t.regs = s.regs
        ∧ t.bulk = s.bulk)
    ∧ (∀ qpn, fits → s.get (Reg.ETH_CTRL.MACSEC_EN e) = 0 → s.ethUp e = true → qpn < 128 → 1 < mapGet 65536 (s.ethAt e).rate qpn →
      ∃ t, exec (.ethFrameReceive e len (.cnp qpn) an none) s = .next t
        ∧ mapGet 65536 (t.ethAt e).rate qpn < mapGet 65536 (s.ethAt e).rate qpn ∧ t.out = s.out ∧ t.regs = s.regs)
    ∧ (∀ n, fits → 0 < n →
      ∃ t, exec (.ethFrameReceive e len (.pause (s.get (Reg.ETH_CTRL.PFC_PRIO e)) n) an none) s = .next t
        ∧ (t.ethAt e).pausedTo = s.now + pauseTime (s.get (Reg.ETH_CTRL.SPEED e)) n ∧ t.ethPaused e = true ∧ t.out = s.out
        ∧ t.regs = s.regs)
    ∧ (∀ prio n, prio ≠ s.get (Reg.ETH_CTRL.PFC_PRIO e) → exec (.ethFrameReceive e len (.pause prio n) an none) s = .next s)
    ∧ (∀ f q, f ≠ .bad → s.get (Reg.ETH_CTRL.MTU e) < len → exec (.ethFrameReceive e len f an q) s = .next s))
  ∧ (∀ (s : State) (e f : Nat) (ws : List Word) (r : Rec) (l : List (Nat × List Word × Rec)), e < 2 →
    (s.ethAt e).queue = (f, ws, r) :: l →
    let q := mapGet 0 s.flowSeq f
    let o : Out := .udp e ws (streamHeader f q s.now ++ quadBytes (r.words false) ++ r.payload)
    (s.ethUp e = true → s.ethPaused e = false → (s.ethAt e).held = [] → ∃ t, exec (.streamFrameTransmit e) s = .next t
      ∧ (t.ethAt e).queue = l ∧ mapGet 0 t.flowSeq f = (q + 1) % 2 ^ 32 ∧ t.out = s.out ++ [s.framed e o]
      ∧ (s.get (Reg.ETH_CTRL.MACSEC_EN e) = 1 → (t.ethAt e).txSa.map (·.pn) = (s.ethAt e).txSa.zipIdx.map fun a => if a.2 = 0 then a.1.pn + 1 else a.1.pn)
      ∧ t.regs = s.regs ∧ t.bulk = s.bulk)
    ∧ (s.ethUp e = true → s.ethPaused e = false → ∃ t, exec (.streamFrameTransmit e) s = .next t
      ∧ (t.ethAt e).held = [] ∧ t.out.length = s.out.length + (s.ethAt e).held.length + 1)
    ∧ (s.ethUp e = false ∨ s.ethPaused e = true → exec (.streamFrameTransmit e) s = .next s))
  ∧ (∀ (s : State) (w : Who) (f : Nat) (hi : Bool) (v : Word), f < 4096 →
    let a := if hi then Reg.ETH_FLOW_HI.addr f else Reg.ETH_FLOW_LO.addr f
    s.postFree w = true → s.hostOpen w a = true → s.mayField w a .rw = true → ∃ t, exec (.ethFlowWrite w f hi v) s = .next t
    ∧ (∀ r, findRow a = some r → t.rw a = s.afterWrite w a r.fields v) ∧ (hi = false → t.rw a = v) ∧ mapGet 0 t.flowSeq f = 0
    ∧ sameRegs s t fun b => b = a))
  ∧ ((∀ (s : State) (e speed : Nat) (up : Bool), e < 2 →
    (up = true → s.get (Reg.ETH_CTRL.EN e) = 1 → s.mgmt.powered = true → speed < 3 →
      ∃ t, exec (.ethLinkChange e up speed []) s = .next t
      ∧ (t.ethAt e).phy = some speed
      ∧ (speed = s.get (Reg.ETH_CTRL.SPEED e) → s.get (Reg.ETH_CTRL.MACSEC_EN e) = 0 ∨ (s.ethAt e).txSa ≠ [] →
          t.get (Reg.ETH_STATUS.LINK_UP e) = 1 ∧ t.get (Reg.ETH_STATUS.SPEED e) = speed)
      ∧ (speed ≠ s.get (Reg.ETH_CTRL.SPEED e) ∨ (s.get (Reg.ETH_CTRL.MACSEC_EN e) = 1 ∧ (s.ethAt e).txSa = []) →
          t.get (Reg.ETH_STATUS.LINK_UP e) = 0)
      ∧ sameRegs s t fun a => a = Reg.ETH_STATUS.addr e)
    ∧ (up = false ∨ s.get (Reg.ETH_CTRL.EN e) = 0 ∨ 3 ≤ speed → ∃ t, exec (.ethLinkChange e up speed []) s = .next t
      ∧ (t.ethAt e).phy = none ∧ t.get (Reg.ETH_STATUS.LINK_UP e) = 0 ∧ sameRegs s t fun a => a = Reg.ETH_STATUS.addr e)
    ∧ (∀ an key xpn, s.mgmt.boluk = true → ∃ t, exec (.ethLinkChange e up speed [.install true an key xpn]) s = .next t
      ∧ (t.ethAt e).txSa.head? = some { an := an % 4, key, xpn } ∧ (t.ethAt e).rxSa = (s.ethAt e).rxSa))
  ∧ (∀ (s : State) (e seq frac : Nat) (tx : Bool), e < 2 → s.ethUp e = true →
    ((s.ethAt e).stamps.length < 16 → ∃ t, exec (.ptpEventMessage e tx seq frac) s = .next t
      ∧ (t.ethAt e).stamps = (s.ethAt e).stamps ++ [((s.now * 16 + frac % 16) % 2 ^ 64, seq % 65536, tx)] ∧ t.regs = s.regs)
    ∧ (16 ≤ (s.ethAt e).stamps.length → exec (.ptpEventMessage e tx seq frac) s = .next (s.put (Reg.ETH_STATUS.OVF e) 1)))
  ∧ (∀ (s : State) (w : Who) (e x n : Nat) (tx : Bool) (l : List (Nat × Nat × Bool)), e < 2 →
    s.hostOpen w (Reg.ETH_PTP_TS_HI.addr e) = true → whoReaches w (Reg.ETH_PTP_TS_HI.addr e) = true →
    (s.ethAt e).stamps = (x, n, tx) :: l → ∃ t, exec (.ptpTsRead w e) s = .next t
    ∧ t.rdata = .word (BitVec.ofNat 32 (x / 2 ^ 32)) ∧ (t.ethAt e).stamps = l ∧ t.regs = s.regs ∧ t.bulk = s.bulk))

/-! ## Rules over the whole machine -/

/-- The register that a write command with an effect of its own writes: who writes, its address, the access code of the field
that gives it its effect. -/
def writeTarget : Instr → Option (Who × Nat × Access)
  | .tickEnable w _ => some (w, Reg.CLK_COURSE_CTRL.addr, .rw)
  | .arm w p _ => some (w, Reg.SEQ_COURSE_CTRL.addr p, .wo)
  | .disarm w p => some (w, Reg.SEQ_COURSE_CTRL.addr p, .wo)
  | .domainReset w p => some (w, Reg.SEQ_CTRL.addr p, .wo)
  | .corniceDataHiWrite w p _ => some (w, Reg.SEQ_CORNICE_DATA_HI.addr p, .rw)
  | .stepRequest w _ => some (w, Reg.CLK_STEP_PLAN.addr, .rw)
  | .clkGlacierWrite w _ => some (w, Reg.CLK_GLACIER_HI.addr, .rw)
  | .resvApply w _ => some (w, Reg.UBN_CTRL.addr, .rw)
  | .planCommit w _ => some (w, Reg.UBN_DISC_CTRL.addr, .rw)
  | .fastCancel w p _ => some (w, Reg.SRV_DB_CANCEL.addr p, .wo)
  | .swapGo w p => some (w, Reg.MOR_SWAP_CTRL.addr p, .wo)
  | .loadSubmit w _ => some (w, Reg.MOR_LOAD_D7.addr, .wo)
  | .recCtrlWrite w _ => some (w, Reg.REC_CTRL.addr, .rw)
  | .ethFlowWrite w f hi _ => some (w, if hi then Reg.ETH_FLOW_HI.addr f else Reg.ETH_FLOW_LO.addr f, .rw)
  | _ => none

/-- A host write that the requester may not make is discarded (R444, R448): it adds 1 to the count of its requester and changes
nothing else; a write while the address is closed to the host changes nothing at all. -/
def Obligations.DeniedWritesOnlyCount : Prop :=
  ∀ (s : State) (c : Instr) (w : Who) (a : Nat) (acc : Access), writeTarget c = some (w, a, acc) → s.postFree w = true →
    (s.hostOpen w a = false → exec c s = .next s)
    ∧ (s.hostOpen w a = true → w ≠ .fw → s.mayField w a acc = false → ∃ t, exec c s = .next t
      ∧ (∀ n, w = .vf n → s.get (Reg.MGT_PART_HOST_DENIED.COUNT n) + 1 < 2 ^ 32 →
          t.get (Reg.MGT_PART_HOST_DENIED.COUNT n) = s.get (Reg.MGT_PART_HOST_DENIED.COUNT n) + 1)
      ∧ (w = .pf → s.get Reg.MGT_HOST_DENIED.COUNT + 1 < 2 ^ 32 →
          t.get Reg.MGT_HOST_DENIED.COUNT = s.get Reg.MGT_HOST_DENIED.COUNT + 1)
      ∧ { t with regs := s.regs } = s
      ∧ sameRegs s t fun b => b = Reg.MGT_HOST_DENIED.addr ∨ ∃ n, w = .vf n ∧ b = Reg.MGT_PART_HOST_DENIED.addr n)

/-- After reset (R1, R12, R22, R302, R312): the stores are empty and in canonical form, no register has been written, nothing is under
way in the fabric, the moraine or the serving engines, ticks are disabled, both halves run at step 0, the time base is FREE, no domain
is armed, running or halted, no partition is used and no command waits. What the empty stores read as is the model's choice (log
entries 2, 5, 6). -/
def Obligations.ResetState : Prop :=
  State.reset.inv = true ∧ State.reset.bulk = {} ∧ State.reset.regs = [] ∧ State.reset.latches = [] ∧ State.reset.fab = {}
    ∧ State.reset.mor = {} ∧ State.reset.park = {} ∧ State.reset.posted = [] ∧ State.reset.out = []
      ∧ State.reset.pending = [] ∧ State.reset.tickEn = false ∧ State.reset.period = 20000
    ∧ (∀ p < 12, State.reset.stepOf p = 0 ∧ State.reset.armed p = false ∧ State.reset.running p = false
        ∧ State.reset.halted p = false ∧ State.reset.used p = false)
    ∧ State.reset.get Reg.CLK_TIME_STATUS.MODE = 2 ∧ State.reset.get Reg.IDENT.FAMILY = 0x47
    ∧ State.reset.get Reg.IDENT.STEPPING = 0x10 ∧ State.reset.get Reg.MGT_BOOT_STATUS.STAGE = 0
    ∧ State.reset.get Reg.UBN_CTRL.HOP_LIMIT = 16 ∧ State.reset.get Reg.CLK_STRETCH_CFG.DROOP = 40

/-- Every step keeps the bulk stores in canonical form (the scratchpads and their check state, the moraine, the cornice, the compute
registers, the accumulators and the staging buffers; the register and latch maps are not among them): addresses rise strictly and no
entry equals what an unlisted address reads as, so that stores that hold the same are the same data. -/
def Obligations.StepKeepsCanonicalStores : Prop :=
  ∀ s t : State, s.inv = true → step s = .next t → t.inv = true
end

