-- ==== Sys2Proof/Laws/Map.lean ====
section
/-! SUPPORT. Sparse stores: what reads see after a write, and that every write keeps the canonical form. -/

namespace Sys2Proof.Machine

/-! ## Read after write -/

theorem mapGet?_mapErase_self {α : Type} (m : SMap α) (k : Nat) : mapGet? (mapErase m k) k = none := by
  induction m with
  | nil => rfl
  | cons e m ih =>
    obtain ⟨k', v⟩ := e
    unfold mapErase
    split
    · exact ih
    · rename_i h
      simp only [mapGet?, if_neg h, ih]

theorem mapGet?_mapErase_of_ne {α : Type} (m : SMap α) {k j : Nat} (h : j ≠ k) : mapGet? (mapErase m k) j = mapGet? m j := by
  induction m with
  | nil => rfl
  | cons e m ih =>
    obtain ⟨k', v⟩ := e
    unfold mapErase
    split
    · rename_i hk
      subst hk
      simp only [mapGet?, if_neg h, ih]
    · simp only [mapGet?, ih]

theorem mapGet?_mapInsert_self {α : Type} (m : SMap α) (k : Nat) (v : α) : mapGet? (mapInsert m k v) k = some v := by
  induction m with
  | nil => simp only [mapInsert, mapGet?, if_true]
  | cons e m ih =>
    obtain ⟨k', w⟩ := e
    unfold mapInsert
    split
    · simp only [mapGet?, if_true]
    · split
      · simp only [mapGet?, if_true]
      · rename_i h _
        simp only [mapGet?, if_neg h, ih]

theorem mapGet?_mapInsert_of_ne {α : Type} (m : SMap α) {k j : Nat} (v : α) (h : j ≠ k) :
    mapGet? (mapInsert m k v) j = mapGet? m j := by
  induction m with
  | nil => simp only [mapInsert, mapGet?, if_neg h]
  | cons e m ih =>
    obtain ⟨k', w⟩ := e
    unfold mapInsert
    split
    · rename_i hk
      subst hk
      simp only [mapGet?, if_neg h]
    · split
      · simp only [mapGet?, if_neg h]
      · simp only [mapGet?, ih]

/-- What was written is read back. -/
@[simp] theorem mapGet_mapSet_self {α : Type} [DecidableEq α] (d : α) (m : SMap α) (k : Nat) (v : α) :
    mapGet d (mapSet d m k v) k = v := by
  unfold mapSet mapGet
  split
  · rename_i h
    rw [mapGet?_mapErase_self, h]; rfl
  · rw [mapGet?_mapInsert_self]; rfl

/-- A write leaves every other key alone, whatever an unlisted key reads as. -/
theorem mapGet_mapSet_of_ne {α : Type} [DecidableEq α] (d d' : α) (m : SMap α) {k j : Nat} (v : α) (h : j ≠ k) :
    mapGet d' (mapSet d m k v) j = mapGet d' m j := by
  unfold mapSet mapGet
  split
  · rw [mapGet?_mapErase_of_ne m h]
  · rw [mapGet?_mapInsert_of_ne m v h]

/-- What a cleared range reads as. -/
theorem mapGet_mapClear {α : Type} (d : α) (m : SMap α) (lo hi j : Nat) :
    mapGet d (mapClear m lo hi) j = if lo ≤ j ∧ j < hi then d else mapGet d m j := by
  unfold mapGet
  induction m with
  | nil => simp [mapClear, mapGet?]
  | cons e m ih =>
    obtain ⟨k, v⟩ := e
    unfold mapClear
    by_cases hk : lo ≤ k ∧ k < hi
    · rw [if_pos hk, ih]
      by_cases hj : lo ≤ j ∧ j < hi
      · simp [hj]
      · have : j ≠ k := fun h => hj (h ▸ hk)
        simp [hj, mapGet?, this]
    · rw [if_neg hk]
      by_cases hj : j = k
      · subst hj
        simp [mapGet?, hk]
      · simp [mapGet?, hj, ih]

/-! ## Canonical form -/

/-- Every key lies above a bound. -/
def keysAbove {α : Type} (lo : Option Nat) (m : SMap α) : Prop := ∀ e ∈ m, match lo with | none => True | some b => b < e.1

theorem mapWfAbove_cons {α : Type} [DecidableEq α] (d : α) (lo : Option Nat) (k : Nat) (v : α) (m : SMap α) :
    mapWfAbove d lo ((k, v) :: m) = true ↔
      (match lo with | none => True | some b => b < k) ∧ v ≠ d ∧ mapWfAbove d (some k) m = true := by
  cases lo <;> simp [mapWfAbove, and_assoc]

theorem mapWfAbove_weaken {α : Type} [DecidableEq α] (d : α) (m : SMap α) {a b : Nat} (h : b ≤ a)
    (hw : mapWfAbove d (some a) m = true) : mapWfAbove d (some b) m = true := by
  cases m with
  | nil => rfl
  | cons e m =>
    obtain ⟨k, v⟩ := e
    rw [mapWfAbove_cons] at hw ⊢
    obtain ⟨h1, h2, h3⟩ := hw
    exact ⟨Nat.lt_of_le_of_lt h h1, h2, h3⟩

theorem mapWfAbove_none {α : Type} [DecidableEq α] (d : α) (m : SMap α) {a : Nat} (hw : mapWfAbove d (some a) m = true) :
    mapWfAbove d none m = true := by
  cases m with
  | nil => rfl
  | cons e m =>
    obtain ⟨k, v⟩ := e
    rw [mapWfAbove_cons] at hw ⊢
    exact ⟨trivial, hw.2⟩

theorem mapWfAbove_mapErase {α : Type} [DecidableEq α] (d : α) (m : SMap α) (k : Nat) (lo : Option Nat)
    (hw : mapWfAbove d lo m = true) : mapWfAbove d lo (mapErase m k) = true := by
  induction m generalizing lo with
  | nil => exact hw
  | cons e m ih =>
    obtain ⟨k', v⟩ := e
    have hw' := (mapWfAbove_cons d lo k' v m).1 hw
    unfold mapErase
    split
    · apply ih
      cases lo with
      | none => exact mapWfAbove_none d m hw'.2.2
      | some b => exact mapWfAbove_weaken d m (Nat.le_of_lt hw'.1) hw'.2.2
    · exact (mapWfAbove_cons ..).2 ⟨hw'.1, hw'.2.1, ih _ hw'.2.2⟩

theorem mapWfAbove_mapInsert {α : Type} [DecidableEq α] (d : α) (m : SMap α) (k : Nat) (v : α) (hv : v ≠ d) (lo : Option Nat)
    (hk : match lo with | none => True | some b => b < k) (hw : mapWfAbove d lo m = true) :
    mapWfAbove d lo (mapInsert m k v) = true := by
  induction m generalizing lo with
  | nil => exact (mapWfAbove_cons ..).2 ⟨hk, hv, rfl⟩
  | cons e m ih =>
    obtain ⟨k', w⟩ := e
    have hw' := (mapWfAbove_cons d lo k' w m).1 hw
    unfold mapInsert
    split
    · rename_i h
      subst h
      exact (mapWfAbove_cons ..).2 ⟨hk, hv, hw'.2.2⟩
    · split
      · rename_i h
        exact (mapWfAbove_cons ..).2 ⟨hk, hv, (mapWfAbove_cons ..).2 ⟨h, hw'.2.1, hw'.2.2⟩⟩
      · rename_i h1 h2
        exact (mapWfAbove_cons ..).2 ⟨hw'.1, hw'.2.1, ih (some k') (show k' < k by omega) hw'.2.2⟩

theorem mapWfAbove_mapClear {α : Type} [DecidableEq α] (d : α) (m : SMap α) (a b : Nat) (lo : Option Nat)
    (hw : mapWfAbove d lo m = true) : mapWfAbove d lo (mapClear m a b) = true := by
  induction m generalizing lo with
  | nil => exact hw
  | cons e m ih =>
    obtain ⟨k, v⟩ := e
    have hw' := (mapWfAbove_cons d lo k v m).1 hw
    unfold mapClear
    split
    · apply ih
      cases lo with
      | none => exact mapWfAbove_none d m hw'.2.2
      | some b => exact mapWfAbove_weaken d m (Nat.le_of_lt hw'.1) hw'.2.2
    · exact (mapWfAbove_cons ..).2 ⟨hw'.1, hw'.2.1, ih _ hw'.2.2⟩

/-- A write keeps the canonical form. -/
theorem wf_mapSet {α : Type} [DecidableEq α] (d : α) (m : SMap α) (k : Nat) (v : α) (h : Memory.wf d m = true) :
    Memory.wf d (mapSet d m k v) = true := by
  unfold mapSet
  split
  · exact mapWfAbove_mapErase d m k none h
  · rename_i hv
    exact mapWfAbove_mapInsert d m k v hv none trivial h

/-- So does clearing a range. -/
theorem wf_mapClear {α : Type} [DecidableEq α] (d : α) (m : SMap α) (a b : Nat) (h : Memory.wf d m = true) :
    Memory.wf d (mapClear m a b) = true := mapWfAbove_mapClear d m a b none h

/-- And erasing a key. -/
theorem wf_mapErase {α : Type} [DecidableEq α] (d : α) (m : SMap α) (k : Nat) (h : Memory.wf d m = true) :
    Memory.wf d (mapErase m k) = true := mapWfAbove_mapErase d m k none h

end Sys2Proof.Machine
end

