-- ==== Sys2Proof/Laws/State.lean ====
section
/-! SUPPORT. The fields of the state under every named update of it. -/

namespace Sys2Proof.Machine

/-! ### `ww` -/

@[simp] theorem State.ww_fuses (s : State) (a : Nat) (v : Word) : (s.ww a v).fuses = s.fuses := rfl
@[simp] theorem State.ww_latches (s : State) (a : Nat) (v : Word) : (s.ww a v).latches = s.latches := rfl
@[simp] theorem State.ww_bulk (s : State) (a : Nat) (v : Word) : (s.ww a v).bulk = s.bulk := rfl
@[simp] theorem State.ww_clk (s : State) (a : Nat) (v : Word) : (s.ww a v).clk = s.clk := rfl
@[simp] theorem State.ww_doms (s : State) (a : Nat) (v : Word) : (s.ww a v).doms = s.doms := rfl
@[simp] theorem State.ww_fab (s : State) (a : Nat) (v : Word) : (s.ww a v).fab = s.fab := rfl
@[simp] theorem State.ww_ports (s : State) (a : Nat) (v : Word) : (s.ww a v).ports = s.ports := rfl
@[simp] theorem State.ww_disc (s : State) (a : Nat) (v : Word) : (s.ww a v).disc = s.disc := rfl
@[simp] theorem State.ww_srv (s : State) (a : Nat) (v : Word) : (s.ww a v).srv = s.srv := rfl
@[simp] theorem State.ww_park (s : State) (a : Nat) (v : Word) : (s.ww a v).park = s.park := rfl
@[simp] theorem State.ww_mor (s : State) (a : Nat) (v : Word) : (s.ww a v).mor = s.mor := rfl
@[simp] theorem State.ww_pend (s : State) (a : Nat) (v : Word) : (s.ww a v).pend = s.pend := rfl
@[simp] theorem State.ww_posted (s : State) (a : Nat) (v : Word) : (s.ww a v).posted = s.posted := rfl
@[simp] theorem State.ww_scrub (s : State) (a : Nat) (v : Word) : (s.ww a v).scrub = s.scrub := rfl
@[simp] theorem State.ww_mgmt (s : State) (a : Nat) (v : Word) : (s.ww a v).mgmt = s.mgmt := rfl
@[simp] theorem State.ww_gov (s : State) (a : Nat) (v : Word) : (s.ww a v).gov = s.gov := rfl
@[simp] theorem State.ww_flt (s : State) (a : Nat) (v : Word) : (s.ww a v).flt = s.flt := rfl
@[simp] theorem State.ww_recd (s : State) (a : Nat) (v : Word) : (s.ww a v).recd = s.recd := rfl
@[simp] theorem State.ww_haz (s : State) (a : Nat) (v : Word) : (s.ww a v).haz = s.haz := rfl
@[simp] theorem State.ww_eth (s : State) (a : Nat) (v : Word) : (s.ww a v).eth = s.eth := rfl
@[simp] theorem State.ww_flowSeq (s : State) (a : Nat) (v : Word) : (s.ww a v).flowSeq = s.flowSeq := rfl
@[simp] theorem State.ww_pciUp (s : State) (a : Nat) (v : Word) : (s.ww a v).pciUp = s.pciUp := rfl
@[simp] theorem State.ww_pci (s : State) (a : Nat) (v : Word) : (s.ww a v).pci = s.pci := rfl
@[simp] theorem State.ww_rdata (s : State) (a : Nat) (v : Word) : (s.ww a v).rdata = s.rdata := rfl
@[simp] theorem State.ww_out (s : State) (a : Nat) (v : Word) : (s.ww a v).out = s.out := rfl
@[simp] theorem State.ww_freeCtr (s : State) (a : Nat) (v : Word) : (s.ww a v).freeCtr = s.freeCtr := rfl
@[simp] theorem State.ww_pending (s : State) (a : Nat) (v : Word) : (s.ww a v).pending = s.pending := rfl

/-! ### `put` -/

@[simp] theorem State.put_fuses (s : State) (f : Slot) (v : Nat) : (s.put f v).fuses = s.fuses := rfl
@[simp] theorem State.put_latches (s : State) (f : Slot) (v : Nat) : (s.put f v).latches = s.latches := rfl
@[simp] theorem State.put_bulk (s : State) (f : Slot) (v : Nat) : (s.put f v).bulk = s.bulk := rfl
@[simp] theorem State.put_clk (s : State) (f : Slot) (v : Nat) : (s.put f v).clk = s.clk := rfl
@[simp] theorem State.put_doms (s : State) (f : Slot) (v : Nat) : (s.put f v).doms = s.doms := rfl
@[simp] theorem State.put_fab (s : State) (f : Slot) (v : Nat) : (s.put f v).fab = s.fab := rfl
@[simp] theorem State.put_ports (s : State) (f : Slot) (v : Nat) : (s.put f v).ports = s.ports := rfl
@[simp] theorem State.put_disc (s : State) (f : Slot) (v : Nat) : (s.put f v).disc = s.disc := rfl
@[simp] theorem State.put_srv (s : State) (f : Slot) (v : Nat) : (s.put f v).srv = s.srv := rfl
@[simp] theorem State.put_park (s : State) (f : Slot) (v : Nat) : (s.put f v).park = s.park := rfl
@[simp] theorem State.put_mor (s : State) (f : Slot) (v : Nat) : (s.put f v).mor = s.mor := rfl
@[simp] theorem State.put_pend (s : State) (f : Slot) (v : Nat) : (s.put f v).pend = s.pend := rfl
@[simp] theorem State.put_posted (s : State) (f : Slot) (v : Nat) : (s.put f v).posted = s.posted := rfl
@[simp] theorem State.put_scrub (s : State) (f : Slot) (v : Nat) : (s.put f v).scrub = s.scrub := rfl
@[simp] theorem State.put_mgmt (s : State) (f : Slot) (v : Nat) : (s.put f v).mgmt = s.mgmt := rfl
@[simp] theorem State.put_gov (s : State) (f : Slot) (v : Nat) : (s.put f v).gov = s.gov := rfl
@[simp] theorem State.put_flt (s : State) (f : Slot) (v : Nat) : (s.put f v).flt = s.flt := rfl
@[simp] theorem State.put_recd (s : State) (f : Slot) (v : Nat) : (s.put f v).recd = s.recd := rfl
@[simp] theorem State.put_haz (s : State) (f : Slot) (v : Nat) : (s.put f v).haz = s.haz := rfl
@[simp] theorem State.put_eth (s : State) (f : Slot) (v : Nat) : (s.put f v).eth = s.eth := rfl
@[simp] theorem State.put_flowSeq (s : State) (f : Slot) (v : Nat) : (s.put f v).flowSeq = s.flowSeq := rfl
@[simp] theorem State.put_pciUp (s : State) (f : Slot) (v : Nat) : (s.put f v).pciUp = s.pciUp := rfl
@[simp] theorem State.put_pci (s : State) (f : Slot) (v : Nat) : (s.put f v).pci = s.pci := rfl
@[simp] theorem State.put_rdata (s : State) (f : Slot) (v : Nat) : (s.put f v).rdata = s.rdata := rfl
@[simp] theorem State.put_out (s : State) (f : Slot) (v : Nat) : (s.put f v).out = s.out := rfl
@[simp] theorem State.put_freeCtr (s : State) (f : Slot) (v : Nat) : (s.put f v).freeCtr = s.freeCtr := rfl
@[simp] theorem State.put_pending (s : State) (f : Slot) (v : Nat) : (s.put f v).pending = s.pending := rfl

/-! ### `put2` -/

@[simp] theorem State.put2_fuses (s : State) (lo hi : Slot) (v : Nat) : (s.put2 lo hi v).fuses = s.fuses := rfl
@[simp] theorem State.put2_latches (s : State) (lo hi : Slot) (v : Nat) : (s.put2 lo hi v).latches = s.latches := rfl
@[simp] theorem State.put2_bulk (s : State) (lo hi : Slot) (v : Nat) : (s.put2 lo hi v).bulk = s.bulk := rfl
@[simp] theorem State.put2_clk (s : State) (lo hi : Slot) (v : Nat) : (s.put2 lo hi v).clk = s.clk := rfl
@[simp] theorem State.put2_doms (s : State) (lo hi : Slot) (v : Nat) : (s.put2 lo hi v).doms = s.doms := rfl
@[simp] theorem State.put2_fab (s : State) (lo hi : Slot) (v : Nat) : (s.put2 lo hi v).fab = s.fab := rfl
@[simp] theorem State.put2_ports (s : State) (lo hi : Slot) (v : Nat) : (s.put2 lo hi v).ports = s.ports := rfl
@[simp] theorem State.put2_disc (s : State) (lo hi : Slot) (v : Nat) : (s.put2 lo hi v).disc = s.disc := rfl
@[simp] theorem State.put2_srv (s : State) (lo hi : Slot) (v : Nat) : (s.put2 lo hi v).srv = s.srv := rfl
@[simp] theorem State.put2_park (s : State) (lo hi : Slot) (v : Nat) : (s.put2 lo hi v).park = s.park := rfl
@[simp] theorem State.put2_mor (s : State) (lo hi : Slot) (v : Nat) : (s.put2 lo hi v).mor = s.mor := rfl
@[simp] theorem State.put2_pend (s : State) (lo hi : Slot) (v : Nat) : (s.put2 lo hi v).pend = s.pend := rfl
@[simp] theorem State.put2_posted (s : State) (lo hi : Slot) (v : Nat) : (s.put2 lo hi v).posted = s.posted := rfl
@[simp] theorem State.put2_scrub (s : State) (lo hi : Slot) (v : Nat) : (s.put2 lo hi v).scrub = s.scrub := rfl
@[simp] theorem State.put2_mgmt (s : State) (lo hi : Slot) (v : Nat) : (s.put2 lo hi v).mgmt = s.mgmt := rfl
@[simp] theorem State.put2_gov (s : State) (lo hi : Slot) (v : Nat) : (s.put2 lo hi v).gov = s.gov := rfl
@[simp] theorem State.put2_flt (s : State) (lo hi : Slot) (v : Nat) : (s.put2 lo hi v).flt = s.flt := rfl
@[simp] theorem State.put2_recd (s : State) (lo hi : Slot) (v : Nat) : (s.put2 lo hi v).recd = s.recd := rfl
@[simp] theorem State.put2_haz (s : State) (lo hi : Slot) (v : Nat) : (s.put2 lo hi v).haz = s.haz := rfl
@[simp] theorem State.put2_eth (s : State) (lo hi : Slot) (v : Nat) : (s.put2 lo hi v).eth = s.eth := rfl
@[simp] theorem State.put2_flowSeq (s : State) (lo hi : Slot) (v : Nat) : (s.put2 lo hi v).flowSeq = s.flowSeq := rfl
@[simp] theorem State.put2_pciUp (s : State) (lo hi : Slot) (v : Nat) : (s.put2 lo hi v).pciUp = s.pciUp := rfl
@[simp] theorem State.put2_pci (s : State) (lo hi : Slot) (v : Nat) : (s.put2 lo hi v).pci = s.pci := rfl
@[simp] theorem State.put2_rdata (s : State) (lo hi : Slot) (v : Nat) : (s.put2 lo hi v).rdata = s.rdata := rfl
@[simp] theorem State.put2_out (s : State) (lo hi : Slot) (v : Nat) : (s.put2 lo hi v).out = s.out := rfl
@[simp] theorem State.put2_freeCtr (s : State) (lo hi : Slot) (v : Nat) : (s.put2 lo hi v).freeCtr = s.freeCtr := rfl
@[simp] theorem State.put2_pending (s : State) (lo hi : Slot) (v : Nat) : (s.put2 lo hi v).pending = s.pending := rfl

/-! ### `inc` -/

@[simp] theorem State.inc_fuses (s : State) (f : Slot) (k : Nat) : (s.inc f k).fuses = s.fuses := rfl
@[simp] theorem State.inc_latches (s : State) (f : Slot) (k : Nat) : (s.inc f k).latches = s.latches := rfl
@[simp] theorem State.inc_bulk (s : State) (f : Slot) (k : Nat) : (s.inc f k).bulk = s.bulk := rfl
@[simp] theorem State.inc_clk (s : State) (f : Slot) (k : Nat) : (s.inc f k).clk = s.clk := rfl
@[simp] theorem State.inc_doms (s : State) (f : Slot) (k : Nat) : (s.inc f k).doms = s.doms := rfl
@[simp] theorem State.inc_fab (s : State) (f : Slot) (k : Nat) : (s.inc f k).fab = s.fab := rfl
@[simp] theorem State.inc_ports (s : State) (f : Slot) (k : Nat) : (s.inc f k).ports = s.ports := rfl
@[simp] theorem State.inc_disc (s : State) (f : Slot) (k : Nat) : (s.inc f k).disc = s.disc := rfl
@[simp] theorem State.inc_srv (s : State) (f : Slot) (k : Nat) : (s.inc f k).srv = s.srv := rfl
@[simp] theorem State.inc_park (s : State) (f : Slot) (k : Nat) : (s.inc f k).park = s.park := rfl
@[simp] theorem State.inc_mor (s : State) (f : Slot) (k : Nat) : (s.inc f k).mor = s.mor := rfl
@[simp] theorem State.inc_pend (s : State) (f : Slot) (k : Nat) : (s.inc f k).pend = s.pend := rfl
@[simp] theorem State.inc_posted (s : State) (f : Slot) (k : Nat) : (s.inc f k).posted = s.posted := rfl
@[simp] theorem State.inc_scrub (s : State) (f : Slot) (k : Nat) : (s.inc f k).scrub = s.scrub := rfl
@[simp] theorem State.inc_mgmt (s : State) (f : Slot) (k : Nat) : (s.inc f k).mgmt = s.mgmt := rfl
@[simp] theorem State.inc_gov (s : State) (f : Slot) (k : Nat) : (s.inc f k).gov = s.gov := rfl
@[simp] theorem State.inc_flt (s : State) (f : Slot) (k : Nat) : (s.inc f k).flt = s.flt := rfl
@[simp] theorem State.inc_recd (s : State) (f : Slot) (k : Nat) : (s.inc f k).recd = s.recd := rfl
@[simp] theorem State.inc_haz (s : State) (f : Slot) (k : Nat) : (s.inc f k).haz = s.haz := rfl
@[simp] theorem State.inc_eth (s : State) (f : Slot) (k : Nat) : (s.inc f k).eth = s.eth := rfl
@[simp] theorem State.inc_flowSeq (s : State) (f : Slot) (k : Nat) : (s.inc f k).flowSeq = s.flowSeq := rfl
@[simp] theorem State.inc_pciUp (s : State) (f : Slot) (k : Nat) : (s.inc f k).pciUp = s.pciUp := rfl
@[simp] theorem State.inc_pci (s : State) (f : Slot) (k : Nat) : (s.inc f k).pci = s.pci := rfl
@[simp] theorem State.inc_rdata (s : State) (f : Slot) (k : Nat) : (s.inc f k).rdata = s.rdata := rfl
@[simp] theorem State.inc_out (s : State) (f : Slot) (k : Nat) : (s.inc f k).out = s.out := rfl
@[simp] theorem State.inc_freeCtr (s : State) (f : Slot) (k : Nat) : (s.inc f k).freeCtr = s.freeCtr := rfl
@[simp] theorem State.inc_pending (s : State) (f : Slot) (k : Nat) : (s.inc f k).pending = s.pending := rfl

/-! ### `incSat` -/

@[simp] theorem State.incSat_fuses (s : State) (f : Slot) (k : Nat) : (s.incSat f k).fuses = s.fuses := rfl
@[simp] theorem State.incSat_latches (s : State) (f : Slot) (k : Nat) : (s.incSat f k).latches = s.latches := rfl
@[simp] theorem State.incSat_bulk (s : State) (f : Slot) (k : Nat) : (s.incSat f k).bulk = s.bulk := rfl
@[simp] theorem State.incSat_clk (s : State) (f : Slot) (k : Nat) : (s.incSat f k).clk = s.clk := rfl
@[simp] theorem State.incSat_doms (s : State) (f : Slot) (k : Nat) : (s.incSat f k).doms = s.doms := rfl
@[simp] theorem State.incSat_fab (s : State) (f : Slot) (k : Nat) : (s.incSat f k).fab = s.fab := rfl
@[simp] theorem State.incSat_ports (s : State) (f : Slot) (k : Nat) : (s.incSat f k).ports = s.ports := rfl
@[simp] theorem State.incSat_disc (s : State) (f : Slot) (k : Nat) : (s.incSat f k).disc = s.disc := rfl
@[simp] theorem State.incSat_srv (s : State) (f : Slot) (k : Nat) : (s.incSat f k).srv = s.srv := rfl
@[simp] theorem State.incSat_park (s : State) (f : Slot) (k : Nat) : (s.incSat f k).park = s.park := rfl
@[simp] theorem State.incSat_mor (s : State) (f : Slot) (k : Nat) : (s.incSat f k).mor = s.mor := rfl
@[simp] theorem State.incSat_pend (s : State) (f : Slot) (k : Nat) : (s.incSat f k).pend = s.pend := rfl
@[simp] theorem State.incSat_posted (s : State) (f : Slot) (k : Nat) : (s.incSat f k).posted = s.posted := rfl
@[simp] theorem State.incSat_scrub (s : State) (f : Slot) (k : Nat) : (s.incSat f k).scrub = s.scrub := rfl
@[simp] theorem State.incSat_mgmt (s : State) (f : Slot) (k : Nat) : (s.incSat f k).mgmt = s.mgmt := rfl
@[simp] theorem State.incSat_gov (s : State) (f : Slot) (k : Nat) : (s.incSat f k).gov = s.gov := rfl
@[simp] theorem State.incSat_flt (s : State) (f : Slot) (k : Nat) : (s.incSat f k).flt = s.flt := rfl
@[simp] theorem State.incSat_recd (s : State) (f : Slot) (k : Nat) : (s.incSat f k).recd = s.recd := rfl
@[simp] theorem State.incSat_haz (s : State) (f : Slot) (k : Nat) : (s.incSat f k).haz = s.haz := rfl
@[simp] theorem State.incSat_eth (s : State) (f : Slot) (k : Nat) : (s.incSat f k).eth = s.eth := rfl
@[simp] theorem State.incSat_flowSeq (s : State) (f : Slot) (k : Nat) : (s.incSat f k).flowSeq = s.flowSeq := rfl
@[simp] theorem State.incSat_pciUp (s : State) (f : Slot) (k : Nat) : (s.incSat f k).pciUp = s.pciUp := rfl
@[simp] theorem State.incSat_pci (s : State) (f : Slot) (k : Nat) : (s.incSat f k).pci = s.pci := rfl
@[simp] theorem State.incSat_rdata (s : State) (f : Slot) (k : Nat) : (s.incSat f k).rdata = s.rdata := rfl
@[simp] theorem State.incSat_out (s : State) (f : Slot) (k : Nat) : (s.incSat f k).out = s.out := rfl
@[simp] theorem State.incSat_freeCtr (s : State) (f : Slot) (k : Nat) : (s.incSat f k).freeCtr = s.freeCtr := rfl
@[simp] theorem State.incSat_pending (s : State) (f : Slot) (k : Nat) : (s.incSat f k).pending = s.pending := rfl

/-! ### `setDom` -/

@[simp] theorem State.setDom_fuses (s : State) (d : Nat) (x : Dom) : (s.setDom d x).fuses = s.fuses := rfl
@[simp] theorem State.setDom_regs (s : State) (d : Nat) (x : Dom) : (s.setDom d x).regs = s.regs := rfl
@[simp] theorem State.setDom_latches (s : State) (d : Nat) (x : Dom) : (s.setDom d x).latches = s.latches := rfl
@[simp] theorem State.setDom_bulk (s : State) (d : Nat) (x : Dom) : (s.setDom d x).bulk = s.bulk := rfl
@[simp] theorem State.setDom_clk (s : State) (d : Nat) (x : Dom) : (s.setDom d x).clk = s.clk := rfl
@[simp] theorem State.setDom_fab (s : State) (d : Nat) (x : Dom) : (s.setDom d x).fab = s.fab := rfl
@[simp] theorem State.setDom_ports (s : State) (d : Nat) (x : Dom) : (s.setDom d x).ports = s.ports := rfl
@[simp] theorem State.setDom_disc (s : State) (d : Nat) (x : Dom) : (s.setDom d x).disc = s.disc := rfl
@[simp] theorem State.setDom_srv (s : State) (d : Nat) (x : Dom) : (s.setDom d x).srv = s.srv := rfl
@[simp] theorem State.setDom_park (s : State) (d : Nat) (x : Dom) : (s.setDom d x).park = s.park := rfl
@[simp] theorem State.setDom_mor (s : State) (d : Nat) (x : Dom) : (s.setDom d x).mor = s.mor := rfl
@[simp] theorem State.setDom_pend (s : State) (d : Nat) (x : Dom) : (s.setDom d x).pend = s.pend := rfl
@[simp] theorem State.setDom_posted (s : State) (d : Nat) (x : Dom) : (s.setDom d x).posted = s.posted := rfl
@[simp] theorem State.setDom_scrub (s : State) (d : Nat) (x : Dom) : (s.setDom d x).scrub = s.scrub := rfl
@[simp] theorem State.setDom_mgmt (s : State) (d : Nat) (x : Dom) : (s.setDom d x).mgmt = s.mgmt := rfl
@[simp] theorem State.setDom_gov (s : State) (d : Nat) (x : Dom) : (s.setDom d x).gov = s.gov := rfl
@[simp] theorem State.setDom_flt (s : State) (d : Nat) (x : Dom) : (s.setDom d x).flt = s.flt := rfl
@[simp] theorem State.setDom_recd (s : State) (d : Nat) (x : Dom) : (s.setDom d x).recd = s.recd := rfl
@[simp] theorem State.setDom_haz (s : State) (d : Nat) (x : Dom) : (s.setDom d x).haz = s.haz := rfl
@[simp] theorem State.setDom_eth (s : State) (d : Nat) (x : Dom) : (s.setDom d x).eth = s.eth := rfl
@[simp] theorem State.setDom_flowSeq (s : State) (d : Nat) (x : Dom) : (s.setDom d x).flowSeq = s.flowSeq := rfl
@[simp] theorem State.setDom_pciUp (s : State) (d : Nat) (x : Dom) : (s.setDom d x).pciUp = s.pciUp := rfl
@[simp] theorem State.setDom_pci (s : State) (d : Nat) (x : Dom) : (s.setDom d x).pci = s.pci := rfl
@[simp] theorem State.setDom_rdata (s : State) (d : Nat) (x : Dom) : (s.setDom d x).rdata = s.rdata := rfl
@[simp] theorem State.setDom_out (s : State) (d : Nat) (x : Dom) : (s.setDom d x).out = s.out := rfl
@[simp] theorem State.setDom_freeCtr (s : State) (d : Nat) (x : Dom) : (s.setDom d x).freeCtr = s.freeCtr := rfl
@[simp] theorem State.setDom_pending (s : State) (d : Nat) (x : Dom) : (s.setDom d x).pending = s.pending := rfl

/-! ### `modDom` -/

@[simp] theorem State.modDom_fuses (s : State) (d : Nat) (f : Dom → Dom) : (s.modDom d f).fuses = s.fuses := rfl
@[simp] theorem State.modDom_regs (s : State) (d : Nat) (f : Dom → Dom) : (s.modDom d f).regs = s.regs := rfl
@[simp] theorem State.modDom_latches (s : State) (d : Nat) (f : Dom → Dom) : (s.modDom d f).latches = s.latches := rfl
@[simp] theorem State.modDom_bulk (s : State) (d : Nat) (f : Dom → Dom) : (s.modDom d f).bulk = s.bulk := rfl
@[simp] theorem State.modDom_clk (s : State) (d : Nat) (f : Dom → Dom) : (s.modDom d f).clk = s.clk := rfl
@[simp] theorem State.modDom_fab (s : State) (d : Nat) (f : Dom → Dom) : (s.modDom d f).fab = s.fab := rfl
@[simp] theorem State.modDom_ports (s : State) (d : Nat) (f : Dom → Dom) : (s.modDom d f).ports = s.ports := rfl
@[simp] theorem State.modDom_disc (s : State) (d : Nat) (f : Dom → Dom) : (s.modDom d f).disc = s.disc := rfl
@[simp] theorem State.modDom_srv (s : State) (d : Nat) (f : Dom → Dom) : (s.modDom d f).srv = s.srv := rfl
@[simp] theorem State.modDom_park (s : State) (d : Nat) (f : Dom → Dom) : (s.modDom d f).park = s.park := rfl
@[simp] theorem State.modDom_mor (s : State) (d : Nat) (f : Dom → Dom) : (s.modDom d f).mor = s.mor := rfl
@[simp] theorem State.modDom_pend (s : State) (d : Nat) (f : Dom → Dom) : (s.modDom d f).pend = s.pend := rfl
@[simp] theorem State.modDom_posted (s : State) (d : Nat) (f : Dom → Dom) : (s.modDom d f).posted = s.posted := rfl
@[simp] theorem State.modDom_scrub (s : State) (d : Nat) (f : Dom → Dom) : (s.modDom d f).scrub = s.scrub := rfl
@[simp] theorem State.modDom_mgmt (s : State) (d : Nat) (f : Dom → Dom) : (s.modDom d f).mgmt = s.mgmt := rfl
@[simp] theorem State.modDom_gov (s : State) (d : Nat) (f : Dom → Dom) : (s.modDom d f).gov = s.gov := rfl
@[simp] theorem State.modDom_flt (s : State) (d : Nat) (f : Dom → Dom) : (s.modDom d f).flt = s.flt := rfl
@[simp] theorem State.modDom_recd (s : State) (d : Nat) (f : Dom → Dom) : (s.modDom d f).recd = s.recd := rfl
@[simp] theorem State.modDom_haz (s : State) (d : Nat) (f : Dom → Dom) : (s.modDom d f).haz = s.haz := rfl
@[simp] theorem State.modDom_eth (s : State) (d : Nat) (f : Dom → Dom) : (s.modDom d f).eth = s.eth := rfl
@[simp] theorem State.modDom_flowSeq (s : State) (d : Nat) (f : Dom → Dom) : (s.modDom d f).flowSeq = s.flowSeq := rfl
@[simp] theorem State.modDom_pciUp (s : State) (d : Nat) (f : Dom → Dom) : (s.modDom d f).pciUp = s.pciUp := rfl
@[simp] theorem State.modDom_pci (s : State) (d : Nat) (f : Dom → Dom) : (s.modDom d f).pci = s.pci := rfl
@[simp] theorem State.modDom_rdata (s : State) (d : Nat) (f : Dom → Dom) : (s.modDom d f).rdata = s.rdata := rfl
@[simp] theorem State.modDom_out (s : State) (d : Nat) (f : Dom → Dom) : (s.modDom d f).out = s.out := rfl
@[simp] theorem State.modDom_freeCtr (s : State) (d : Nat) (f : Dom → Dom) : (s.modDom d f).freeCtr = s.freeCtr := rfl
@[simp] theorem State.modDom_pending (s : State) (d : Nat) (f : Dom → Dom) : (s.modDom d f).pending = s.pending := rfl

/-! ### `modFab` -/

@[simp] theorem State.modFab_fuses (s : State) (f : Fabric → Fabric) : (s.modFab f).fuses = s.fuses := rfl
@[simp] theorem State.modFab_regs (s : State) (f : Fabric → Fabric) : (s.modFab f).regs = s.regs := rfl
@[simp] theorem State.modFab_latches (s : State) (f : Fabric → Fabric) : (s.modFab f).latches = s.latches := rfl
@[simp] theorem State.modFab_bulk (s : State) (f : Fabric → Fabric) : (s.modFab f).bulk = s.bulk := rfl
@[simp] theorem State.modFab_clk (s : State) (f : Fabric → Fabric) : (s.modFab f).clk = s.clk := rfl
@[simp] theorem State.modFab_doms (s : State) (f : Fabric → Fabric) : (s.modFab f).doms = s.doms := rfl
@[simp] theorem State.modFab_ports (s : State) (f : Fabric → Fabric) : (s.modFab f).ports = s.ports := rfl
@[simp] theorem State.modFab_disc (s : State) (f : Fabric → Fabric) : (s.modFab f).disc = s.disc := rfl
@[simp] theorem State.modFab_srv (s : State) (f : Fabric → Fabric) : (s.modFab f).srv = s.srv := rfl
@[simp] theorem State.modFab_park (s : State) (f : Fabric → Fabric) : (s.modFab f).park = s.park := rfl
@[simp] theorem State.modFab_mor (s : State) (f : Fabric → Fabric) : (s.modFab f).mor = s.mor := rfl
@[simp] theorem State.modFab_pend (s : State) (f : Fabric → Fabric) : (s.modFab f).pend = s.pend := rfl
@[simp] theorem State.modFab_posted (s : State) (f : Fabric → Fabric) : (s.modFab f).posted = s.posted := rfl
@[simp] theorem State.modFab_scrub (s : State) (f : Fabric → Fabric) : (s.modFab f).scrub = s.scrub := rfl
@[simp] theorem State.modFab_mgmt (s : State) (f : Fabric → Fabric) : (s.modFab f).mgmt = s.mgmt := rfl
@[simp] theorem State.modFab_gov (s : State) (f : Fabric → Fabric) : (s.modFab f).gov = s.gov := rfl
@[simp] theorem State.modFab_flt (s : State) (f : Fabric → Fabric) : (s.modFab f).flt = s.flt := rfl
@[simp] theorem State.modFab_recd (s : State) (f : Fabric → Fabric) : (s.modFab f).recd = s.recd := rfl
@[simp] theorem State.modFab_haz (s : State) (f : Fabric → Fabric) : (s.modFab f).haz = s.haz := rfl
@[simp] theorem State.modFab_eth (s : State) (f : Fabric → Fabric) : (s.modFab f).eth = s.eth := rfl
@[simp] theorem State.modFab_flowSeq (s : State) (f : Fabric → Fabric) : (s.modFab f).flowSeq = s.flowSeq := rfl
@[simp] theorem State.modFab_pciUp (s : State) (f : Fabric → Fabric) : (s.modFab f).pciUp = s.pciUp := rfl
@[simp] theorem State.modFab_pci (s : State) (f : Fabric → Fabric) : (s.modFab f).pci = s.pci := rfl
@[simp] theorem State.modFab_rdata (s : State) (f : Fabric → Fabric) : (s.modFab f).rdata = s.rdata := rfl
@[simp] theorem State.modFab_out (s : State) (f : Fabric → Fabric) : (s.modFab f).out = s.out := rfl
@[simp] theorem State.modFab_freeCtr (s : State) (f : Fabric → Fabric) : (s.modFab f).freeCtr = s.freeCtr := rfl
@[simp] theorem State.modFab_pending (s : State) (f : Fabric → Fabric) : (s.modFab f).pending = s.pending := rfl

/-! ### `modHaz` -/

@[simp] theorem State.modHaz_fuses (s : State) (f : Haz → Haz) : (s.modHaz f).fuses = s.fuses := rfl
@[simp] theorem State.modHaz_regs (s : State) (f : Haz → Haz) : (s.modHaz f).regs = s.regs := rfl
@[simp] theorem State.modHaz_latches (s : State) (f : Haz → Haz) : (s.modHaz f).latches = s.latches := rfl
@[simp] theorem State.modHaz_bulk (s : State) (f : Haz → Haz) : (s.modHaz f).bulk = s.bulk := rfl
@[simp] theorem State.modHaz_clk (s : State) (f : Haz → Haz) : (s.modHaz f).clk = s.clk := rfl
@[simp] theorem State.modHaz_doms (s : State) (f : Haz → Haz) : (s.modHaz f).doms = s.doms := rfl
@[simp] theorem State.modHaz_fab (s : State) (f : Haz → Haz) : (s.modHaz f).fab = s.fab := rfl
@[simp] theorem State.modHaz_ports (s : State) (f : Haz → Haz) : (s.modHaz f).ports = s.ports := rfl
@[simp] theorem State.modHaz_disc (s : State) (f : Haz → Haz) : (s.modHaz f).disc = s.disc := rfl
@[simp] theorem State.modHaz_srv (s : State) (f : Haz → Haz) : (s.modHaz f).srv = s.srv := rfl
@[simp] theorem State.modHaz_park (s : State) (f : Haz → Haz) : (s.modHaz f).park = s.park := rfl
@[simp] theorem State.modHaz_mor (s : State) (f : Haz → Haz) : (s.modHaz f).mor = s.mor := rfl
@[simp] theorem State.modHaz_pend (s : State) (f : Haz → Haz) : (s.modHaz f).pend = s.pend := rfl
@[simp] theorem State.modHaz_posted (s : State) (f : Haz → Haz) : (s.modHaz f).posted = s.posted := rfl
@[simp] theorem State.modHaz_scrub (s : State) (f : Haz → Haz) : (s.modHaz f).scrub = s.scrub := rfl
@[simp] theorem State.modHaz_mgmt (s : State) (f : Haz → Haz) : (s.modHaz f).mgmt = s.mgmt := rfl
@[simp] theorem State.modHaz_gov (s : State) (f : Haz → Haz) : (s.modHaz f).gov = s.gov := rfl
@[simp] theorem State.modHaz_flt (s : State) (f : Haz → Haz) : (s.modHaz f).flt = s.flt := rfl
@[simp] theorem State.modHaz_recd (s : State) (f : Haz → Haz) : (s.modHaz f).recd = s.recd := rfl
@[simp] theorem State.modHaz_eth (s : State) (f : Haz → Haz) : (s.modHaz f).eth = s.eth := rfl
@[simp] theorem State.modHaz_flowSeq (s : State) (f : Haz → Haz) : (s.modHaz f).flowSeq = s.flowSeq := rfl
@[simp] theorem State.modHaz_pciUp (s : State) (f : Haz → Haz) : (s.modHaz f).pciUp = s.pciUp := rfl
@[simp] theorem State.modHaz_pci (s : State) (f : Haz → Haz) : (s.modHaz f).pci = s.pci := rfl
@[simp] theorem State.modHaz_rdata (s : State) (f : Haz → Haz) : (s.modHaz f).rdata = s.rdata := rfl
@[simp] theorem State.modHaz_out (s : State) (f : Haz → Haz) : (s.modHaz f).out = s.out := rfl
@[simp] theorem State.modHaz_freeCtr (s : State) (f : Haz → Haz) : (s.modHaz f).freeCtr = s.freeCtr := rfl
@[simp] theorem State.modHaz_pending (s : State) (f : Haz → Haz) : (s.modHaz f).pending = s.pending := rfl

/-! ### `setPort` -/

@[simp] theorem State.setPort_fuses (s : State) (p : Nat) (x : Port) : (s.setPort p x).fuses = s.fuses := rfl
@[simp] theorem State.setPort_regs (s : State) (p : Nat) (x : Port) : (s.setPort p x).regs = s.regs := rfl
@[simp] theorem State.setPort_latches (s : State) (p : Nat) (x : Port) : (s.setPort p x).latches = s.latches := rfl
@[simp] theorem State.setPort_bulk (s : State) (p : Nat) (x : Port) : (s.setPort p x).bulk = s.bulk := rfl
@[simp] theorem State.setPort_clk (s : State) (p : Nat) (x : Port) : (s.setPort p x).clk = s.clk := rfl
@[simp] theorem State.setPort_doms (s : State) (p : Nat) (x : Port) : (s.setPort p x).doms = s.doms := rfl
@[simp] theorem State.setPort_fab (s : State) (p : Nat) (x : Port) : (s.setPort p x).fab = s.fab := rfl
@[simp] theorem State.setPort_disc (s : State) (p : Nat) (x : Port) : (s.setPort p x).disc = s.disc := rfl
@[simp] theorem State.setPort_srv (s : State) (p : Nat) (x : Port) : (s.setPort p x).srv = s.srv := rfl
@[simp] theorem State.setPort_park (s : State) (p : Nat) (x : Port) : (s.setPort p x).park = s.park := rfl
@[simp] theorem State.setPort_mor (s : State) (p : Nat) (x : Port) : (s.setPort p x).mor = s.mor := rfl
@[simp] theorem State.setPort_pend (s : State) (p : Nat) (x : Port) : (s.setPort p x).pend = s.pend := rfl
@[simp] theorem State.setPort_posted (s : State) (p : Nat) (x : Port) : (s.setPort p x).posted = s.posted := rfl
@[simp] theorem State.setPort_scrub (s : State) (p : Nat) (x : Port) : (s.setPort p x).scrub = s.scrub := rfl
@[simp] theorem State.setPort_mgmt (s : State) (p : Nat) (x : Port) : (s.setPort p x).mgmt = s.mgmt := rfl
@[simp] theorem State.setPort_gov (s : State) (p : Nat) (x : Port) : (s.setPort p x).gov = s.gov := rfl
@[simp] theorem State.setPort_flt (s : State) (p : Nat) (x : Port) : (s.setPort p x).flt = s.flt := rfl
@[simp] theorem State.setPort_recd (s : State) (p : Nat) (x : Port) : (s.setPort p x).recd = s.recd := rfl
@[simp] theorem State.setPort_haz (s : State) (p : Nat) (x : Port) : (s.setPort p x).haz = s.haz := rfl
@[simp] theorem State.setPort_eth (s : State) (p : Nat) (x : Port) : (s.setPort p x).eth = s.eth := rfl
@[simp] theorem State.setPort_flowSeq (s : State) (p : Nat) (x : Port) : (s.setPort p x).flowSeq = s.flowSeq := rfl
@[simp] theorem State.setPort_pciUp (s : State) (p : Nat) (x : Port) : (s.setPort p x).pciUp = s.pciUp := rfl
@[simp] theorem State.setPort_pci (s : State) (p : Nat) (x : Port) : (s.setPort p x).pci = s.pci := rfl
@[simp] theorem State.setPort_rdata (s : State) (p : Nat) (x : Port) : (s.setPort p x).rdata = s.rdata := rfl
@[simp] theorem State.setPort_out (s : State) (p : Nat) (x : Port) : (s.setPort p x).out = s.out := rfl
@[simp] theorem State.setPort_freeCtr (s : State) (p : Nat) (x : Port) : (s.setPort p x).freeCtr = s.freeCtr := rfl
@[simp] theorem State.setPort_pending (s : State) (p : Nat) (x : Port) : (s.setPort p x).pending = s.pending := rfl

/-! ### `modPort` -/

@[simp] theorem State.modPort_fuses (s : State) (p : Nat) (f : Port → Port) : (s.modPort p f).fuses = s.fuses := rfl
@[simp] theorem State.modPort_regs (s : State) (p : Nat) (f : Port → Port) : (s.modPort p f).regs = s.regs := rfl
@[simp] theorem State.modPort_latches (s : State) (p : Nat) (f : Port → Port) : (s.modPort p f).latches = s.latches := rfl
@[simp] theorem State.modPort_bulk (s : State) (p : Nat) (f : Port → Port) : (s.modPort p f).bulk = s.bulk := rfl
@[simp] theorem State.modPort_clk (s : State) (p : Nat) (f : Port → Port) : (s.modPort p f).clk = s.clk := rfl
@[simp] theorem State.modPort_doms (s : State) (p : Nat) (f : Port → Port) : (s.modPort p f).doms = s.doms := rfl
@[simp] theorem State.modPort_fab (s : State) (p : Nat) (f : Port → Port) : (s.modPort p f).fab = s.fab := rfl
@[simp] theorem State.modPort_disc (s : State) (p : Nat) (f : Port → Port) : (s.modPort p f).disc = s.disc := rfl
@[simp] theorem State.modPort_srv (s : State) (p : Nat) (f : Port → Port) : (s.modPort p f).srv = s.srv := rfl
@[simp] theorem State.modPort_park (s : State) (p : Nat) (f : Port → Port) : (s.modPort p f).park = s.park := rfl
@[simp] theorem State.modPort_mor (s : State) (p : Nat) (f : Port → Port) : (s.modPort p f).mor = s.mor := rfl
@[simp] theorem State.modPort_pend (s : State) (p : Nat) (f : Port → Port) : (s.modPort p f).pend = s.pend := rfl
@[simp] theorem State.modPort_posted (s : State) (p : Nat) (f : Port → Port) : (s.modPort p f).posted = s.posted := rfl
@[simp] theorem State.modPort_scrub (s : State) (p : Nat) (f : Port → Port) : (s.modPort p f).scrub = s.scrub := rfl
@[simp] theorem State.modPort_mgmt (s : State) (p : Nat) (f : Port → Port) : (s.modPort p f).mgmt = s.mgmt := rfl
@[simp] theorem State.modPort_gov (s : State) (p : Nat) (f : Port → Port) : (s.modPort p f).gov = s.gov := rfl
@[simp] theorem State.modPort_flt (s : State) (p : Nat) (f : Port → Port) : (s.modPort p f).flt = s.flt := rfl
@[simp] theorem State.modPort_recd (s : State) (p : Nat) (f : Port → Port) : (s.modPort p f).recd = s.recd := rfl
@[simp] theorem State.modPort_haz (s : State) (p : Nat) (f : Port → Port) : (s.modPort p f).haz = s.haz := rfl
@[simp] theorem State.modPort_eth (s : State) (p : Nat) (f : Port → Port) : (s.modPort p f).eth = s.eth := rfl
@[simp] theorem State.modPort_flowSeq (s : State) (p : Nat) (f : Port → Port) : (s.modPort p f).flowSeq = s.flowSeq := rfl
@[simp] theorem State.modPort_pciUp (s : State) (p : Nat) (f : Port → Port) : (s.modPort p f).pciUp = s.pciUp := rfl
@[simp] theorem State.modPort_pci (s : State) (p : Nat) (f : Port → Port) : (s.modPort p f).pci = s.pci := rfl
@[simp] theorem State.modPort_rdata (s : State) (p : Nat) (f : Port → Port) : (s.modPort p f).rdata = s.rdata := rfl
@[simp] theorem State.modPort_out (s : State) (p : Nat) (f : Port → Port) : (s.modPort p f).out = s.out := rfl
@[simp] theorem State.modPort_freeCtr (s : State) (p : Nat) (f : Port → Port) : (s.modPort p f).freeCtr = s.freeCtr := rfl
@[simp] theorem State.modPort_pending (s : State) (p : Nat) (f : Port → Port) : (s.modPort p f).pending = s.pending := rfl

/-! ### `setSrv` -/

@[simp] theorem State.setSrv_fuses (s : State) (p : Nat) (x : Srv) : (s.setSrv p x).fuses = s.fuses := rfl
@[simp] theorem State.setSrv_regs (s : State) (p : Nat) (x : Srv) : (s.setSrv p x).regs = s.regs := rfl
@[simp] theorem State.setSrv_latches (s : State) (p : Nat) (x : Srv) : (s.setSrv p x).latches = s.latches := rfl
@[simp] theorem State.setSrv_bulk (s : State) (p : Nat) (x : Srv) : (s.setSrv p x).bulk = s.bulk := rfl
@[simp] theorem State.setSrv_clk (s : State) (p : Nat) (x : Srv) : (s.setSrv p x).clk = s.clk := rfl
@[simp] theorem State.setSrv_doms (s : State) (p : Nat) (x : Srv) : (s.setSrv p x).doms = s.doms := rfl
@[simp] theorem State.setSrv_fab (s : State) (p : Nat) (x : Srv) : (s.setSrv p x).fab = s.fab := rfl
@[simp] theorem State.setSrv_ports (s : State) (p : Nat) (x : Srv) : (s.setSrv p x).ports = s.ports := rfl
@[simp] theorem State.setSrv_disc (s : State) (p : Nat) (x : Srv) : (s.setSrv p x).disc = s.disc := rfl
@[simp] theorem State.setSrv_park (s : State) (p : Nat) (x : Srv) : (s.setSrv p x).park = s.park := rfl
@[simp] theorem State.setSrv_mor (s : State) (p : Nat) (x : Srv) : (s.setSrv p x).mor = s.mor := rfl
@[simp] theorem State.setSrv_pend (s : State) (p : Nat) (x : Srv) : (s.setSrv p x).pend = s.pend := rfl
@[simp] theorem State.setSrv_posted (s : State) (p : Nat) (x : Srv) : (s.setSrv p x).posted = s.posted := rfl
@[simp] theorem State.setSrv_scrub (s : State) (p : Nat) (x : Srv) : (s.setSrv p x).scrub = s.scrub := rfl
@[simp] theorem State.setSrv_mgmt (s : State) (p : Nat) (x : Srv) : (s.setSrv p x).mgmt = s.mgmt := rfl
@[simp] theorem State.setSrv_gov (s : State) (p : Nat) (x : Srv) : (s.setSrv p x).gov = s.gov := rfl
@[simp] theorem State.setSrv_flt (s : State) (p : Nat) (x : Srv) : (s.setSrv p x).flt = s.flt := rfl
@[simp] theorem State.setSrv_recd (s : State) (p : Nat) (x : Srv) : (s.setSrv p x).recd = s.recd := rfl
@[simp] theorem State.setSrv_haz (s : State) (p : Nat) (x : Srv) : (s.setSrv p x).haz = s.haz := rfl
@[simp] theorem State.setSrv_eth (s : State) (p : Nat) (x : Srv) : (s.setSrv p x).eth = s.eth := rfl
@[simp] theorem State.setSrv_flowSeq (s : State) (p : Nat) (x : Srv) : (s.setSrv p x).flowSeq = s.flowSeq := rfl
@[simp] theorem State.setSrv_pciUp (s : State) (p : Nat) (x : Srv) : (s.setSrv p x).pciUp = s.pciUp := rfl
@[simp] theorem State.setSrv_pci (s : State) (p : Nat) (x : Srv) : (s.setSrv p x).pci = s.pci := rfl
@[simp] theorem State.setSrv_rdata (s : State) (p : Nat) (x : Srv) : (s.setSrv p x).rdata = s.rdata := rfl
@[simp] theorem State.setSrv_out (s : State) (p : Nat) (x : Srv) : (s.setSrv p x).out = s.out := rfl
@[simp] theorem State.setSrv_freeCtr (s : State) (p : Nat) (x : Srv) : (s.setSrv p x).freeCtr = s.freeCtr := rfl
@[simp] theorem State.setSrv_pending (s : State) (p : Nat) (x : Srv) : (s.setSrv p x).pending = s.pending := rfl

/-! ### `modSrv` -/

@[simp] theorem State.modSrv_fuses (s : State) (p : Nat) (f : Srv → Srv) : (s.modSrv p f).fuses = s.fuses := rfl
@[simp] theorem State.modSrv_regs (s : State) (p : Nat) (f : Srv → Srv) : (s.modSrv p f).regs = s.regs := rfl
@[simp] theorem State.modSrv_latches (s : State) (p : Nat) (f : Srv → Srv) : (s.modSrv p f).latches = s.latches := rfl
@[simp] theorem State.modSrv_bulk (s : State) (p : Nat) (f : Srv → Srv) : (s.modSrv p f).bulk = s.bulk := rfl
@[simp] theorem State.modSrv_clk (s : State) (p : Nat) (f : Srv → Srv) : (s.modSrv p f).clk = s.clk := rfl
@[simp] theorem State.modSrv_doms (s : State) (p : Nat) (f : Srv → Srv) : (s.modSrv p f).doms = s.doms := rfl
@[simp] theorem State.modSrv_fab (s : State) (p : Nat) (f : Srv → Srv) : (s.modSrv p f).fab = s.fab := rfl
@[simp] theorem State.modSrv_ports (s : State) (p : Nat) (f : Srv → Srv) : (s.modSrv p f).ports = s.ports := rfl
@[simp] theorem State.modSrv_disc (s : State) (p : Nat) (f : Srv → Srv) : (s.modSrv p f).disc = s.disc := rfl
@[simp] theorem State.modSrv_park (s : State) (p : Nat) (f : Srv → Srv) : (s.modSrv p f).park = s.park := rfl
@[simp] theorem State.modSrv_mor (s : State) (p : Nat) (f : Srv → Srv) : (s.modSrv p f).mor = s.mor := rfl
@[simp] theorem State.modSrv_pend (s : State) (p : Nat) (f : Srv → Srv) : (s.modSrv p f).pend = s.pend := rfl
@[simp] theorem State.modSrv_posted (s : State) (p : Nat) (f : Srv → Srv) : (s.modSrv p f).posted = s.posted := rfl
@[simp] theorem State.modSrv_scrub (s : State) (p : Nat) (f : Srv → Srv) : (s.modSrv p f).scrub = s.scrub := rfl
@[simp] theorem State.modSrv_mgmt (s : State) (p : Nat) (f : Srv → Srv) : (s.modSrv p f).mgmt = s.mgmt := rfl
@[simp] theorem State.modSrv_gov (s : State) (p : Nat) (f : Srv → Srv) : (s.modSrv p f).gov = s.gov := rfl
@[simp] theorem State.modSrv_flt (s : State) (p : Nat) (f : Srv → Srv) : (s.modSrv p f).flt = s.flt := rfl
@[simp] theorem State.modSrv_recd (s : State) (p : Nat) (f : Srv → Srv) : (s.modSrv p f).recd = s.recd := rfl
@[simp] theorem State.modSrv_haz (s : State) (p : Nat) (f : Srv → Srv) : (s.modSrv p f).haz = s.haz := rfl
@[simp] theorem State.modSrv_eth (s : State) (p : Nat) (f : Srv → Srv) : (s.modSrv p f).eth = s.eth := rfl
@[simp] theorem State.modSrv_flowSeq (s : State) (p : Nat) (f : Srv → Srv) : (s.modSrv p f).flowSeq = s.flowSeq := rfl
@[simp] theorem State.modSrv_pciUp (s : State) (p : Nat) (f : Srv → Srv) : (s.modSrv p f).pciUp = s.pciUp := rfl
@[simp] theorem State.modSrv_pci (s : State) (p : Nat) (f : Srv → Srv) : (s.modSrv p f).pci = s.pci := rfl
@[simp] theorem State.modSrv_rdata (s : State) (p : Nat) (f : Srv → Srv) : (s.modSrv p f).rdata = s.rdata := rfl
@[simp] theorem State.modSrv_out (s : State) (p : Nat) (f : Srv → Srv) : (s.modSrv p f).out = s.out := rfl
@[simp] theorem State.modSrv_freeCtr (s : State) (p : Nat) (f : Srv → Srv) : (s.modSrv p f).freeCtr = s.freeCtr := rfl
@[simp] theorem State.modSrv_pending (s : State) (p : Nat) (f : Srv → Srv) : (s.modSrv p f).pending = s.pending := rfl

/-! ### `setPend` -/

@[simp] theorem State.setPend_fuses (s : State) (p : Nat) (x : Pend) : (s.setPend p x).fuses = s.fuses := rfl
@[simp] theorem State.setPend_regs (s : State) (p : Nat) (x : Pend) : (s.setPend p x).regs = s.regs := rfl
@[simp] theorem State.setPend_latches (s : State) (p : Nat) (x : Pend) : (s.setPend p x).latches = s.latches := rfl
@[simp] theorem State.setPend_bulk (s : State) (p : Nat) (x : Pend) : (s.setPend p x).bulk = s.bulk := rfl
@[simp] theorem State.setPend_clk (s : State) (p : Nat) (x : Pend) : (s.setPend p x).clk = s.clk := rfl
@[simp] theorem State.setPend_doms (s : State) (p : Nat) (x : Pend) : (s.setPend p x).doms = s.doms := rfl
@[simp] theorem State.setPend_fab (s : State) (p : Nat) (x : Pend) : (s.setPend p x).fab = s.fab := rfl
@[simp] theorem State.setPend_ports (s : State) (p : Nat) (x : Pend) : (s.setPend p x).ports = s.ports := rfl
@[simp] theorem State.setPend_disc (s : State) (p : Nat) (x : Pend) : (s.setPend p x).disc = s.disc := rfl
@[simp] theorem State.setPend_srv (s : State) (p : Nat) (x : Pend) : (s.setPend p x).srv = s.srv := rfl
@[simp] theorem State.setPend_park (s : State) (p : Nat) (x : Pend) : (s.setPend p x).park = s.park := rfl
@[simp] theorem State.setPend_mor (s : State) (p : Nat) (x : Pend) : (s.setPend p x).mor = s.mor := rfl
@[simp] theorem State.setPend_posted (s : State) (p : Nat) (x : Pend) : (s.setPend p x).posted = s.posted := rfl
@[simp] theorem State.setPend_scrub (s : State) (p : Nat) (x : Pend) : (s.setPend p x).scrub = s.scrub := rfl
@[simp] theorem State.setPend_mgmt (s : State) (p : Nat) (x : Pend) : (s.setPend p x).mgmt = s.mgmt := rfl
@[simp] theorem State.setPend_gov (s : State) (p : Nat) (x : Pend) : (s.setPend p x).gov = s.gov := rfl
@[simp] theorem State.setPend_flt (s : State) (p : Nat) (x : Pend) : (s.setPend p x).flt = s.flt := rfl
@[simp] theorem State.setPend_recd (s : State) (p : Nat) (x : Pend) : (s.setPend p x).recd = s.recd := rfl
@[simp] theorem State.setPend_haz (s : State) (p : Nat) (x : Pend) : (s.setPend p x).haz = s.haz := rfl
@[simp] theorem State.setPend_eth (s : State) (p : Nat) (x : Pend) : (s.setPend p x).eth = s.eth := rfl
@[simp] theorem State.setPend_flowSeq (s : State) (p : Nat) (x : Pend) : (s.setPend p x).flowSeq = s.flowSeq := rfl
@[simp] theorem State.setPend_pciUp (s : State) (p : Nat) (x : Pend) : (s.setPend p x).pciUp = s.pciUp := rfl
@[simp] theorem State.setPend_pci (s : State) (p : Nat) (x : Pend) : (s.setPend p x).pci = s.pci := rfl
@[simp] theorem State.setPend_rdata (s : State) (p : Nat) (x : Pend) : (s.setPend p x).rdata = s.rdata := rfl
@[simp] theorem State.setPend_out (s : State) (p : Nat) (x : Pend) : (s.setPend p x).out = s.out := rfl
@[simp] theorem State.setPend_freeCtr (s : State) (p : Nat) (x : Pend) : (s.setPend p x).freeCtr = s.freeCtr := rfl
@[simp] theorem State.setPend_pending (s : State) (p : Nat) (x : Pend) : (s.setPend p x).pending = s.pending := rfl

/-! ### `setEth` -/

@[simp] theorem State.setEth_fuses (s : State) (e : Nat) (x : Eth) : (s.setEth e x).fuses = s.fuses := rfl
@[simp] theorem State.setEth_regs (s : State) (e : Nat) (x : Eth) : (s.setEth e x).regs = s.regs := rfl
@[simp] theorem State.setEth_latches (s : State) (e : Nat) (x : Eth) : (s.setEth e x).latches = s.latches := rfl
@[simp] theorem State.setEth_bulk (s : State) (e : Nat) (x : Eth) : (s.setEth e x).bulk = s.bulk := rfl
@[simp] theorem State.setEth_clk (s : State) (e : Nat) (x : Eth) : (s.setEth e x).clk = s.clk := rfl
@[simp] theorem State.setEth_doms (s : State) (e : Nat) (x : Eth) : (s.setEth e x).doms = s.doms := rfl
@[simp] theorem State.setEth_fab (s : State) (e : Nat) (x : Eth) : (s.setEth e x).fab = s.fab := rfl
@[simp] theorem State.setEth_ports (s : State) (e : Nat) (x : Eth) : (s.setEth e x).ports = s.ports := rfl
@[simp] theorem State.setEth_disc (s : State) (e : Nat) (x : Eth) : (s.setEth e x).disc = s.disc := rfl
@[simp] theorem State.setEth_srv (s : State) (e : Nat) (x : Eth) : (s.setEth e x).srv = s.srv := rfl
@[simp] theorem State.setEth_park (s : State) (e : Nat) (x : Eth) : (s.setEth e x).park = s.park := rfl
@[simp] theorem State.setEth_mor (s : State) (e : Nat) (x : Eth) : (s.setEth e x).mor = s.mor := rfl
@[simp] theorem State.setEth_pend (s : State) (e : Nat) (x : Eth) : (s.setEth e x).pend = s.pend := rfl
@[simp] theorem State.setEth_posted (s : State) (e : Nat) (x : Eth) : (s.setEth e x).posted = s.posted := rfl
@[simp] theorem State.setEth_scrub (s : State) (e : Nat) (x : Eth) : (s.setEth e x).scrub = s.scrub := rfl
@[simp] theorem State.setEth_mgmt (s : State) (e : Nat) (x : Eth) : (s.setEth e x).mgmt = s.mgmt := rfl
@[simp] theorem State.setEth_gov (s : State) (e : Nat) (x : Eth) : (s.setEth e x).gov = s.gov := rfl
@[simp] theorem State.setEth_flt (s : State) (e : Nat) (x : Eth) : (s.setEth e x).flt = s.flt := rfl
@[simp] theorem State.setEth_recd (s : State) (e : Nat) (x : Eth) : (s.setEth e x).recd = s.recd := rfl
@[simp] theorem State.setEth_haz (s : State) (e : Nat) (x : Eth) : (s.setEth e x).haz = s.haz := rfl
@[simp] theorem State.setEth_flowSeq (s : State) (e : Nat) (x : Eth) : (s.setEth e x).flowSeq = s.flowSeq := rfl
@[simp] theorem State.setEth_pciUp (s : State) (e : Nat) (x : Eth) : (s.setEth e x).pciUp = s.pciUp := rfl
@[simp] theorem State.setEth_pci (s : State) (e : Nat) (x : Eth) : (s.setEth e x).pci = s.pci := rfl
@[simp] theorem State.setEth_rdata (s : State) (e : Nat) (x : Eth) : (s.setEth e x).rdata = s.rdata := rfl
@[simp] theorem State.setEth_out (s : State) (e : Nat) (x : Eth) : (s.setEth e x).out = s.out := rfl
@[simp] theorem State.setEth_freeCtr (s : State) (e : Nat) (x : Eth) : (s.setEth e x).freeCtr = s.freeCtr := rfl
@[simp] theorem State.setEth_pending (s : State) (e : Nat) (x : Eth) : (s.setEth e x).pending = s.pending := rfl

/-! ### `atLeast` -/

/-- What becomes of a quantity that neither the counter nor its load changes, as time comes to a moment. -/
theorem State.atLeast_keeps {α : Type} (f : State → α) (hc : ∀ (u : State) (c : Clock), f { u with clk := c } = f u)
    (ht : ∀ (u : State) (d : Int), f (u.shiftTime d) = f u) (s : State) (g : Nat) : f (s.atLeast g) = f s := by
  unfold State.atLeast
  split
  · rfl
  · split
    · split
      · exact hc s _
      · exact (hc _ _).trans (ht s _)
    · exact hc s _

@[simp] theorem State.atLeast_fuses (s : State) (g : Nat) : (s.atLeast g).fuses = s.fuses :=
  State.atLeast_keeps (·.fuses) (fun _ _ => rfl) (fun _ _ => rfl) s g
@[simp] theorem State.atLeast_regs (s : State) (g : Nat) : (s.atLeast g).regs = s.regs :=
  State.atLeast_keeps (·.regs) (fun _ _ => rfl) (fun _ _ => rfl) s g
@[simp] theorem State.atLeast_latches (s : State) (g : Nat) : (s.atLeast g).latches = s.latches :=
  State.atLeast_keeps (·.latches) (fun _ _ => rfl) (fun _ _ => rfl) s g
@[simp] theorem State.atLeast_bulk (s : State) (g : Nat) : (s.atLeast g).bulk = s.bulk :=
  State.atLeast_keeps (·.bulk) (fun _ _ => rfl) (fun _ _ => rfl) s g
@[simp] theorem State.atLeast_srv (s : State) (g : Nat) : (s.atLeast g).srv = s.srv :=
  State.atLeast_keeps (·.srv) (fun _ _ => rfl) (fun _ _ => rfl) s g
@[simp] theorem State.atLeast_posted (s : State) (g : Nat) : (s.atLeast g).posted = s.posted :=
  State.atLeast_keeps (·.posted) (fun _ _ => rfl) (fun _ _ => rfl) s g
@[simp] theorem State.atLeast_scrub (s : State) (g : Nat) : (s.atLeast g).scrub = s.scrub :=
  State.atLeast_keeps (·.scrub) (fun _ _ => rfl) (fun _ _ => rfl) s g
@[simp] theorem State.atLeast_mgmt (s : State) (g : Nat) : (s.atLeast g).mgmt = s.mgmt :=
  State.atLeast_keeps (·.mgmt) (fun _ _ => rfl) (fun _ _ => rfl) s g
@[simp] theorem State.atLeast_flt (s : State) (g : Nat) : (s.atLeast g).flt = s.flt :=
  State.atLeast_keeps (·.flt) (fun _ _ => rfl) (fun _ _ => rfl) s g
@[simp] theorem State.atLeast_recd (s : State) (g : Nat) : (s.atLeast g).recd = s.recd :=
  State.atLeast_keeps (·.recd) (fun _ _ => rfl) (fun _ _ => rfl) s g
@[simp] theorem State.atLeast_haz (s : State) (g : Nat) : (s.atLeast g).haz = s.haz :=
  State.atLeast_keeps (·.haz) (fun _ _ => rfl) (fun _ _ => rfl) s g
@[simp] theorem State.atLeast_flowSeq (s : State) (g : Nat) : (s.atLeast g).flowSeq = s.flowSeq :=
  State.atLeast_keeps (·.flowSeq) (fun _ _ => rfl) (fun _ _ => rfl) s g
@[simp] theorem State.atLeast_pciUp (s : State) (g : Nat) : (s.atLeast g).pciUp = s.pciUp :=
  State.atLeast_keeps (·.pciUp) (fun _ _ => rfl) (fun _ _ => rfl) s g
@[simp] theorem State.atLeast_pci (s : State) (g : Nat) : (s.atLeast g).pci = s.pci :=
  State.atLeast_keeps (·.pci) (fun _ _ => rfl) (fun _ _ => rfl) s g
@[simp] theorem State.atLeast_rdata (s : State) (g : Nat) : (s.atLeast g).rdata = s.rdata :=
  State.atLeast_keeps (·.rdata) (fun _ _ => rfl) (fun _ _ => rfl) s g
@[simp] theorem State.atLeast_out (s : State) (g : Nat) : (s.atLeast g).out = s.out :=
  State.atLeast_keeps (·.out) (fun _ _ => rfl) (fun _ _ => rfl) s g
@[simp] theorem State.atLeast_freeCtr (s : State) (g : Nat) : (s.atLeast g).freeCtr = s.freeCtr :=
  State.atLeast_keeps (·.freeCtr) (fun _ _ => rfl) (fun _ _ => rfl) s g
@[simp] theorem State.atLeast_pending (s : State) (g : Nat) : (s.atLeast g).pending = s.pending :=
  State.atLeast_keeps (·.pending) (fun _ _ => rfl) (fun _ _ => rfl) s g

/-- With no value to be loaded, only the counter and its load change. -/
theorem State.atLeast_steady {α : Type} (f : State → α) (hc : ∀ (u : State) (c : Clock), f { u with clk := c } = f u) (s : State)
    (g : Nat) (h : s.steady) : f (s.atLeast g) = f s := by
  unfold State.atLeast
  split
  · rfl
  · split
    · rename_i v hv
      have ht : s.get Reg.CLK_COURSE_CTRL.TICK_EN = 1 := by
        rcases h with h | h
        · rw [h] at hv
          cases hv
        · exact of_decide_eq_true h
      rw [if_pos ht]
      exact hc s _
    · exact hc s _

/-- Then the counter is where it was or at the moment, whichever is later. -/
theorem State.atLeast_now (s : State) (g : Nat) (h : s.steady) : (s.atLeast g).now = max s.now g := by
  unfold State.atLeast State.now
  split
  · omega
  · split
    · rename_i v hv
      have ht : s.get Reg.CLK_COURSE_CTRL.TICK_EN = 1 := by
        rcases h with h | h
        · rw [h] at hv
          cases hv
        · exact of_decide_eq_true h
      rw [if_pos ht]
      dsimp only
      omega
    · dsimp only
      omega

theorem State.atLeast_doms (s : State) (g : Nat) (h : s.steady) : (s.atLeast g).doms = s.doms :=
  State.atLeast_steady (·.doms) (fun _ _ => rfl) s g h
theorem State.atLeast_fab (s : State) (g : Nat) (h : s.steady) : (s.atLeast g).fab = s.fab :=
  State.atLeast_steady (·.fab) (fun _ _ => rfl) s g h
theorem State.atLeast_ports (s : State) (g : Nat) (h : s.steady) : (s.atLeast g).ports = s.ports :=
  State.atLeast_steady (·.ports) (fun _ _ => rfl) s g h
theorem State.atLeast_disc (s : State) (g : Nat) (h : s.steady) : (s.atLeast g).disc = s.disc :=
  State.atLeast_steady (·.disc) (fun _ _ => rfl) s g h
theorem State.atLeast_park (s : State) (g : Nat) (h : s.steady) : (s.atLeast g).park = s.park :=
  State.atLeast_steady (·.park) (fun _ _ => rfl) s g h
theorem State.atLeast_mor (s : State) (g : Nat) (h : s.steady) : (s.atLeast g).mor = s.mor :=
  State.atLeast_steady (·.mor) (fun _ _ => rfl) s g h
theorem State.atLeast_pend (s : State) (g : Nat) (h : s.steady) : (s.atLeast g).pend = s.pend :=
  State.atLeast_steady (·.pend) (fun _ _ => rfl) s g h
theorem State.atLeast_gov (s : State) (g : Nat) (h : s.steady) : (s.atLeast g).gov = s.gov :=
  State.atLeast_steady (·.gov) (fun _ _ => rfl) s g h
theorem State.atLeast_eth (s : State) (g : Nat) (h : s.steady) : (s.atLeast g).eth = s.eth :=
  State.atLeast_steady (·.eth) (fun _ _ => rfl) s g h

/-! ### `send` -/

@[simp] theorem State.send_fuses (s : State) (o : Out) : (s.send o).fuses = s.fuses := rfl
@[simp] theorem State.send_regs (s : State) (o : Out) : (s.send o).regs = s.regs := rfl
@[simp] theorem State.send_latches (s : State) (o : Out) : (s.send o).latches = s.latches := rfl
@[simp] theorem State.send_bulk (s : State) (o : Out) : (s.send o).bulk = s.bulk := rfl
@[simp] theorem State.send_clk (s : State) (o : Out) : (s.send o).clk = s.clk := rfl
@[simp] theorem State.send_doms (s : State) (o : Out) : (s.send o).doms = s.doms := rfl
@[simp] theorem State.send_fab (s : State) (o : Out) : (s.send o).fab = s.fab := rfl
@[simp] theorem State.send_ports (s : State) (o : Out) : (s.send o).ports = s.ports := rfl
@[simp] theorem State.send_disc (s : State) (o : Out) : (s.send o).disc = s.disc := rfl
@[simp] theorem State.send_srv (s : State) (o : Out) : (s.send o).srv = s.srv := rfl
@[simp] theorem State.send_park (s : State) (o : Out) : (s.send o).park = s.park := rfl
@[simp] theorem State.send_mor (s : State) (o : Out) : (s.send o).mor = s.mor := rfl
@[simp] theorem State.send_pend (s : State) (o : Out) : (s.send o).pend = s.pend := rfl
@[simp] theorem State.send_posted (s : State) (o : Out) : (s.send o).posted = s.posted := rfl
@[simp] theorem State.send_scrub (s : State) (o : Out) : (s.send o).scrub = s.scrub := rfl
@[simp] theorem State.send_mgmt (s : State) (o : Out) : (s.send o).mgmt = s.mgmt := rfl
@[simp] theorem State.send_gov (s : State) (o : Out) : (s.send o).gov = s.gov := rfl
@[simp] theorem State.send_flt (s : State) (o : Out) : (s.send o).flt = s.flt := rfl
@[simp] theorem State.send_recd (s : State) (o : Out) : (s.send o).recd = s.recd := rfl
@[simp] theorem State.send_haz (s : State) (o : Out) : (s.send o).haz = s.haz := rfl
@[simp] theorem State.send_eth (s : State) (o : Out) : (s.send o).eth = s.eth := rfl
@[simp] theorem State.send_flowSeq (s : State) (o : Out) : (s.send o).flowSeq = s.flowSeq := rfl
@[simp] theorem State.send_pciUp (s : State) (o : Out) : (s.send o).pciUp = s.pciUp := rfl
@[simp] theorem State.send_pci (s : State) (o : Out) : (s.send o).pci = s.pci := rfl
@[simp] theorem State.send_rdata (s : State) (o : Out) : (s.send o).rdata = s.rdata := rfl
@[simp] theorem State.send_freeCtr (s : State) (o : Out) : (s.send o).freeCtr = s.freeCtr := rfl
@[simp] theorem State.send_pending (s : State) (o : Out) : (s.send o).pending = s.pending := rfl

/-! ### `withPending` -/

@[simp] theorem State.withPending_fuses (s : State) (q : List Instr) : (s.withPending q).fuses = s.fuses := rfl
@[simp] theorem State.withPending_regs (s : State) (q : List Instr) : (s.withPending q).regs = s.regs := rfl
@[simp] theorem State.withPending_latches (s : State) (q : List Instr) : (s.withPending q).latches = s.latches := rfl
@[simp] theorem State.withPending_bulk (s : State) (q : List Instr) : (s.withPending q).bulk = s.bulk := rfl
@[simp] theorem State.withPending_clk (s : State) (q : List Instr) : (s.withPending q).clk = s.clk := rfl
@[simp] theorem State.withPending_doms (s : State) (q : List Instr) : (s.withPending q).doms = s.doms := rfl
@[simp] theorem State.withPending_fab (s : State) (q : List Instr) : (s.withPending q).fab = s.fab := rfl
@[simp] theorem State.withPending_ports (s : State) (q : List Instr) : (s.withPending q).ports = s.ports := rfl
@[simp] theorem State.withPending_disc (s : State) (q : List Instr) : (s.withPending q).disc = s.disc := rfl
@[simp] theorem State.withPending_srv (s : State) (q : List Instr) : (s.withPending q).srv = s.srv := rfl
@[simp] theorem State.withPending_park (s : State) (q : List Instr) : (s.withPending q).park = s.park := rfl
@[simp] theorem State.withPending_mor (s : State) (q : List Instr) : (s.withPending q).mor = s.mor := rfl
@[simp] theorem State.withPending_pend (s : State) (q : List Instr) : (s.withPending q).pend = s.pend := rfl
@[simp] theorem State.withPending_posted (s : State) (q : List Instr) : (s.withPending q).posted = s.posted := rfl
@[simp] theorem State.withPending_scrub (s : State) (q : List Instr) : (s.withPending q).scrub = s.scrub := rfl
@[simp] theorem State.withPending_mgmt (s : State) (q : List Instr) : (s.withPending q).mgmt = s.mgmt := rfl
@[simp] theorem State.withPending_gov (s : State) (q : List Instr) : (s.withPending q).gov = s.gov := rfl
@[simp] theorem State.withPending_flt (s : State) (q : List Instr) : (s.withPending q).flt = s.flt := rfl
@[simp] theorem State.withPending_recd (s : State) (q : List Instr) : (s.withPending q).recd = s.recd := rfl
@[simp] theorem State.withPending_haz (s : State) (q : List Instr) : (s.withPending q).haz = s.haz := rfl
@[simp] theorem State.withPending_eth (s : State) (q : List Instr) : (s.withPending q).eth = s.eth := rfl
@[simp] theorem State.withPending_flowSeq (s : State) (q : List Instr) : (s.withPending q).flowSeq = s.flowSeq := rfl
@[simp] theorem State.withPending_pciUp (s : State) (q : List Instr) : (s.withPending q).pciUp = s.pciUp := rfl
@[simp] theorem State.withPending_pci (s : State) (q : List Instr) : (s.withPending q).pci = s.pci := rfl
@[simp] theorem State.withPending_rdata (s : State) (q : List Instr) : (s.withPending q).rdata = s.rdata := rfl
@[simp] theorem State.withPending_out (s : State) (q : List Instr) : (s.withPending q).out = s.out := rfl
@[simp] theorem State.withPending_freeCtr (s : State) (q : List Instr) : (s.withPending q).freeCtr = s.freeCtr := rfl

/-! ### The fields that change -/

@[simp] theorem State.setDom_doms (s : State) (d : Nat) (x : Dom) : (s.setDom d x).doms = s.doms.setIfInBounds d x := rfl
@[simp] theorem State.modFab_fab (s : State) (f : Fabric → Fabric) : (s.modFab f).fab = f s.fab := rfl
@[simp] theorem State.setPort_ports (s : State) (p : Nat) (x : Port) : (s.setPort p x).ports = s.ports.setIfInBounds p x := rfl
@[simp] theorem State.setSrv_srv (s : State) (p : Nat) (x : Srv) : (s.setSrv p x).srv = s.srv.setIfInBounds p x := rfl
@[simp] theorem State.setPend_pend (s : State) (p : Nat) (x : Pend) : (s.setPend p x).pend = s.pend.setIfInBounds p x := rfl
@[simp] theorem State.setEth_eth (s : State) (e : Nat) (x : Eth) : (s.setEth e x).eth = s.eth.setIfInBounds e x := rfl
@[simp] theorem State.send_out (s : State) (o : Out) : (s.send o).out = s.out ++ [o] := rfl
@[simp] theorem State.withPending_pending (s : State) (q : List Instr) : (s.withPending q).pending = q := rfl
@[simp] theorem State.withPending_self (s : State) : s.withPending s.pending = s := rfl

/-! ### Components by number -/

@[simp] theorem State.dom_ww (s : State) (a : Nat) (v : Word) (j : Nat) : (s.ww a v).dom j = s.dom j := rfl
@[simp] theorem State.dom_put (s : State) (f : Slot) (v : Nat) (j : Nat) : (s.put f v).dom j = s.dom j := rfl
@[simp] theorem State.dom_put2 (s : State) (lo hi : Slot) (v : Nat) (j : Nat) : (s.put2 lo hi v).dom j = s.dom j := rfl
@[simp] theorem State.dom_inc (s : State) (f : Slot) (k : Nat) (j : Nat) : (s.inc f k).dom j = s.dom j := rfl
@[simp] theorem State.dom_incSat (s : State) (f : Slot) (k : Nat) (j : Nat) : (s.incSat f k).dom j = s.dom j := rfl
@[simp] theorem State.dom_modFab (s : State) (f : Fabric → Fabric) (j : Nat) : (s.modFab f).dom j = s.dom j := rfl
@[simp] theorem State.dom_modHaz (s : State) (f : Haz → Haz) (j : Nat) : (s.modHaz f).dom j = s.dom j := rfl
@[simp] theorem State.dom_setPort (s : State) (p : Nat) (x : Port) (j : Nat) : (s.setPort p x).dom j = s.dom j := rfl
@[simp] theorem State.dom_modPort (s : State) (p : Nat) (f : Port → Port) (j : Nat) : (s.modPort p f).dom j = s.dom j := rfl
@[simp] theorem State.dom_setSrv (s : State) (p : Nat) (x : Srv) (j : Nat) : (s.setSrv p x).dom j = s.dom j := rfl
@[simp] theorem State.dom_modSrv (s : State) (p : Nat) (f : Srv → Srv) (j : Nat) : (s.modSrv p f).dom j = s.dom j := rfl
@[simp] theorem State.dom_setPend (s : State) (p : Nat) (x : Pend) (j : Nat) : (s.setPend p x).dom j = s.dom j := rfl
@[simp] theorem State.dom_setEth (s : State) (e : Nat) (x : Eth) (j : Nat) : (s.setEth e x).dom j = s.dom j := rfl
theorem State.dom_atLeast (s : State) (g : Nat) (j : Nat) (h : s.steady) : (s.atLeast g).dom j = s.dom j :=
  State.atLeast_steady (·.dom j) (fun _ _ => rfl) s g h
@[simp] theorem State.dom_send (s : State) (o : Out) (j : Nat) : (s.send o).dom j = s.dom j := rfl
@[simp] theorem State.dom_withPending (s : State) (q : List Instr) (j : Nat) : (s.withPending q).dom j = s.dom j := rfl

@[simp] theorem State.dom_setDom_self (s : State) {k : Nat} (x : Dom) (h : k < 12) : (s.setDom k x).dom k = x := by
  simp [State.dom, State.setDom, h]
theorem State.dom_setDom_of_ne (s : State) {j k : Nat} (x : Dom) (h : j ≠ k) : (s.setDom k x).dom j = s.dom j := by
  simp [State.dom, State.setDom, h.symm]
@[simp] theorem State.dom_modDom_self (s : State) {k : Nat} (f : Dom → Dom) (h : k < 12) :
    (s.modDom k f).dom k = f (s.dom k) := by
  simp [State.modDom, h]
theorem State.dom_modDom_of_ne (s : State) {j k : Nat} (f : Dom → Dom) (h : j ≠ k) : (s.modDom k f).dom j = s.dom j :=
  State.dom_setDom_of_ne s _ h

@[simp] theorem State.port_ww (s : State) (a : Nat) (v : Word) (j : Nat) : (s.ww a v).port j = s.port j := rfl
@[simp] theorem State.port_put (s : State) (f : Slot) (v : Nat) (j : Nat) : (s.put f v).port j = s.port j := rfl
@[simp] theorem State.port_put2 (s : State) (lo hi : Slot) (v : Nat) (j : Nat) : (s.put2 lo hi v).port j = s.port j := rfl
@[simp] theorem State.port_inc (s : State) (f : Slot) (k : Nat) (j : Nat) : (s.inc f k).port j = s.port j := rfl
@[simp] theorem State.port_incSat (s : State) (f : Slot) (k : Nat) (j : Nat) : (s.incSat f k).port j = s.port j := rfl
@[simp] theorem State.port_setDom (s : State) (d : Nat) (x : Dom) (j : Nat) : (s.setDom d x).port j = s.port j := rfl
@[simp] theorem State.port_modDom (s : State) (d : Nat) (f : Dom → Dom) (j : Nat) : (s.modDom d f).port j = s.port j := rfl
@[simp] theorem State.port_modFab (s : State) (f : Fabric → Fabric) (j : Nat) : (s.modFab f).port j = s.port j := rfl
@[simp] theorem State.port_modHaz (s : State) (f : Haz → Haz) (j : Nat) : (s.modHaz f).port j = s.port j := rfl
@[simp] theorem State.port_setSrv (s : State) (p : Nat) (x : Srv) (j : Nat) : (s.setSrv p x).port j = s.port j := rfl
@[simp] theorem State.port_modSrv (s : State) (p : Nat) (f : Srv → Srv) (j : Nat) : (s.modSrv p f).port j = s.port j := rfl
@[simp] theorem State.port_setPend (s : State) (p : Nat) (x : Pend) (j : Nat) : (s.setPend p x).port j = s.port j := rfl
@[simp] theorem State.port_setEth (s : State) (e : Nat) (x : Eth) (j : Nat) : (s.setEth e x).port j = s.port j := rfl
theorem State.port_atLeast (s : State) (g : Nat) (j : Nat) (h : s.steady) : (s.atLeast g).port j = s.port j :=
  State.atLeast_steady (·.port j) (fun _ _ => rfl) s g h
@[simp] theorem State.port_send (s : State) (o : Out) (j : Nat) : (s.send o).port j = s.port j := rfl
@[simp] theorem State.port_withPending (s : State) (q : List Instr) (j : Nat) : (s.withPending q).port j = s.port j := rfl

@[simp] theorem State.port_setPort_self (s : State) {k : Nat} (x : Port) (h : k < 32) : (s.setPort k x).port k = x := by
  simp [State.port, State.setPort, h]
theorem State.port_setPort_of_ne (s : State) {j k : Nat} (x : Port) (h : j ≠ k) : (s.setPort k x).port j = s.port j := by
  simp [State.port, State.setPort, h.symm]
@[simp] theorem State.port_modPort_self (s : State) {k : Nat} (f : Port → Port) (h : k < 32) :
    (s.modPort k f).port k = f (s.port k) := by
  simp [State.modPort, h]
theorem State.port_modPort_of_ne (s : State) {j k : Nat} (f : Port → Port) (h : j ≠ k) : (s.modPort k f).port j = s.port j :=
  State.port_setPort_of_ne s _ h

@[simp] theorem State.srvAt_ww (s : State) (a : Nat) (v : Word) (j : Nat) : (s.ww a v).srvAt j = s.srvAt j := rfl
@[simp] theorem State.srvAt_put (s : State) (f : Slot) (v : Nat) (j : Nat) : (s.put f v).srvAt j = s.srvAt j := rfl
@[simp] theorem State.srvAt_put2 (s : State) (lo hi : Slot) (v : Nat) (j : Nat) : (s.put2 lo hi v).srvAt j = s.srvAt j := rfl
@[simp] theorem State.srvAt_inc (s : State) (f : Slot) (k : Nat) (j : Nat) : (s.inc f k).srvAt j = s.srvAt j := rfl
@[simp] theorem State.srvAt_incSat (s : State) (f : Slot) (k : Nat) (j : Nat) : (s.incSat f k).srvAt j = s.srvAt j := rfl
@[simp] theorem State.srvAt_setDom (s : State) (d : Nat) (x : Dom) (j : Nat) : (s.setDom d x).srvAt j = s.srvAt j := rfl
@[simp] theorem State.srvAt_modDom (s : State) (d : Nat) (f : Dom → Dom) (j : Nat) : (s.modDom d f).srvAt j = s.srvAt j := rfl
@[simp] theorem State.srvAt_modFab (s : State) (f : Fabric → Fabric) (j : Nat) : (s.modFab f).srvAt j = s.srvAt j := rfl
@[simp] theorem State.srvAt_modHaz (s : State) (f : Haz → Haz) (j : Nat) : (s.modHaz f).srvAt j = s.srvAt j := rfl
@[simp] theorem State.srvAt_setPort (s : State) (p : Nat) (x : Port) (j : Nat) : (s.setPort p x).srvAt j = s.srvAt j := rfl
@[simp] theorem State.srvAt_modPort (s : State) (p : Nat) (f : Port → Port) (j : Nat) : (s.modPort p f).srvAt j = s.srvAt j := rfl
@[simp] theorem State.srvAt_setPend (s : State) (p : Nat) (x : Pend) (j : Nat) : (s.setPend p x).srvAt j = s.srvAt j := rfl
@[simp] theorem State.srvAt_setEth (s : State) (e : Nat) (x : Eth) (j : Nat) : (s.setEth e x).srvAt j = s.srvAt j := rfl
@[simp] theorem State.srvAt_atLeast (s : State) (g : Nat) (j : Nat) : (s.atLeast g).srvAt j = s.srvAt j :=
  State.atLeast_keeps (·.srvAt j) (fun _ _ => rfl) (fun _ _ => rfl) s g
@[simp] theorem State.srvAt_send (s : State) (o : Out) (j : Nat) : (s.send o).srvAt j = s.srvAt j := rfl
@[simp] theorem State.srvAt_withPending (s : State) (q : List Instr) (j : Nat) : (s.withPending q).srvAt j = s.srvAt j := rfl

@[simp] theorem State.srvAt_setSrv_self (s : State) {k : Nat} (x : Srv) (h : k < 12) : (s.setSrv k x).srvAt k = x := by
  simp [State.srvAt, State.setSrv, h]
theorem State.srvAt_setSrv_of_ne (s : State) {j k : Nat} (x : Srv) (h : j ≠ k) : (s.setSrv k x).srvAt j = s.srvAt j := by
  simp [State.srvAt, State.setSrv, h.symm]
@[simp] theorem State.srvAt_modSrv_self (s : State) {k : Nat} (f : Srv → Srv) (h : k < 12) :
    (s.modSrv k f).srvAt k = f (s.srvAt k) := by
  simp [State.modSrv, h]
theorem State.srvAt_modSrv_of_ne (s : State) {j k : Nat} (f : Srv → Srv) (h : j ≠ k) : (s.modSrv k f).srvAt j = s.srvAt j :=
  State.srvAt_setSrv_of_ne s _ h

@[simp] theorem State.pendAt_ww (s : State) (a : Nat) (v : Word) (j : Nat) : (s.ww a v).pendAt j = s.pendAt j := rfl
@[simp] theorem State.pendAt_put (s : State) (f : Slot) (v : Nat) (j : Nat) : (s.put f v).pendAt j = s.pendAt j := rfl
@[simp] theorem State.pendAt_put2 (s : State) (lo hi : Slot) (v : Nat) (j : Nat) : (s.put2 lo hi v).pendAt j = s.pendAt j := rfl
@[simp] theorem State.pendAt_inc (s : State) (f : Slot) (k : Nat) (j : Nat) : (s.inc f k).pendAt j = s.pendAt j := rfl
@[simp] theorem State.pendAt_incSat (s : State) (f : Slot) (k : Nat) (j : Nat) : (s.incSat f k).pendAt j = s.pendAt j := rfl
@[simp] theorem State.pendAt_setDom (s : State) (d : Nat) (x : Dom) (j : Nat) : (s.setDom d x).pendAt j = s.pendAt j := rfl
@[simp] theorem State.pendAt_modDom (s : State) (d : Nat) (f : Dom → Dom) (j : Nat) : (s.modDom d f).pendAt j = s.pendAt j := rfl
@[simp] theorem State.pendAt_modFab (s : State) (f : Fabric → Fabric) (j : Nat) : (s.modFab f).pendAt j = s.pendAt j := rfl
@[simp] theorem State.pendAt_modHaz (s : State) (f : Haz → Haz) (j : Nat) : (s.modHaz f).pendAt j = s.pendAt j := rfl
@[simp] theorem State.pendAt_setPort (s : State) (p : Nat) (x : Port) (j : Nat) : (s.setPort p x).pendAt j = s.pendAt j := rfl
@[simp] theorem State.pendAt_modPort (s : State) (p : Nat) (f : Port → Port) (j : Nat) : (s.modPort p f).pendAt j = s.pendAt j := rfl
@[simp] theorem State.pendAt_setSrv (s : State) (p : Nat) (x : Srv) (j : Nat) : (s.setSrv p x).pendAt j = s.pendAt j := rfl
@[simp] theorem State.pendAt_modSrv (s : State) (p : Nat) (f : Srv → Srv) (j : Nat) : (s.modSrv p f).pendAt j = s.pendAt j := rfl
@[simp] theorem State.pendAt_setEth (s : State) (e : Nat) (x : Eth) (j : Nat) : (s.setEth e x).pendAt j = s.pendAt j := rfl
theorem State.pendAt_atLeast (s : State) (g : Nat) (j : Nat) (h : s.steady) : (s.atLeast g).pendAt j = s.pendAt j :=
  State.atLeast_steady (·.pendAt j) (fun _ _ => rfl) s g h
@[simp] theorem State.pendAt_send (s : State) (o : Out) (j : Nat) : (s.send o).pendAt j = s.pendAt j := rfl
@[simp] theorem State.pendAt_withPending (s : State) (q : List Instr) (j : Nat) : (s.withPending q).pendAt j = s.pendAt j := rfl

@[simp] theorem State.pendAt_setPend_self (s : State) {k : Nat} (x : Pend) (h : k < 12) : (s.setPend k x).pendAt k = x := by
  simp [State.pendAt, State.setPend, h]
theorem State.pendAt_setPend_of_ne (s : State) {j k : Nat} (x : Pend) (h : j ≠ k) : (s.setPend k x).pendAt j = s.pendAt j := by
  simp [State.pendAt, State.setPend, h.symm]

@[simp] theorem State.ethAt_ww (s : State) (a : Nat) (v : Word) (j : Nat) : (s.ww a v).ethAt j = s.ethAt j := rfl
@[simp] theorem State.ethAt_put (s : State) (f : Slot) (v : Nat) (j : Nat) : (s.put f v).ethAt j = s.ethAt j := rfl
@[simp] theorem State.ethAt_put2 (s : State) (lo hi : Slot) (v : Nat) (j : Nat) : (s.put2 lo hi v).ethAt j = s.ethAt j := rfl
@[simp] theorem State.ethAt_inc (s : State) (f : Slot) (k : Nat) (j : Nat) : (s.inc f k).ethAt j = s.ethAt j := rfl
@[simp] theorem State.ethAt_incSat (s : State) (f : Slot) (k : Nat) (j : Nat) : (s.incSat f k).ethAt j = s.ethAt j := rfl
@[simp] theorem State.ethAt_setDom (s : State) (d : Nat) (x : Dom) (j : Nat) : (s.setDom d x).ethAt j = s.ethAt j := rfl
@[simp] theorem State.ethAt_modDom (s : State) (d : Nat) (f : Dom → Dom) (j : Nat) : (s.modDom d f).ethAt j = s.ethAt j := rfl
@[simp] theorem State.ethAt_modFab (s : State) (f : Fabric → Fabric) (j : Nat) : (s.modFab f).ethAt j = s.ethAt j := rfl
@[simp] theorem State.ethAt_modHaz (s : State) (f : Haz → Haz) (j : Nat) : (s.modHaz f).ethAt j = s.ethAt j := rfl
@[simp] theorem State.ethAt_setPort (s : State) (p : Nat) (x : Port) (j : Nat) : (s.setPort p x).ethAt j = s.ethAt j := rfl
@[simp] theorem State.ethAt_modPort (s : State) (p : Nat) (f : Port → Port) (j : Nat) : (s.modPort p f).ethAt j = s.ethAt j := rfl
@[simp] theorem State.ethAt_setSrv (s : State) (p : Nat) (x : Srv) (j : Nat) : (s.setSrv p x).ethAt j = s.ethAt j := rfl
@[simp] theorem State.ethAt_modSrv (s : State) (p : Nat) (f : Srv → Srv) (j : Nat) : (s.modSrv p f).ethAt j = s.ethAt j := rfl
@[simp] theorem State.ethAt_setPend (s : State) (p : Nat) (x : Pend) (j : Nat) : (s.setPend p x).ethAt j = s.ethAt j := rfl
theorem State.ethAt_atLeast (s : State) (g : Nat) (j : Nat) (h : s.steady) : (s.atLeast g).ethAt j = s.ethAt j :=
  State.atLeast_steady (·.ethAt j) (fun _ _ => rfl) s g h
@[simp] theorem State.ethAt_send (s : State) (o : Out) (j : Nat) : (s.send o).ethAt j = s.ethAt j := rfl
@[simp] theorem State.ethAt_withPending (s : State) (q : List Instr) (j : Nat) : (s.withPending q).ethAt j = s.ethAt j := rfl

@[simp] theorem State.ethAt_setEth_self (s : State) {k : Nat} (x : Eth) (h : k < 2) : (s.setEth k x).ethAt k = x := by
  simp [State.ethAt, State.setEth, h]
theorem State.ethAt_setEth_of_ne (s : State) {j k : Nat} (x : Eth) (h : j ≠ k) : (s.setEth k x).ethAt j = s.ethAt j := by
  simp [State.ethAt, State.setEth, h.symm]

end Sys2Proof.Machine
end

