-- ==== Sys2Proof/Laws/Regs.lean ====
section
/-! SUPPORT. Registers and their fields: what a read sees after a write. -/

namespace Sys2Proof.Machine

/-! ## Bit fields -/

/-- Bit `i` of a word with a field replaced. -/
theorem testBit_setBits (w : Word) {hi lo : Nat} (v i : Nat) (h : lo ≤ hi) (hh : hi < 32) :
    (setBits w hi lo v).toNat.testBit i = if lo ≤ i ∧ i ≤ hi then v.testBit (i - lo) else w.toNat.testBit i := by
  have hr : w.toNat % 2 ^ lo < 2 ^ lo := Nat.mod_lt _ (Nat.two_pow_pos lo)
  have hm : (v % 2 ^ (hi - lo + 1)) <<< lo + w.toNat % 2 ^ lo < 2 ^ (hi + 1) := by
    have e : (2 : Nat) ^ (hi + 1) = 2 ^ (hi - lo + 1) * 2 ^ lo := by rw [← Nat.pow_add]; congr 1; omega
    have hv : v % 2 ^ (hi - lo + 1) + 1 ≤ 2 ^ (hi - lo + 1) := Nat.mod_lt _ (Nat.two_pow_pos _)
    have hl := Nat.mul_le_mul_right (2 ^ lo) hv
    rw [Nat.add_mul, Nat.one_mul] at hl
    rw [e, Nat.shiftLeft_eq]
    omega
  unfold setBits
  rw [Nat.add_comm (w.toNat % 2 ^ lo), Nat.add_comm _ ((w.toNat >>> (hi + 1)) <<< (hi + 1)),
    Nat.shiftLeft_add_eq_or_of_lt hm, Nat.shiftLeft_add_eq_or_of_lt hr]
  simp only [BitVec.toNat_ofNat, Nat.testBit_mod_two_pow, Nat.testBit_or, Nat.testBit_shiftLeft, Nat.testBit_shiftRight]
  by_cases h1 : i < 32
  · by_cases h2 : i ≤ hi
    · by_cases h3 : lo ≤ i
      · simp [h1, h2, h3, show ¬ hi + 1 ≤ i by omega, show ¬ i < lo by omega, show i - lo < hi - lo + 1 by omega]
      · simp [h1, h3, show ¬ hi + 1 ≤ i by omega, show i < lo by omega]
    · simp [h1, h2, show hi + 1 ≤ i by omega, show lo ≤ i by omega, show ¬ i < lo by omega, show ¬ i - lo < hi - lo + 1 by omega,
        show hi + 1 + (i - (hi + 1)) = i by omega]
  · have : w.toNat.testBit i = false := Nat.testBit_lt_two_pow (Nat.lt_of_lt_of_le w.isLt (Nat.pow_le_pow_right (by omega) (by omega)))
    simp [h1, this, show ¬ i ≤ hi by omega]

/-- A field of a word whose field has been replaced reads the new value. -/
theorem bitsOf_setBits_self (w : Word) {hi lo : Nat} (v : Nat) (h : lo ≤ hi) (hh : hi < 32) :
    bitsOf (setBits w hi lo v).toNat hi lo = v % 2 ^ (hi - lo + 1) := by
  apply Nat.eq_of_testBit_eq
  intro i
  simp only [bitsOf, Nat.testBit_mod_two_pow, Nat.testBit_shiftRight]
  by_cases hi1 : i < hi - lo + 1
  · rw [testBit_setBits w v _ h hh, if_pos (by omega), Nat.add_sub_cancel_left]
  · simp [hi1]

/-- A field that does not overlap the one replaced keeps its value. -/
theorem bitsOf_setBits_of_disjoint (w : Word) {hi lo hi' lo' : Nat} (v : Nat) (h : lo ≤ hi) (hh : hi < 32)
    (hd : hi < lo' ∨ hi' < lo) (h' : lo' ≤ hi') : bitsOf (setBits w hi lo v).toNat hi' lo' = bitsOf w.toNat hi' lo' := by
  apply Nat.eq_of_testBit_eq
  intro i
  simp only [bitsOf, Nat.testBit_mod_two_pow, Nat.testBit_shiftRight]
  by_cases hi1 : i < hi' - lo' + 1
  · rw [testBit_setBits w v _ h hh, if_neg (by omega)]
  · simp [hi1]

/-! ## Stored words -/

@[simp] theorem State.rw_ww_self (s : State) (a : Nat) (v : Word) : (s.ww a v).rw a = v := by simp [State.rw, State.ww]
theorem State.rw_ww_of_ne (s : State) {a b : Nat} (v : Word) (h : b ≠ a) : (s.ww a v).rw b = s.rw b := by
  simp [State.rw, State.ww, mapGet_mapSet_of_ne _ _ _ _ h]
@[simp] theorem State.ww_rw_self (s : State) (f : Slot) (v : Nat) : (s.put f v).rw f.reg = setBits (s.rw f.reg) f.hi f.lo v := by
  simp [State.put]
theorem State.rw_put_of_ne (s : State) (f : Slot) (v : Nat) {b : Nat} (h : b ≠ f.reg) : (s.put f v).rw b = s.rw b :=
  s.rw_ww_of_ne _ h

/-! ## Fields -/

/-- A field reads what was stored in it. -/
theorem State.get_put_self (s : State) (f : Slot) (v : Nat) (h : f.lo ≤ f.hi) (hh : f.hi < 32) :
    (s.put f v).get f = v % 2 ^ (f.hi - f.lo + 1) := by
  simp [State.get, bitsOf_setBits_self _ _ h hh]
/-- A field of another register is left alone. -/
theorem State.get_put_of_reg (s : State) (f g : Slot) (v : Nat) (h : g.reg ≠ f.reg) : (s.put f v).get g = s.get g := by
  simp [State.get, s.rw_put_of_ne f v h]
/-- Another field of the same register is left alone. -/
theorem State.get_put_of_disjoint (s : State) (f g : Slot) (v : Nat) (h : f.lo ≤ f.hi) (hh : f.hi < 32) (hg : g.lo ≤ g.hi)
    (hd : f.hi < g.lo ∨ g.hi < f.lo) : (s.put f v).get g = s.get g := by
  by_cases hr : g.reg = f.reg
  · simp [State.get, hr, bitsOf_setBits_of_disjoint _ _ h hh hd hg]
  · exact s.get_put_of_reg f g v hr
theorem State.get_ww_of_ne (s : State) (g : Slot) {a : Nat} (v : Word) (h : g.reg ≠ a) : (s.ww a v).get g = s.get g := by
  simp [State.get, s.rw_ww_of_ne v h]

end Sys2Proof.Machine
end

