-- ==== Sys2Proof/Laws/Issue.lean ====
section
/-! SUPPORT. What issue does: the passing of a cycle in which nothing is due, and an instruction that issues. -/

namespace Sys2Proof.Machine

/-! ## The passing of schedule cycles -/

/-- Nothing is performed by cycle `c` if nothing is due by then. -/
theorem runDue_of_later (s : State) (d c n : Nat) (h : ∀ a ∈ (s.dom d).due, c < a.1) : s.runDue d c n = s := by
  cases n with
  | zero => rfl
  | succ n =>
    unfold State.runDue
    split
    · rfl
    · next t a l e =>
      have := h (t, a) (by rw [e]; exact List.mem_cons_self)
      simp only at this
      rw [if_neg (by omega)]

/-- Cycles in which nothing is due only move the domain's time on. -/
theorem pass_of_later (s : State) (d k : Nat) (hh : s.halted d = false) (h : ∀ a ∈ (s.dom d).due, (s.dom d).cyc + k < a.1) :
    s.pass d k = s.modDom d fun x => x.passTo ((s.dom d).cyc + k) := by
  unfold State.pass
  simp only [runDue_of_later s d _ _ h, hh]
  rfl

/-! ## Issue -/

/-- The schedule state in which an instruction at `ia` has issued, before its cycle has passed. -/
def Dom.issuedAt (x : Dom) (ia : Nat) (n : Next) : Dom :=
  { x with
    fetchWait := 0
    queueStall := false
    bank := some (ia / 512) }.advance ia n

/-- The instruction at the fetch pointer acts on the state in which SEQ_PC holds its address. -/
theorem issueOp_of_issues (s : State) {d cls op : Nat} {w : Quad} (act : State → Quad → Nat → IssueRes)
    (h : s.issues d w cls op) {s' : State} {n : Next}
    (ha : act (s.put (Reg.SEQ_PC.PC d) (s.dom d).pc) w (s.dom d).pc = .done s' n) :
    s.issueOp d cls op act = if s'.halted d then s' else (s'.modDom d fun x => x.issuedAt (s.dom d).pc n).pass d 1 := by
  obtain ⟨hc, hh, hf, has, hcl, hop, hw, -⟩ := h
  unfold State.issueOp
  simp only [hc, if_true, Nat.not_lt.mpr hh, if_false, hf, has, hcl, hop, hw, ha]
  simp [Dom.issuedAt]

/-- An instruction issues, and nothing it leaves is due by the end of its cycle. -/
theorem issueOp_quiet (s : State) {d cls op : Nat} {w : Quad} (act : State → Quad → Nat → IssueRes)
    (h : s.issues d w cls op) {s' : State} {n : Next}
    (ha : act (s.put (Reg.SEQ_PC.PC d) (s.dom d).pc) w (s.dom d).pc = .done s' n) (hd : d < 12) (hh : s'.halted d = false)
    (hdue : ∀ a ∈ (s'.dom d).due, (s'.dom d).cyc + 1 < a.1) :
    s.issueOp d cls op act =
      s'.modDom d fun x => (x.issuedAt (s.dom d).pc n).passTo ((s'.dom d).cyc + 1) := by
  have adv (x : Dom) (ia : Nat) (n : Next) : (x.issuedAt ia n).due = x.due ∧ (x.issuedAt ia n).cyc = x.cyc := by
    cases n <;> simp only [Dom.issuedAt, Dom.advance, and_self]
    split
    · split <;> simp
    · simp
  rw [issueOp_of_issues s act h ha]
  simp only [hh, Bool.false_eq_true, if_false]
  rw [pass_of_later (s'.modDom d fun x => x.issuedAt (s.dom d).pc n) d 1 hh]
  · simp only [State.dom_modDom_self _ _ hd, (adv _ _ _).2]
    simp [State.modDom, State.setDom, State.dom, hd, Vector.setIfInBounds]
  · intro a hm
    rw [State.dom_modDom_self _ _ hd, (adv _ _ _).1] at hm
    rw [State.dom_modDom_self _ _ hd, (adv _ _ _).2]
    exact hdue a hm

end Sys2Proof.Machine
end

