-- ==== Sys2Proof/Laws/Mem.lean ====
section
/-! SUPPORT. The byte stores, the cornice and the compute registers: what their reads see after a write, and that every
operation on them keeps the canonical form. -/

namespace Sys2Proof.Machine

/-! ## Loops -/

/-- What every pass of a loop keeps, the loop keeps. -/
theorem forAll_keeps {α σ : Type} (P : σ → Prop) (f : σ → α → σ) (h : ∀ s a, P s → P (f s a)) (l : List α) (s : σ) (hs : P s) :
    P (forAll l f s) := by
  unfold forAll
  induction l generalizing s with
  | nil => exact hs
  | cons a l ih => exact ih (f s a) (h s a hs)

/-- A quantity that no pass of a loop changes, the loop does not change. -/
theorem forAll_eq {α σ β : Type} (g : σ → β) (f : σ → α → σ) (h : ∀ s a, g (f s a) = g s) (l : List α) (s : σ) :
    g (forAll l f s) = g s :=
  forAll_keeps (fun t => g t = g s) f (fun t a ht => (h t a).trans ht) l s rfl

/-! ## The parts of the canonical form -/

theorem Bulk.wf_iff (b : Bulk) : b.wf = true ↔
    Memory.wf 0 b.scratch = true ∧ Memory.wf 0 b.upset = true ∧ Memory.wf 0 b.moraine = true ∧ Memory.wf 0 b.cornice = true
      ∧ Memory.wf 0 b.core = true ∧ Memory.wf 0 b.vreg = true ∧ Memory.wf 0 b.acc = true ∧ Memory.wf 0 b.chk = true
      ∧ Memory.wf false b.satm = true ∧ Memory.wf 0 b.window = true ∧ Memory.wf 0 b.rot = true ∧ Memory.wf [] b.stage = true := by
  simp only [Bulk.wf, Bool.and_eq_true, and_assoc]

theorem State.inv_iff (s : State) : s.inv = true ↔ s.bulk.wf = true := Iff.rfl

/-- A state with the same stores is in canonical form as well. -/
theorem State.inv_of_bulk {s t : State} (h : t.bulk = s.bulk) (hs : s.inv = true) : t.inv = true := by
  rw [State.inv_iff] at *
  rw [h]
  exact hs

/-- The staging buffers may become anything that is in canonical form. -/
theorem Bulk.wf_stage (b : Bulk) (m : SMap (List (Nat × Nat × List Byte))) (hm : Memory.wf [] m = true) (h : b.wf = true) :
    Bulk.wf { b with stage := m } = true := by
  obtain ⟨h1, h2, h3, h4, h5, h6, h7, h8, h9, h10, h11, _⟩ := (Bulk.wf_iff _).1 h
  exact (Bulk.wf_iff _).2 ⟨h1, h2, h3, h4, h5, h6, h7, h8, h9, h10, h11, hm⟩

theorem Bulk.stage_wf (b : Bulk) (h : b.wf = true) : Memory.wf [] b.stage = true := by
  obtain ⟨_, _, _, _, _, _, _, _, _, _, _, hm⟩ := (Bulk.wf_iff _).1 h
  exact hm

/-- Copies that are dropped (R264). -/
theorem State.inv_dropRows (s : State) (ash slice row : Nat) (h : s.inv = true) : (s.dropRows ash slice row).inv = true :=
  Bulk.wf_stage _ _ (wf_mapSet _ _ _ _ (wf_mapSet _ _ _ _ (wf_mapSet _ _ _ _ (s.bulk.stage_wf h)))) h

/-- A row that an engine stages (R262). -/
theorem State.inv_stageRow (s : State) (ash eng : Nat) (e : Nat × Nat × List Byte) (h : s.inv = true) :
    (s.stageRow ash eng e).inv = true :=
  Bulk.wf_stage _ _ (wf_mapSet _ _ _ _ (s.bulk.stage_wf h)) h

theorem Bulk.wf_empty : Bulk.wf {} = true := by decide

/-! ## The scratchpad -/

theorem State.inv_wrByte (s : State) (ash addr : Nat) (v : Byte) (h : s.inv = true) : (s.wrByte ash addr v).inv = true := by
  obtain ⟨h1, h2, h3⟩ := (Bulk.wf_iff _).1 h
  exact (Bulk.wf_iff _).2 ⟨wf_mapSet 0 s.bulk.scratch (s.physByte ash addr) v h1,
    wf_mapSet 0 s.bulk.upset (s.physByte ash addr / 8) 0 h2, h3⟩

theorem State.inv_wrBytes (s : State) (ash addr : Nat) (bs : List Byte) (h : s.inv = true) :
    (s.wrBytes ash addr bs).inv = true := by
  induction bs generalizing s addr with
  | nil => exact h
  | cons b bs ih => exact ih _ _ (s.inv_wrByte ash addr b h)

theorem State.inv_wipeSlice (s : State) (ash slice : Nat) (h : s.inv = true) : (s.wipeSlice ash slice).inv = true := by
  obtain ⟨h1, h2, h3⟩ := (Bulk.wf_iff _).1 h
  exact (Bulk.wf_iff _).2 ⟨wf_mapClear _ _ _ _ h1, wf_mapClear _ _ _ _ h2, h3⟩

theorem State.inv_copyWord (s : State) (src dst : Nat) (h : s.inv = true) : (s.copyWord src dst).inv = true := by
  obtain ⟨h1, h2, h3⟩ := (Bulk.wf_iff _).1 h
  rw [State.inv_iff, Bulk.wf_iff]
  unfold State.copyWord
  dsimp only
  refine ⟨forAll_keeps (fun m : List Host.Cell => Memory.wf 0 m = true) _ (fun m i hm => ?_) _ _ h1, ?_, h3⟩
  · exact wf_mapSet _ m _ _ hm
  · exact wf_mapSet _ _ _ _ h2

theorem State.inv_upsetWord (s : State) (ash slice row : Nat) (f : Nat × Bool) (h : s.inv = true) :
    (s.upsetWord ash slice row f).inv = true := by
  obtain ⟨h1, h2, h3⟩ := (Bulk.wf_iff _).1 h
  exact (Bulk.wf_iff _).2 ⟨h1, wf_mapSet 0 s.bulk.upset (s.physWord ash slice row f.1)
    (if f.2 then 2 else max 1 (mapGet 0 s.bulk.upset (s.physWord ash slice row f.1))) h2, h3⟩

/-- A scratchpad byte reads back what was written to it. -/
theorem State.rdByte_wrByte_self (s : State) (ash addr : Nat) (v : Byte) : (s.wrByte ash addr v).rdByte ash addr = v :=
  mapGet_mapSet_self 0 s.bulk.scratch (s.physByte ash addr) v

/-- A write leaves a byte of another place alone. -/
theorem State.rdByte_wrByte_of_ne (s : State) (ash addr a b : Nat) (v : Byte) (h : s.physByte a b ≠ s.physByte ash addr) :
    (s.wrByte ash addr v).rdByte a b = s.rdByte a b :=
  mapGet_mapSet_of_ne 0 0 s.bulk.scratch v h

/-! ## The moraine -/

theorem State.inv_morWrByte (s : State) (a : Nat) (v : Byte) (h : s.inv = true) : (s.morWrByte a v).inv = true := by
  obtain ⟨h1, h2, h3, h4⟩ := (Bulk.wf_iff _).1 h
  exact (Bulk.wf_iff _).2 ⟨h1, h2, wf_mapSet _ _ _ _ h3, h4⟩

theorem State.inv_morWrite (s : State) (a : Nat) (bs : List Byte) (h : s.inv = true) : (s.morWrite a bs).inv = true := by
  induction bs generalizing s a with
  | nil => exact h
  | cons b bs ih =>
    refine ih _ _ ?_
    split
    · exact h
    · exact s.inv_morWrByte a b h

theorem State.morByte_morWrByte_self (s : State) (a : Nat) (v : Byte) : (s.morWrByte a v).morByte a = v :=
  mapGet_mapSet_self 0 s.bulk.moraine a v

theorem State.morByte_morWrByte_of_ne (s : State) (a b : Nat) (v : Byte) (h : b ≠ a) : (s.morWrByte a v).morByte b = s.morByte b :=
  mapGet_mapSet_of_ne 0 0 s.bulk.moraine v h

/-- A write of the moraine leaves every byte outside it alone. -/
theorem State.morByte_morWrite_outside (s : State) (a b : Nat) (bs : List Byte) (h : b < a ∨ a + bs.length ≤ b) :
    (s.morWrite a bs).morByte b = s.morByte b := by
  induction bs generalizing s a with
  | nil => rfl
  | cons x bs ih =>
    rw [List.length_cons] at h
    refine (ih _ (a + 1) (by omega)).trans ?_
    split
    · rfl
    · exact s.morByte_morWrByte_of_ne a b x (by omega)

/-! ## Control cores and the cornice -/

theorem State.inv_coreSet (s : State) (ash sel : Nat) (v : Word) (h : s.inv = true) : (s.coreSet ash sel v).inv = true := by
  unfold State.coreSet
  split
  · exact h
  · obtain ⟨h1, h2, h3, h4, h5, h6⟩ := (Bulk.wf_iff _).1 h
    exact (Bulk.wf_iff _).2 ⟨h1, h2, h3, h4, wf_mapSet _ _ _ _ h5, h6⟩

theorem State.inv_setCornice (s : State) (part ia : Nat) (w : Quad) (h : s.inv = true) : (s.setCornice part ia w).inv = true := by
  obtain ⟨h1, h2, h3, h4, h5⟩ := (Bulk.wf_iff _).1 h
  exact (Bulk.wf_iff _).2 ⟨h1, h2, h3, wf_mapSet _ _ _ _ h4, h5⟩

/-- p0 always reads 1 (R168). -/
@[simp] theorem State.coreGet_p0 (s : State) (ash : Nat) : s.coreGet ash 48 = 1 := rfl

/-- A control-core register reads back what was written to it, but for p0. -/
theorem State.coreGet_coreSet_self (s : State) (ash sel : Nat) (v : Word) (h : sel ≠ 48) :
    (s.coreSet ash sel v).coreGet ash sel = v := by
  unfold State.coreSet State.coreGet Machine.coreGet
  rw [if_neg h, if_neg h]
  exact mapGet_mapSet_self 0 s.bulk.core _ v

/-- A write leaves every other register of every ashlar alone. -/
theorem State.coreGet_coreSet_of_ne (s : State) (ash sel a k : Nat) (v : Word) (hs : sel < 64) (hk : k < 64)
    (h : ¬ (a = ash ∧ k = sel)) : (s.coreSet ash sel v).coreGet a k = s.coreGet a k := by
  unfold State.coreSet State.coreGet Machine.coreGet
  split
  · rfl
  · split
    · rfl
    · refine mapGet_mapSet_of_ne 0 0 s.bulk.core v ?_
      omega

@[simp] theorem State.cornice_setCornice_self (s : State) (part ia : Nat) (w : Quad) : (s.setCornice part ia w).cornice part ia = w :=
  mapGet_mapSet_self 0 s.bulk.cornice _ w

/-! ## Compute registers -/

theorem Bulk.wf_accStep (ash arr k : Nat) (b : Bulk) (c : Nat × Int × Bool) (h : b.wf = true) :
    (accStep ash arr k b c).wf = true := by
  obtain ⟨h1, h2, h3, h4, h5, h6, h7, h8, h9, h10⟩ := (Bulk.wf_iff _).1 h
  exact (Bulk.wf_iff _).2 ⟨h1, h2, h3, h4, h5, h6, wf_mapSet _ _ _ _ h7, h8, wf_mapSet _ _ _ _ h9, h10⟩

theorem foldl_keeps {α β : Type} (P : β → Prop) (f : β → α → β) (h : ∀ b a, P b → P (f b a)) (l : List α) (b : β) (hb : P b) :
    P (l.foldl f b) := forAll_keeps P f h l b hb

theorem Bulk.wf_accCols (b : Bulk) (ash arr k : Nat) (vals : List (Int × Bool)) (tot : Int)
    (h : b.wf = true) : (accCols b ash arr k vals tot).wf = true := by
  have hb := foldl_keeps (fun b : Bulk => b.wf = true) (accStep ash arr k) (fun b c => Bulk.wf_accStep ash arr k b c)
    (vals.zipIdx.map fun v => (v.2, v.1.1, v.1.2)) b h
  obtain ⟨h1, h2, h3, h4, h5, h6, h7, h8, h9⟩ := (Bulk.wf_iff _).1 hb
  exact (Bulk.wf_iff _).2 ⟨h1, h2, h3, h4, h5, h6, h7, wf_mapSet _ _ _ _ h8, h9⟩

theorem Bulk.wf_acczCols (b : Bulk) (ash mask k : Nat) (h : b.wf = true) : (acczCols b ash mask k).wf = true := by
  refine foldl_keeps (fun b : Bulk => b.wf = true) _ (fun b a hb => ?_) _ b h
  obtain ⟨h1, h2, h3, h4, h5, h6, h7, h8, h9, h10⟩ := (Bulk.wf_iff _).1 hb
  exact (Bulk.wf_iff _).2 ⟨h1, h2, h3, h4, h5, h6, wf_mapClear _ _ _ _ h7, wf_mapErase _ _ _ h8, wf_mapClear _ _ _ _ h9, h10⟩

theorem Bulk.wf_actBulk (b : Bulk) (a : DueAct) (h : b.wf = true) : (actBulk b a).wf = true := by
  obtain ⟨h1, h2, h3, h4, h5, h6, h7, h8, h9, h10, h11⟩ := (Bulk.wf_iff _).1 h
  unfold actBulk
  split
  · exact Bulk.wf_acczCols b _ _ _ h
  · exact (Bulk.wf_iff _).2 ⟨h1, h2, h3, h4, h5, h6, h7, h8, h9, wf_mapSet _ _ _ _ h10, h11⟩
  · refine (Bulk.wf_iff _).2 ⟨h1, h2, h3, h4, h5, ?_, h7, h8, h9, h10, h11⟩
    exact foldl_keeps (fun m => Memory.wf 0 m = true) _ (fun m l hm => wf_mapSet _ _ _ _ hm) _ _ h6
  · exact h

theorem Bulk.wf_clearAsh (b : Bulk) (a : Nat) (h : b.wf = true) : (clearAsh b a).wf = true := by
  obtain ⟨h1, h2, h3, h4, h5, h6, h7, h8, h9, h10, h11⟩ := (Bulk.wf_iff _).1 h
  exact (Bulk.wf_iff _).2 ⟨h1, h2, h3, h4, wf_mapClear _ _ _ _ h5, wf_mapClear _ _ _ _ h6, wf_mapClear _ _ _ _ h7,
    wf_mapClear _ _ _ _ h8, wf_mapClear _ _ _ _ h9, wf_mapClear _ _ _ _ h10, wf_mapClear _ _ _ _ h11.1,
    wf_mapClear _ _ _ _ h11.2⟩

/-! ## Outcomes -/

/-- A command of the control registers keeps the canonical form, whatever it does. -/
theorem State.inv_answerCtl (s u t : State) (h : s.inv = true) (ht : s.answerCtl u = .next t) : t.inv = true := by
  cases ht
  exact h

/-- Any other command keeps it if its operation does. -/
theorem State.inv_answer (s u t : State) (h : u.inv = true) (ht : s.answer u = .next t) : t.inv = true := by
  cases ht
  exact h

end Sys2Proof.Machine
end

