-- ==== Sys2Proof/Tests/Slice0.lean ====
section
/-! SUPPORT. The model's own tests: small states; for every statement with hypotheses, concrete states and operands that meet
them, clause by clause; the ill-formed commands that the checks refuse; values worked out by hand from the spec. -/

namespace Sys2Proof.Tests
open Sys2Proof.Machine

/-! ## Small states -/

/-- A state with some register fields set. -/
def with_ (l : List (Slot × Nat)) (s : State) : State := l.foldl (fun t x => t.put x.1 x.2) s

/-- Partition 3 is used and leads its own domain, with bank 0 VALID and scratchpad slice 0 of ashlar 12 READY. -/
def dom3 : State :=
  with_ [(Reg.MGT_PART_STATUS.USED 3, 1), (Reg.SEQ_DOMAIN.LEAD 3, 3), (Reg.SEQ_DOMAIN.MEMBERS 3, 8), (Reg.SEQ_BANK.STATE 3 0, 1),
    (Reg.TILE_SLICE_PWR.PWR_EN 3 0, 1), (Reg.TILE_SLICE_PWR.READY 3 0, 1)] State.reset

/-- The module is READY for its host. -/
def hosted : State := with_ [(Reg.MGT_BOOT_STATUS.STAGE, 6)] dom3

/-- Ticks enabled, with the origin set at count 1,000. -/
def ticks : State :=
  let s := with_ [(Reg.CLK_COURSE_CTRL.TICK_EN, 1), (Reg.CLK_TICK_ORIGIN_LO.ORIGIN, 1000)] hosted
  { s with clk := { s.clk with glacier := 900, originSet := true, nextK := 1 } }

def armed3 : State := with_ [(Reg.SEQ_COURSE_STATUS.ARMED 3, 1)] ticks
def running3 : State := with_ [(Reg.SEQ_COURSE_STATUS.RUNNING 3, 1)] ticks
def both3 : State := with_ [(Reg.SEQ_COURSE_STATUS.RUNNING 3, 1)] armed3
def owing3 : State := { both3 with clk := { both3.clk with glacier := 1 } }.setDom 3 { baseG := 30000 }
def tickFirst : State := { ticks with pending := [.tick] }
/-- A value waits to be taken by the counter. -/
def loadingClock : State := { hosted with clk := { hosted.clk with load := some (2 ^ 64 - 1) } }
def alignWait : State := { ticks with clk := { ticks.clk with alignPending := true, originSet := false } }
def syncCheck : State := with_ [(Reg.CLK_COURSE_CTRL.SYNC_CHECK_EN, 1)] ticks

/-- Partition 3 can be armed: sealed, its links ready, its header at address 8, its energy profile at address 16. -/
def armable : State :=
  let s := with_ [(Reg.MGT_SEAL.PART, 8), (Reg.UBN_PART_LINKS_OK.READY, 8), (Reg.SEQ_ENTRY.ENTRY 3, 11),
    (Reg.SEQ_START_COURSE_LO.START_COURSE 3, 5)] ticks
  { s with
    bulk := { s.bulk with
      cornice := [(18440, 0x4B48100000004E20#64), (18441, 0x0000400000000800#64), (18442, 16#64), (18448, 0x4550100000000100#64),
        (18449, 0x00200200#64)] } }
def header3 : Header := ⟨0x4000, 0x800, ⟨256, 32, 512⟩⟩
def spanning : State :=
  with_ [(Reg.SEQ_DOMAIN.MEMBERS 3, 0x48), (Reg.MGT_PART_STATUS.USED 6, 1), (Reg.SEQ_DOMAIN.LEAD 6, 3), (Reg.CLK_STEP_CUR.STEP_W, 1)] armable

/-- A course of partition 3 is about to start at count 904. -/
def launching : State :=
  (with_ [(Reg.SEQ_COURSE_STATUS.ARMED 3, 1), (Reg.SEQ_NEXT_ENTRY.ENTRY 3, 11)] armable).setDom 3 { launch := some (904, 1, 900) }
def lateLaunch : State := launching.setDom 3 { launch := some (950, 1, 900) }
def retiring : State := running3.setDom 3 { cyc := 100, wall := 1124, startG := 800, baseG := 800, retire := some none }
def frozen3 : State :=
  running3.setDom 3 { cyc := 100, wall := 1124, startG := 800, baseG := 800, frz := [⟨.wait, .cairn 12 0 8, 1094, 100, some 1134⟩] }

/-! Pending writes -/

def slicePwr : Nat := Reg.TILE_SLICE_PWR.addr 3 0
/-- Armed partition 3 with `n` pending writes. -/
def queued (n : Nat) : State := armed3.setPend 3 { queue := List.replicate n (.reg slicePwr 1) }
def bytes (n : Nat) : List Byte := List.replicate n 7#8
def window3 : State := armed3.setPend 3 { queue := [.scratch 12 4194240 (bytes 64), .reg slicePwr 1], window := 1 }
/-- Windows whose last entry is the cornice's last instruction, or a semaphore. -/
def windowCommit : State := armed3.setPend 3 { queue := [.scratch 12 0 (bytes 4), .commit 3 6143 0x89ABCDEF01234567], window := 2 }
def windowReg : State := armed3.setPend 3 { queue := [.reg (Reg.TILE_SEM.addr 3 0 31) 0xFFFFFFFF], window := 64 }
def heldA : HeldWrite := ⟨.pf, .reg slicePwr 1, 850⟩
def heldB : HeldWrite := ⟨.fw, .reg slicePwr 0, 860⟩
def held3 : State :=
  armed3.setPend 3 { queue := List.replicate 63 (.reg slicePwr 1), waiting := [heldA, heldB] }
/-- A host write of partition 3 is kept waiting, and holds the host's later ones. -/
def heldPost : State := held3
/-- The row of a register of the register tables. -/
def rowAt (a : Nat) : RegRow := (findRow a).getD ⟨.module, 0, [], []⟩
def undefined3 : State := running3.modDom 3 fun x => { x with undef := true }
def cornice3 : State :=
  (with_ [(Reg.SEQ_CORNICE_ADDR.LOCAL_IA 3, 6143), (Reg.SEQ_CORNICE_ADDR.AUTO_INC 3, 1), (Reg.SEQ_BANK.STATE 3 11, 0)] hosted).ww
    (Reg.SEQ_CORNICE_DATA_LO.addr 3) 0x89ABCDEF
def cornicePast : State := with_ [(Reg.SEQ_CORNICE_ADDR.LOCAL_IA 3, 6144)] cornice3

/-! Register access -/

def lateCount : State := with_ [(Reg.SEQ_LATE_COUNT.COUNT 3, 7)] hosted
def latched : State := { hosted with latches := [(Reg.CLK_GLACIER_HI.addr, 5)] }
def overrun3 : State := with_ [(Reg.SEQ_COURSE_STATUS.OVERRUN 3, 1)] armed3
def noPart3 : State := { hosted with mgmt := { hosted.mgmt with disabled := [3] } }
/-- Aperture 0 shows slice 0 of ashlar 12, aperture 1 the start of the moraine. -/
def apertures (s : State) : State := (s.ww (Reg.MGT_DW_SEL.addr 0) 0x80000030).ww (Reg.MGT_DW_SEL.addr 1) 0x80000001
def window0 : State := apertures hosted
def windowArmed : State := apertures armed3
def windowMor : State := with_ [(Reg.MOR_SIZE.SIZE 0, 16)] window0
def windowResetting : State := with_ [(Reg.MGT_PART_STATUS.RESETTING 3, 1)] window0
def windowUnready : State := with_ [(Reg.TILE_SLICE_PWR.READY 3 0, 0)] window0
/-- An aperture of virtual function 2 shows ashlar 12, one of the PF names ashlar 576. -/
def windowFar : State := (window0.ww (Reg.MGT_PDW_SEL.addr 2 0) 0x80000030).ww (Reg.MGT_DW_SEL.addr 2) 0x80000900

/-- A debug image; one whose hazard reports halt. -/
def observing (s : State) : State := with_ [(Reg.IDENT.DEBUG, 1)] s
def debugging (s : State) : State := with_ [(Reg.DBG_CTRL.HALT_ON_HAZARD, 1)] (observing s)

/-! What arrives -/

def granule (slice : Nat) : Gran :=
  { ash := 12, addr := slice * 4194304 + 64, data := bytes 64, final := true, cairn := 63, inc := 5, pkt := 1, start := 64 }
def landing (slice : Nat) : State :=
  ({ running3 with fab := { running3.fab with land := [granule slice] } }).setDom 3 { cyc := 10, wall := 1034, startG := 880, baseG := 880 }
def landIdle : State := { dom3 with fab := { dom3.fab with land := [granule 0] } }
/-- The granule's row is one that an STK with DIR 1 has still to read. -/
def landOver : State :=
  let s := observing (landing 0)
  { s with fab := { s.fab with stks := [{ id := 9, ash := 12, dir := true, addr := 0, mor := 0, left := [0], cairn := 0, deadline := none }] } }
def scrubbing : State := { with_ [(Reg.TILE_SCRUB_CTRL.EN 3 0, 1)] dom3 with scrub := [(12, (8191, 1034))] }
def powering : State := with_ [(Reg.TILE_SLICE_PWR.PWR_EN 3 0, 0x81)] dom3
def copying : State := { dom3 with mgmt := { dom3.mgmt with groutCopy := [(12, 7, 0x85)] } }
def worn : State :=
  let s := with_ [(Reg.TILE_CE_LOG.VALID 3 0 0, 1), (Reg.TILE_CE_LOG.COUNT 3 0 0, 15), (Reg.TILE_CE_LOG.ROW 3 0 0, 8191),
    (Reg.TILE_CE_THRESHOLD.THRESHOLD 3 0, 15)] armed3
  { s with mgmt := { s.mgmt with boluk := true, eventsWaiting := [(12, 0)] } }
def post : SempMsg := { ash := 12, sem := 31, inc := 255, ready := 0 }
def sempMsg : State := { running3 with fab := { running3.fab with semps := [post] } }
def getReq : GetReq :=
  { ash := 12, addr := 4194176, grans := 2, replyMod := 0, replyAsh := 13, replyAddr := 64, cairn := 3, inc := 1, cls := 0, entry := 9, pkt := 7 }
def getting : State := { dom3 with fab := { dom3.fab with gets := [getReq] } }
def gotten : GetReq := { getReq with got := [(0, bytes 64), (1, bytes 64)] }
def getReady : State := { dom3 with fab := { dom3.fab with gets := [gotten] } }
/-- The banks of both granules make two accesses in the latest bank cycle. -/
def getWaits : State :=
  ({ running3 with fab := { running3.fab with gets := [getReq], readLog := [(96, (1033, [47, 47, 55, 55]))] } }).setDom 3
    { cyc := 10, wall := 1034, startG := 880, baseG := 880 }
def compl (status : Nat) : Compl := { ash := 12, entry := 5, status }
def completing (status : Nat) : State :=
  { running3 with
    fab := { running3.fab with compl := [compl status], ents := [⟨12, 5, 1, 1, false, 0⟩], xfers := [{ id := 1, ash := 12, pkts := [1] }] } }
def stk (dir : Bool) : StkOp :=
  { id := 1, ash := 12, dir, addr := 512, mor := 5, left := [1], cairn := 63, deadline := none, ent := some 0 }
def streaming (dir : Bool) : State :=
  { dom3 with
    fab := { dom3.fab with stks := [stk dir], ents := [⟨12, 0, 0, 0, true, 0⟩] }
    bulk := { dom3.bulk with moraine := [(3072, 0xAB)], scratch := [(12 * 67108864, 9)] } }
/-- Seven granules of the row have landed, and the bank of the last one is not free. -/
def streamingPart : State :=
  let s := streaming false
  { s with fab := { s.fab with landLog := [(96, (0, [0]))] } }
def streamShadow : State :=
  let s := streaming false
  { s with mor := { s.mor with shadow := [(stackOf 6, s.now + 1)] } }
def lateStk : StkOp := { stk false with deadline := some 100 }
def streamLate : State :=
  ({ running3 with fab := { running3.fab with stks := [lateStk] } }).setDom 3 { cyc := 100, wall := 1124, startG := 800, baseG := 800 }

/-! Instructions -/

/-- A cornice word of a class, an operation code and a predicate field, with its operands given by their low bits. -/
def word (cls op : Nat) (l : List (Nat × Nat)) (pred : Nat := 1) : Quad :=
  BitVec.ofNat 64 (l.foldl (fun n f => n + f.2 <<< f.1) (cls <<< 60 + op <<< 52 + (if cls = 0 then 0 else pred) <<< 48))
/-- Registers of ashlar 12: s1 is 5, s2 is 2, a1 is 4,096, a3 is 12, a4 lies in slice 7, a5 is 512; p1 is true in it alone. -/
def regs12 : SMap Word :=
  [(769, 5), (770, 2), (801, 4096), (803, 12), (804, 0x1C00000), (805, 512), (806, 0x2000000), (817, 1)]
/-- Partition 3 runs and fetches a word at address 8 in schedule cycle 100. -/
def inst (w : Quad) : State :=
  ({ running3 with bulk := { running3.bulk with cornice := [(18440, w)], core := regs12 } }).setDom 3
    { cyc := 100, wall := 1124, startG := 800, baseG := 800, pc := 8 }
/-- The same with more of its domain set. -/
def instDom (w : Quad) (f : Dom → Dom) : State := (inst w).modDom 3 f

def wNop : Quad := word 0 0 []
def wLoop : Quad := word 0 1 [(36, 4095), (0, 65535)]
def wSkip : Quad := word 0 1 [(36, 4095)]
def wJmp : Quad := word 0 2 [(0, 131071)]
def wBrs : Quad := word 0 3 [(46, 1), (44, 3), (40, 15), (0, 131071)]
def wBrsNot : Quad := word 0 3 [(39, 1)]
def wBrsSum : Quad := word 0 3 [(44, 3), (39, 1)]
/-- A change of z3 is on its way to the lead. -/
def zOnWay (w : Quad) : State := instDom w fun x => { x with sums := [(150, .z 3 0 0)] }
def wCall : Quad := word 0 4 [(40, 255), (32, 63)]
def wEndc : Quad := word 0 5 [(47, 1), (0, 11)]
def wOvl : Quad := word 0 6 [(40, 11), (30, 12), (14, 8184), (0, 16383)]
def wSetq : Quad := word 0 7 [(32, 15), (0, 0xFFFFFFFF)]
def wAddq : Quad := word 0 8 [(32, 15), (0, 0xFFFFFFFF)]
/-- Two instructions, one after the other. -/
def inst2 (w w' : Quad) : State := { inst w with bulk := { (inst w).bulk with cornice := [(18440, w), (18441, w')] } }
/-- What a step leaves. -/
def left (o : Host.Outcome State Fault Refusal) : State := match o with | .next t => t | _ => State.reset
def wSetqZero : Quad := word 0 7 [(32, 15)]
def wAddqZero : Quad := word 0 8 [(32, 15)]
def wLoopQ : Quad := word 0 1 [(36, 4095), (35, 1), (0, 15)]
def wBrsQ : Quad := word 0 3 [(46, 2), (40, 15), (36, 2), (0, 131071)]
def wHalt : Quad := word 0 9 [(0, 65535)]
def wMovi : Quad := word 1 0 [(38, 47), (0, 0xFFFFFFFF)]
def wAlu : Quad := word 1 1 [(44, 1), (38, 31), (32, 1), (24, 2)]
def wCmpp : Quad := word 1 2 [(45, 7), (42, 2), (32, 1), (24, 2)]
def wRdf : Quad := word 1 3 [(38, 31), (8, 1), (0, 6)]
def wRdt : Quad := word 1 4 [(38, 30), (0, 1)]
def wRdz : Quad := word 1 5 [(38, 31), (32, 3), (0, 65535)]
def wLdw : Quad := word 2 0 [(38, 31), (34, 1), (0, 0xFFFFFC)]
def wLdwBad : Quad := word 2 0 [(38, 31), (34, 6)]
def wLdaBad : Quad := word 2 1 [(38, 47), (34, 6)]
def wStBad : Quad := word 2 2 [(38, 1), (34, 6)]
def wLda : Quad := word 2 1 [(38, 47), (34, 4)]
def wSt : Quad := word 2 2 [(38, 1), (34, 4)]
def wXfer : Quad := word 2 3 [(44, 0), (40, 1), (36, 3), (24, 1)]
def wMcast : Quad := word 2 4 [(44, 1), (36, 3), (24, 1)]
def wStk : Quad := word 2 5 [(44, 1), (40, 3), (28, 1)]
def wSemp : Quad := word 3 0 [(37, 31), (24, 255)]
def wSempFar : Quad := word 3 0 [(37, 31), (24, 255), (23, 1), (19, 3)]
def wSemw : Quad := word 3 1 [(37, 31), (24, 1)]
def wWaitc : Quad := word 3 2 [(40, 63), (39, 1), (32, 1)]
def wRel (e : Nat) : Quad := word 3 3 [(34, e)]
def wAcq : Quad := word 3 4 [(0, 7)]
/-- Ashlar 12 has observed ashlar 16 of partition 4, whose granule no wait has counted. -/
def mismatched : State :=
  { inst wAcq with haz := { lands := [⟨12, 64, 1, 0, 16, false, none, true, none, [], false, 0⟩], seen := [(12, 0, 16)] } }
/-- Ashlar 12 has read what ashlar 16 sent, and passes it on without an ACQ. -/
def passing : State :=
  { inst (wRel 3) with haz := { lands := [⟨12, 64, 1, 0, 16, false, none, true, some 2, [], true, 0⟩] } }
def wFence : Quad := word 3 5 [(0, 15)]
def wMma : Quad := word 4 0 [(40, 15), (36, 15), (32, 1), (28, 1), (24, 1), (16, 4), (0, 1)]
def wMmw : Quad := word 4 1 [(40, 3), (36, 12), (32, 10), (28, 10), (24, 1), (20, 5), (16, 4), (12, 5), (0, 1)]
def wAccz : Quad := word 4 2 [(40, 15), (36, 15)]
def wWin : Quad := word 4 3 [(36, 15), (0, 1023)]
def wChk : Quad := word 4 4 [(40, 15), (36, 15)]
def wVch : Quad := word 5 0 [(35, 31)]
def wVred : Quad := word 5 1 [(35, 31)]
def wVsum : Quad := word 5 2 [(40, 1), (18, 4), (14, 4)]
def wCvt : Quad := word 6 0 [(32, 1), (14, 16), (8, 16)]
def wMxp : Quad := word 6 1 [(32, 10), (14, 0), (8, 0)]
def wMxu : Quad := word 6 2 [(36, 10)]
def wRsc : Quad := word 6 3 [(42, 1), (4, 1)]
def wNear : Quad := word 6 0 [(32, 1), (14, 8), (8, 8)]
def wSmp : Quad := word 7 1 []
def wEmit : Quad := word 7 0 [(0, 65535)]
/-- Its engines are occupied and their queues are full. -/
def full (s : State) : State :=
  s.modDom 3 fun x => { x with aq := List.replicate 32 ⟨wAccz, 8, 90, regs12⟩, vq := List.replicate 32 ⟨wMxu, 8, 90, regs12⟩,
                               tq := List.replicate 32 ⟨wXfer, 8, 90, regs12⟩, aOcc := 1000, vOcc := 1000, tOcc := 1000 }

def level : LoopLevel := ⟨2, 8, 2, 2⟩
def active : CallState := ⟨100, 4, 8, 0⟩
def looping (l : List LoopLevel) : State := instDom wNop fun x => { x with loops := l }
def calling : State := instDom wNop fun x => { x with call := some active }
def routine : State :=
  with_ [(Reg.SEQ_ROUTINE_LO.ENTRY 3 63, 1), (Reg.SEQ_ROUTINE_LO.LENGTH 3 63, 511), (Reg.SEQ_ROUTINE_LO.VALID 3 63, 1),
    (Reg.SEQ_ROUTINE_HI.VERSION 3 63, 255), (Reg.SEQ_BANK.RESIDENT 3 0, 1)] (inst wCall)
def chained (nk : Nat) (w : Quad) : State :=
  (inst w).ww (Reg.VEC_CH_HDR.addr 3 31) (BitVec.ofNat 32 (2 ^ 16 + nk <<< 10 + 3 <<< 4))
def chainV (k : VKind) (nk : Nat) : VOp := { kind := k, n := 1, fz := false, xk := none, sk := 3, sf := 0, ssel := 0, nk, nf := 0, nsel := 0 }
def moraineOpen : State := with_ [(Reg.MOR_RW_SIZE.SIZE 3, 64)] (inst wStk)
/-- Semaphore 31 and cairn counter 63 of ashlar 12 hold 5. -/
def counters (w : Quad) : State := with_ [(Reg.TILE_SEM.VALUE 3 0 31, 5), (Reg.TILE_CAIRN.VALUE 3 0 63, 5)] (inst w)
def busyArray : State := instDom wFence fun x => { x with aEnd := 101 }
def armable12 : State := with_ [(Reg.SEQ_ENTRY.ENTRY 3, 12)] armable
def frozenOpen : State :=
  with_ [(Reg.SEQ_FREEZE_LIMIT.LIMIT 3, 50)] (frozen3.modDom 3 fun x => { x with frz := [⟨.wait, .cairn 12 0 8, 1094, 100, none⟩] })
/-- An entry of an engine queue. -/
def qent (w : Quad) (ia t : Nat) : QEnt := ⟨w, ia, t, regs12⟩
/-- An STK that waits in the transfer queue past its deadline. -/
def wStkLate : Quad := word 2 5 [(44, 1), (40, 3), (28, 1), (0, 60)]
def queuedStk : State := instDom wNop fun x => { x with tq := [qent wStkLate 8 40] }
def release : VStart := ⟨1, none, none, []⟩
def nearest : VStart := ⟨1, some 8, some 3, []⟩
def arrayHead (w : Quad) : State := instDom wNop fun x => { x with aq := [qent w 8 99, qent w 9 100] }
def vectorHead (w : Quad) : State := instDom wNop fun x => { x with vq := [qent w 8 99] }
def transferHead (w : Quad) : State := instDom wNop fun x => { x with tq := [qent w 8 99] }
def wEmitFar : Quad := word 7 0 [(34, 1), (30, 4)]
def ovl3 : Ovl := ⟨1, 12, 0, 0, 16383, 99⟩
def overlayQueued : State := with_ [(Reg.SEQ_BANK.STATE 3 1, 2)] (instDom wNop fun x => { x with ovq := [ovl3] })
def overlayLoading : State := with_ [(Reg.SEQ_BANK.STATE 3 1, 3)] (instDom wNop fun x => { x with ovLoad := some (ovl3, 4) })
def deadlocked : State := with_ [(Reg.SEQ_BANK.STATE 3 0, 3)] (instDom wNop fun x => { x with fetchWait := 65535 })
def summing (v : SumVal) (t : Nat) : State := instDom wNop fun x => { x with sums := [(t, v)], lastQ := [(15, 99)] }
def smpJob (l : List (List (Nat × Word))) : SmpJob := ⟨100, 0, 255, l, 30, [12]⟩
def sampling (st : Nat) : State :=
  with_ [(Reg.SRV_CTX_STATE.STATE 3 255, st), (Reg.SRV_CTX_CFG.VOCAB_M1 3 255, 100)]
    (instDom wNop fun x => { x with smps := [smpJob [[(7, 0x3F800000), (8, 0x40000000)]]] })
def emitJob (data : Bool) : EmitJob := ⟨100, 0, 0, 255, data, if data then bytes 64 else [], 9⟩
def emitting (data : Bool) : State :=
  with_ [(Reg.SRV_CTX_STATE.STATE 3 255, 2)] (instDom wNop fun x => { x with emits := [emitJob data] })

/-! Clocks and the time base -/

def steps (s : State) : State := with_ [(Reg.CLK_STEP_AVAIL.AVAIL, 0x8001)] s
def stepsArmed : State := steps (with_ [(Reg.SEQ_COURSE_STATUS.ARMED 3, 1)] spanning)
def stepsNone : State := with_ [(Reg.CLK_STEP_AVAIL.AVAIL, 0)] hosted
def stepPlanned : State :=
  let s := with_ [(Reg.CLK_STEP_PLAN.PENDING, 1), (Reg.CLK_STEP_PLAN.NEXT_W, 15), (Reg.CLK_STEP_COURSE_LO.COURSE, 0),
    (Reg.CLK_COURSE_START_LO.START, 1000)] running3
  { s with clk := { s.clk with glacier := 950 } }
def calibrating : State := { hosted with mgmt := { hosted.mgmt with dieDone := true } }
def stretching (ash : Nat) : State := { running3 with clk := { running3.clk with stretching := [(ash, false, 8200)] } }
def timeMode (m : Nat) (s : State) : State := with_ [(Reg.CLK_TIME_CTRL.FREE, 0), (Reg.CLK_TIME_STATUS.MODE, m)] s
def lost (limit : Nat) : State :=
  let s := with_ [(Reg.CLK_HOLDOVER_LIMIT.LIMIT, limit)] (timeMode 1 ticks)
  { s with clk := { s.clk with lostAt := some 500 } }
def slewing : State := with_ [(Reg.CLK_TIME_STATUS.SLEWING, 1), (Reg.CLK_TIME_STATUS.PHASE_ERR, 7)] (timeMode 1 ticks)

/-! Ubnov -/

/-- Header words of a packet: type, destination module and ashlar, hops; its payload is one granule. -/
def head0 (typ cls dstMod dst hops : Nat) : Quad :=
  BitVec.ofNat 64 (1 + cls <<< 5 + typ <<< 7 + 1 <<< 11 + dstMod <<< 13 + dst <<< 25 + 1 <<< 37 + 14 <<< 49 + hops <<< 59)
def head1 : Quad := BitVec.ofNat 64 (4194240 + 63 <<< 25 + 64 <<< 31 + 1 <<< 38 + 127 <<< 45)
def port31 (st : Nat) : State :=
  with_ [(Reg.UBN_PORT_STATUS.STATE 31, st), (Reg.UBN_PORT_STATUS.STATE 0, 3), (Reg.UBN_ROUTE_LO.VALID 4095, 1),
    (Reg.UBN_ROUTE_LO.PRIMARY 4095, 0), (Reg.UBN_POOL_STATUS.IN_USE, 8191)] running3
def accepting : State := (port31 3).ww (Reg.MGT_PART_ACCEPT.addr 3 7) 0x80000002
/-- The next frame has sequence number 65,535; whether an earlier one has been asked for again. -/
def receiving (nak : Bool) : State := (port31 3).setPort 31 { rxSeq := 65535, nakked := nak }
def pkt : Pkt := { id := 3, typ := 0, dst := 12, dstMod := 0, srcMod := 1, srcAsh := 14, addr := 64, payload := bytes 64, inPort := 31, inc := 1 }
def pooled : State := { running3.setDom 3 { baseG := 900, startG := 900 } with fab := { running3.fab with pool := [pkt] } }
def outPkt : Pkt := { id := 4, cls := 2, dstMod := 4095, dst := 7, srcMod := 0, srcAsh := 12, payload := bytes 64 }
def sending (used : Nat) : State := (with_ [(Reg.UBN_CRED.REQ 4095, 1)] (port31 3)).setPort 31 { egress := [(2, outPkt)], creditUsed := [(2, used)] }
/-- Egress of port 0 is full. -/
def egressFull : State :=
  (port31 3).setPort 0 { egress := List.replicate 256 (0, { outPkt with cls := 0 }) }
def releasing : State := { pooled with fab := { pooled.fab with lastRel := [(12, 1030)] } }
def landFull : State := { releasing with fab := { releasing.fab with land := List.replicate 32 (granule 0) } }
def resvArm : State := (armed3).ww (Reg.UBN_RESV.addr 5) 0x22
def resvMax : State := hosted.ww (Reg.UBN_RESV.addr 5) 0x11
def resvOver : State := hosted.ww (Reg.UBN_RESV.addr 4095) 0x12
def mcPkt : Pkt := { outPkt with mc := true, dst := 4095 }
def holdOf (logged : Bool) : McHold := ⟨mcPkt, 31, 800, logged⟩
def holding (used : Nat) (logged : Bool) : State :=
  ({ port31 3 with fab := { (port31 3).fab with holds := [holdOf logged] } }).setPort 31 { creditUsed := [(2, used)] }
def holding2 : State := { port31 3 with fab := { (port31 3).fab with holds := [holdOf true, holdOf false] } }
def retrying (n : Nat) : State :=
  (with_ [(Reg.UBN_PORT_RETRY_MAX.MAX 31, 3)] (port31 3)).setPort 31
    { retry := [⟨65534, outPkt, 0⟩, ⟨65535, outPkt, n⟩, ⟨0, outPkt, 0⟩], nextSeq := 1 }
def replaying31 : State :=
  (port31 3).setPort 31 { replaying := some 880 } |>.setDom 3
    { cyc := 100, wall := 1124, startG := 800, baseG := 800, frz := [⟨.link, .port 31, 1094, 100, none⟩] }
def narrowed31 : State := (port31 4).setPort 31 { lanes := 0x0F }
/-- One frame, or one packet of module 9, is lost with the link. -/
def losing : State := (with_ [(Reg.UBN_CRED.REQ 4095, 1)] (port31 3)).setPort 31 { retry := [⟨65535, outPkt, 0⟩] }
def farPkt : Pkt := { outPkt with srcMod := 9, srcAsh := 575, entry := 15 }
def losingFar : State :=
  (with_ [(Reg.UBN_ROUTE_LO.VALID 9, 1), (Reg.UBN_ROUTE_LO.PRIMARY 9, 0)] (port31 3)).setPort 31 { egress := [(2, farPkt)] }
def berWarn : State := with_ [(Reg.UBN_PORT_BER_THRESH.THRESH 31, 100)] (port31 3)
def enabled31 : State := with_ [(Reg.UBN_PORT_CTRL.EN 31, 1)] (port31 0)
/-- Port 31 is planned as the pair of port 5 of module 9. -/
def planned (st : Nat) : State :=
  let s := (with_ [(Reg.UBN_PORT_STATUS.LANE_OK 31, 255)] (port31 st)).setPort 31 { trained := true, exchAt := some 850 }
  { s with disc := { s.disc with committed := true, tag := 77, gen := 5, planLo := [(31, BitVec.ofNat 32 (9 + 5 <<< 12 + 1 <<< 24))] } }
def identity (tag md : Nat) : Quad := BitVec.ofNat 64 (1 + 1 <<< 4 + 2 <<< 8 + md <<< 16 + 5 <<< 28 + tag <<< 40)
def identity1 : Quad := BitVec.ofNat 64 (5 + 1 <<< 16)
def missing31 : State := (planned 0).setPort 31 {}
def training31 : State := (planned 1).setPort 31 {}
def heard31 : State := (planned 1).modPort 31 fun x => { x with heard := true }
def trained31 : State := (planned 1).modPort 31 fun x => { x with trainedAt := 850 }

/-! Serving engines -/

/-- The engine of partition 3 holds a command for context 255; the host link is up, and the ring of one slot is empty. -/
def cmd (op : Nat) (a0 a1 : Word) : SrvCmd := ⟨op, 255, 9, a0, a1, 0, false⟩
def atEn : SrvCmd := { op := 11, ctx := 255, tag := 9, arg0 := 0x20007, arg1 := 1, at_ := 8, atEn := true }
def serving (st : Nat) (k : SrvCmd) : State :=
  { with_ [(Reg.SRV_CTX_STATE.STATE 3 255, st), (Reg.SRV_CTX_CFG.VOCAB_M1 3 255, 100), (Reg.SRV_CTX_LEN.LEN 3 255, 64),
      (Reg.SRV_RING_SIZE.SIZE 3 0, 0), (Reg.SRV_RING_PROD.PROD 3 0, 65535), (Reg.SRV_RING_CONS.CONS 3 0, 65535),
      (Reg.SRV_KV_CFG.PAGES 3, 2), (Reg.MOR_SIZE.SIZE 1, 49)] hosted with pciUp := true }.setSrv 3 { cmds := [k], boundary := some 7 }
def ring2 (s : State) : State := with_ [(Reg.SRV_RING_SIZE.SIZE 3 0, 1)] s
def handle7 : Handle :=
  { slot := 7, gen := 2, part := 3, ctx := 255, tag := 9, layout := 0, len := 65, ctxGen := 1, grans := [0], ttl := 1000, expiry := 2000,
    valid := true, entry := List.replicate 14 5#32 }
def handleOpen : Handle := { handle7 with valid := false }
/-- Every slice of partition 3 is READY. -/
def allReady (s : State) : State := with_ ((List.range 48).map fun a => (Reg.TILE_SLICE_PWR.READY 3 a, 255)) s
def parked (h : Handle) (st : Nat) (k : SrvCmd) : State := { serving st k with park := ⟨[h], []⟩ }
def parking (h : Handle) (st : Nat) : State :=
  (ring2 (parked h st (cmd 10 0 0))).modSrv 3 fun e => { e with ctxs := [(255, { live := true, xfer := some (7, 8) })] }
def inputs : Ctx := { live := true, input := List.replicate 33 5 }
def boundary3 : State := (serving 2 (cmd 1 0 0)).setSrv 3 { boundary := some 7, ctxs := [(255, inputs)] }
def undoing : Ctx := { live := true, undo := [(62, none), (63, none)], hist := List.replicate 64 1 }
def cancelling (st : Nat) : State := (serving st (cmd 4 0 0)).modSrv 3 fun e => { e with ctxs := [(255, undoing)] }

/-! The moraine -/

def cells (a : Nat) (ws : List Nat) : List Host.Cell :=
  (((ws.flatMap (leBytes 8)).zipIdx).map fun x => (a + x.2, x.1)).filter fun x => x.2 ≠ 0
def entry : List Nat :=
  [0x4C42 <<< 48 + 1 <<< 44 + 1 <<< 24 + 1 <<< 20, 131071, 0, 16 + 11 <<< 32, 32 + 0x200000 <<< 32, 1 + 1 <<< 48]
def library : State :=
  let s := with_ [(Reg.MOR_RD_SIZE.SIZE 3, 1)] hosted
  { s with bulk := { s.bulk with moraine := cells 0 entry ++ cells 8192 [0x1234, 0x5678] } }
/-- Its library entry cannot be read. -/
def libraryBad : State := { library with mor := { library.mor with bad := [(0, 255)] } }
def swap3 : Swap := ⟨3, entry, 100⟩
def swapping : State :=
  let s := with_ [(Reg.MOR_SWAP_STATUS.BUSY 3, 1)] library
  { s with mor := { s.mor with swaps := [swap3] } }
def desc (len : Nat) : LoadDesc := { port := 1, dkind := 0, raddr := 0x1000, len, d5 := 0, d6 := 0, tag := 65535 }
def descAsh : LoadDesc := { port := 1, dkind := 2, raddr := 0x1000, len := 1, d5 := 4190208, d6 := 12 + 63 <<< 16, tag := 5 }
def loads (l : List LoadDesc) : State :=
  let s := with_ [(Reg.MOR_SIZE.SIZE 0, 1)] hosted
  { s with mor := { s.mor with loads := l, loadRegs := [(0, 1), (2, 0x1000), (4, 1)] } }
/-- A load for chain 15, with a relay buffer that has room or is full. -/
def descChain : LoadDesc := { port := 1, dkind := 3, raddr := 0x1000, len := 1, d5 := 15, d6 := 0, tag := 5 }
def loadChain (full : Bool) : State :=
  let s := with_ [(Reg.MOR_CHAIN_CFG.VALID 15, 1), (Reg.MOR_CHAIN_CFG.LOCAL_KIND 15, 1), (Reg.MOR_CHAIN_LEN.LEN 15, 1)] (loads [descChain])
  let w : MorWrite := { row := 8, off := 0, data := bytes 4096, chain := some 1 }
  { s with mor := { s.mor with writes := if full then List.replicate 256 w else [] } }
/-- The landing buffer of its slice is full. -/
def loadFull : State :=
  let s := loads [descAsh]
  { s with fab := { s.fab with land := List.replicate 32 { granule 0 with addr := 4190208 } } }
def morWrite (chain : Option Nat) : MorWrite := { row := 5, off := 7, data := bytes 9, host := chain.isNone, chain }
def morWriting (chain : Option Nat) (g : Nat) : State :=
  let s := with_ [(Reg.MOR_CHAIN_LEN.LEN 15, 1)] ticks
  { s with mor := { s.mor with writes := [morWrite chain], shadow := [(stackOf 5, g)] } }
def relayPkt (dst : Nat) : Pkt := { typ := 4, dst, addr := 0, payload := bytes 64 }
def relaying (dst : Nat) : State :=
  let s := with_ [(Reg.MOR_CHAIN_CFG.VALID 15, 1), (Reg.MOR_CHAIN_CFG.LOCAL_KIND 15, 1), (Reg.MOR_CHAIN_LEN.LEN 15, 1),
    (Reg.UBN_POOL_STATUS.IN_USE, 1)] hosted
  { s with fab := { s.fab with relayIn := [relayPkt dst] } }
def shadowAt (g : Nat) : State := { hosted with clk := { hosted.clk with glacier := g } }
def patrol : State := with_ [(Reg.MOR_CTRL.SCRUB_EN, 1), (Reg.MOR_SIZE.SIZE 0, 1)] hosted
def noPatrol : State := with_ [(Reg.MOR_CTRL.SCRUB_EN, 0)] patrol
def stackGone : State := with_ [(Reg.MOR_STACK.STATE 31, 2)] hosted
def streamRunning : State := { running3 with fab := { running3.fab with stks := [stk false] } }

/-! Mailbox, resets, power -/

/-- Instance `m` is BUSY with a request of this opcode, length and payload words. -/
def ask (m op len : Nat) (ws : List Nat) : State :=
  let s := (hosted.wwList (mbxBase m) ((op + 0xABCD <<< 16) :: len :: ws)).put (mbxBit m 0) 1
  { s with mgmt := { s.mgmt with boluk := true } }
def askArmed (m op len : Nat) (ws : List Nat) : State := with_ [(Reg.SEQ_COURSE_STATUS.ARMED 3, 1)] (ask m op len ws)
def askLoading : State := let s := ask 12 5 8 [8]; { s with mgmt := { s.mgmt with loading := some (8, 12, 1) } }
/-- Instance 0 is served before instance 12. -/
def askBehind : State := (ask 12 1 0 []).put (mbxBit 0 0) 1
def firmware (s : State) : State := { s with mgmt := { s.mgmt with boluk := true } }
def dark : State := { hosted with mgmt := { hosted.mgmt with input := false } }
def maskedPci : State := { hosted with pci := { masked := [5], waiting := [(5, 2), (6, 1)] } }
def be48 (n : Nat) : List Byte := (leBytes 48 n).reverse
/-- An Eptustan image with an empty STRUCTURE, signed with the private key 1, whose public key is the generator. -/
def signedImage : List Byte :=
  leBytes 8 (0x45505431 + 1 <<< 32 + 2 <<< 48) ++ leBytes 8 (1 <<< 48) ++ leBytes 8 (624 + 1 <<< 32 + 0x10 <<< 48) ++ zeros 104
    ++ [4#8] ++ be48 p384Gx ++ be48 p384Gy ++ zeros 31 ++ be48 p384Gx
    ++ be48 0xca45b91d3d33b8187dec4fb0685c28e39b05d3d2d5aaee8c8825a99c8ab7d673f2df91f77f1c742cbd05bbcaee103706 ++ zeros 160
    ++ leBytes 16 (1 + 0xFF <<< 8 + 0x240 <<< 32 + 48 <<< 64)
    ++ be48 0x8f0d145c0368ad6b70be22e41c400eea91b971d96ba220fec9fae25a58dffdaaf72dbe8f6783d55128c9df4efaf6f8a7 ++ zeros 48
def signer : KeySlot :=
  { hash := be48 0x8c4f262412b7f9ed867606705a130de5212fd048fbaf8c3842f4a240f4b45ba0c90f82194ccdda3ed89c96b0afe1d51d
    prod := true, revoked := false }
def signed (s : State) : State :=
  { s with
    fuses := { s.fuses with keys := [signer] }
    mgmt := { s.mgmt with flash := { s.mgmt.flash with image0 := signedImage, selImage := 0 }, moduleDigest := zeros 48 } }
def unpowered : State := { hosted with mgmt := { hosted.mgmt with powered := false } }
def perst (n : Nat) : State := with_ [(Reg.MGT_RESET_CFG.PERST_ACTION, n)] (firmware running3)
def booting (st : Nat) : State := with_ [(Reg.MGT_BOOT_STATUS.STAGE, st)] (firmware running3)
def verified : State := let s := booting 5; { s with mgmt := { s.mgmt with verDone := some 1 } }
def throttled : State :=
  let s := with_ [(Reg.GOV_STATUS.THROTTLING, 1)] running3
  { s with gov := { s.gov with throttle := some (880, 100) } }
def buffered (e : Nat) : State := { hosted with gov := { hosted.gov with e := e, pCmd := 500 * watt, pIn := 600 * watt, ballast := 3 } }
def sampled (n : Nat) : State := { hosted with gov := { hosted.gov with samples := List.replicate n (48000, 20000) } }
def logged : State :=
  let s := firmware hosted
  { s with flt := { s.flt with cur := [{ code := 0x80, effect := 1 }] } }

/-! Record, replay and Ethernet -/

def rent (kind : Nat) : REnt := ⟨kind, 3, 255, 0, 100, false, false, [1], [], false⟩
def replay (kind st : Nat) : State :=
  let s := with_ [(Reg.SRV_CTX_STATE.STATE 3 255, st)] (inst wNop)
  { s with recd := { s.recd with mode := 2, todo := [rent kind] } }
/-- A port whose physical link is up, with an association each way. -/
def eth1 : Eth := { phy := some 0, txSa := [{ an := 2, pn := 7 }, { an := 1 }], rxSa := [{ an := 3 }] }
def eth (s : State) : State :=
  (with_ [(Reg.ETH_CTRL.EN 1, 1), (Reg.ETH_CTRL.MTU 1, 9216), (Reg.ETH_CTRL.MACSEC_EN 1, 1), (Reg.ETH_STATUS.LINK_UP 1, 1),
    (Reg.ETH_MR_CFG.VALID 0, 1), (Reg.ETH_MR_CFG.PART 0, 3), (Reg.ETH_MR_CFG.ASHLAR 0, 12), (Reg.ETH_MR_CFG.INC 0, 1),
    (Reg.ETH_MR_LEN.LEN 0, 64), (Reg.ETH_MR_RKEY.RKEY 0, 0xABCD)] s).setEth 1 eth1
def plain (s : State) : State := with_ [(Reg.ETH_CTRL.MACSEC_EN 1, 0)] (eth s)
def paused (s : State) : State := s.setEth 1 { s.ethAt 1 with pausedTo := s.now + 9 }
def stream : Nat × List Word × Rec := (4095, [1, 2], { kind := 0, ctx := 255, part := 3, tokens := [5] })
def streams (s : State) : State := { s.setEth 1 { eth1 with queue := [stream] } with flowSeq := [(4095, 4294967295)] }
def ethHolds (s : State) : State := s.setEth 1 { s.ethAt 1 with held := [.rdmaAck 1, .rdmaNak 1 true] }
def stamps (n : Nat) : State := (eth hosted).setEth 1 { eth1 with stamps := List.replicate n (2 ^ 63, 5, true) }

/-- A command that changes nothing waits. -/
def oneWaits : State := { State.reset with pending := [.freezeEnd 3] }

section
-- One theorem at a time: checked side by side, they ask for more threads than a check may start.
set_option Elab.async false

/-! ## Hypotheses that are met

One theorem for each statement: every clause of it with hypotheses, in order, at a concrete state and operands. -/

/-- A state whose 32 stacks all run reads no row of a failed stack. -/
theorem no_stack_failed (s : State) (h : ∀ k < 32, s.get (Reg.MOR_STACK.STATE k) ≠ 2) (r : Nat) : s.stackFailed r = false := by
  have hk : stackOf r < 32 := by unfold stackOf; omega
  simpa [State.stackFailed] using h _ hk

theorem no_row_bad (s : State) (h : ∀ k < 32, s.get (Reg.MOR_STACK.STATE k) ≠ 2) (hb : s.mor.bad = []) (r : Nat) :
    s.rowBad r = false := by
  simp [State.rowBad, no_stack_failed s h r, hb, mapGet, mapGet?]

/-- A step that answers a next state answers the one that it leaves. -/
def goesOn (o : Host.Outcome State Fault Refusal) : Bool := match o with | .next _ => true | _ => false
theorem next_left {o : Host.Outcome State Fault Refusal} (h : goesOn o = true) : o = .next (left o) := by
  cases o <;> simp_all [goesOn, left]

theorem wit_StepRunsFrontCommand :
    (tickFirst.pending = [Instr.tick]) :=
  by decide +kernel

theorem wit_IdleStepCountsOneGlacier :
    (ticks.pending = [] ∧ (ticks.clk.load = none ∨ ticks.tickEn = true))
    ∧ (loadingClock.pending = [] ∧ loadingClock.clk.load = some (2 ^ 64 - 1) ∧ loadingClock.tickEn = false) :=
  ⟨by decide +kernel, by decide +kernel⟩

theorem wit_EveryStepConsumesOneCommand :
    (oneWaits.pending = [Instr.freezeEnd 3] ∧ step oneWaits = Host.Outcome.next State.reset) :=
  ⟨by decide +kernel, rfl⟩

theorem wit_TickStartsOrOwesCourses :
    (stepPlanned.stepWaits = true)
    ∧ (ticks.ticking = true ∧
      ticks.stepWaits = false ∧
        (∀ (d : Nat), d < 12 → ticks.behind d ticks.nextTick = false) ∧ ticks.clk.nextK < 2 ^ 48 ∧ ticks.nextTick < 2 ^ 64)
    ∧ (armed3.ticking = true ∧
      armed3.stepWaits = false ∧
        (∀ (d : Nat), d < 12 → armed3.behind d armed3.nextTick = false) ∧ armed3.clk.nextK < 2 ^ 48 ∧ armed3.nextTick < 2 ^ 64)
    ∧ (owing3.ticking = true ∧
      owing3.stepWaits = false ∧
        (∀ (d : Nat), d < 12 → owing3.behind d owing3.nextTick = false) ∧ owing3.clk.nextK < 2 ^ 48 ∧ owing3.nextTick < 2 ^ 64) :=
  ⟨by decide +kernel, by decide +kernel, by decide +kernel, by decide +kernel⟩

theorem wit_RackSyncEdgeAlignsOrIsChecked :
    (alignWait.clk.alignPending = true ∧ (alignWait.clk.load = none ∨ alignWait.tickEn = true))
    ∧ (syncCheck.clk.alignPending = false ∧
      syncCheck.ticking = true ∧
        syncCheck.get Reg.CLK_COURSE_CTRL.SYNC_CHECK_EN = 1 ∧
          ((syncCheck.nearTick (↑1003 + signedOf 16 (syncCheck.get Reg.CLK_SYNC_DELAY.DELAY))).snd < -2 ∨
        2 < (syncCheck.nearTick (↑1003 + signedOf 16 (syncCheck.get Reg.CLK_SYNC_DELAY.DELAY))).snd))
    ∧ (syncCheck.clk.alignPending = false ∧
      syncCheck.ticking = true ∧
        syncCheck.get Reg.CLK_COURSE_CTRL.SYNC_CHECK_EN = 1 ∧
          -2 ≤ (syncCheck.nearTick (↑1002 + signedOf 16 (syncCheck.get Reg.CLK_SYNC_DELAY.DELAY))).snd ∧
        (syncCheck.nearTick (↑1002 + signedOf 16 (syncCheck.get Reg.CLK_SYNC_DELAY.DELAY))).snd ≤ 2) :=
  ⟨by decide +kernel, by decide +kernel, by decide +kernel⟩

theorem wit_TickEnableTakesTheOrigin :
    (hosted.postFree Who.fw = true ∧
      hosted.hostOpen Who.fw Reg.CLK_COURSE_CTRL.addr = true ∧
        hosted.mayField Who.fw Reg.CLK_COURSE_CTRL.addr Access.rw = true ∧
          hosted.tickEn = false ∧ bitOf (1#32).toNat 0 = true ∧ bitOf (1#32).toNat 2 = false)
    ∧ (hosted.postFree Who.fw = true ∧
      hosted.hostOpen Who.fw Reg.CLK_COURSE_CTRL.addr = true ∧
        hosted.mayField Who.fw Reg.CLK_COURSE_CTRL.addr Access.rw = true ∧
          hosted.tickEn = false ∧ bitOf (5#32).toNat 0 = true ∧ bitOf (5#32).toNat 2 = true)
    ∧ (ticks.postFree Who.fw = true ∧
      ticks.hostOpen Who.fw Reg.CLK_COURSE_CTRL.addr = true ∧
        ticks.mayField Who.fw Reg.CLK_COURSE_CTRL.addr Access.rw = true ∧ ticks.tickEn = true ∧ bitOf (0#32).toNat 0 = false) :=
  ⟨by decide +kernel, by decide +kernel, by decide +kernel⟩

theorem wit_TickParametersAreGuarded :
    (tickParam Reg.CLK_COURSE_PERIOD.addr = true ∧
      ticks.postFree Who.fw = true ∧
        ticks.hostOpen Who.fw Reg.CLK_COURSE_PERIOD.addr = true ∧
          ticks.mayField Who.fw Reg.CLK_COURSE_PERIOD.addr Access.rw = true ∧ ticks.tickEn = true)
    ∧ (tickParam Reg.CLK_COURSE_PERIOD.addr = true ∧
      hosted.postFree Who.fw = true ∧
        hosted.hostOpen Who.fw Reg.CLK_COURSE_PERIOD.addr = true ∧
          hosted.mayField Who.fw Reg.CLK_COURSE_PERIOD.addr Access.rw = true ∧
        Reg.CLK_COURSE_PERIOD.addr = Reg.CLK_COURSE_PERIOD.addr ∧
        ((1999#32).toNat % 2 ^ 18 < 2000 ∨ 200000 < (1999#32).toNat % 2 ^ 18))
    ∧ (tickParam Reg.CLK_COURSE_PERIOD.addr = true ∧
      hosted.postFree Who.fw = true ∧
        hosted.hostOpen Who.fw Reg.CLK_COURSE_PERIOD.addr = true ∧
          hosted.mayField Who.fw Reg.CLK_COURSE_PERIOD.addr Access.rw = true ∧
        hosted.tickEn = false ∧
        Reg.CLK_COURSE_PERIOD.addr = Reg.CLK_COURSE_PERIOD.addr ∧
        2000 ≤ (200000#32).toNat % 2 ^ 18 ∧ (200000#32).toNat % 2 ^ 18 ≤ 200000)
    ∧ (tickParam Reg.CLK_ORIGIN_COURSE_HI.addr = true ∧
      hosted.postFree Who.fw = true ∧
        hosted.hostOpen Who.fw Reg.CLK_ORIGIN_COURSE_HI.addr = true ∧
          hosted.mayField Who.fw Reg.CLK_ORIGIN_COURSE_HI.addr Access.rw = true ∧
        hosted.tickEn = false ∧ Reg.CLK_ORIGIN_COURSE_HI.addr ≠ Reg.CLK_COURSE_PERIOD.addr) :=
  ⟨by decide +kernel, by decide +kernel, by decide +kernel, by decide +kernel⟩

theorem wit_ArmAndDisarm_a :
    (3 < 12 ∧
      armable.postFree Who.fw = true ∧
        armable.hostOpen Who.fw (Reg.SEQ_COURSE_CTRL.addr 3) = true ∧
          armable.mayField Who.fw (Reg.SEQ_COURSE_CTRL.addr 3) Access.wo = true ∧
        armable.leadOf 3 = 3 ∧
        armable.spanBlocked 3 = false ∧
        armable.armRefused 3 = false ∧ armable.headerAt 3 (armable.get (Reg.SEQ_ENTRY.ENTRY 3)) = some header3)
    ∧ (3 < 12 ∧
      ticks.postFree Who.fw = true ∧
        ticks.hostOpen Who.fw (Reg.SEQ_COURSE_CTRL.addr 3) = true ∧
          ticks.mayField Who.fw (Reg.SEQ_COURSE_CTRL.addr 3) Access.wo = true ∧
        ticks.leadOf 3 = 3 ∧ ticks.spanBlocked 3 = false ∧ ticks.armRefused 3 = true)
    ∧ (3 < 12 ∧
      armable12.postFree Who.fw = true ∧
        armable12.hostOpen Who.fw (Reg.SEQ_COURSE_CTRL.addr 3) = true ∧
          armable12.mayField Who.fw (Reg.SEQ_COURSE_CTRL.addr 3) Access.wo = true ∧
        armable12.leadOf 3 = 3 ∧
        armable12.spanBlocked 3 = false ∧
        armable12.armRefused 3 = false ∧ armable12.headerAt 3 (armable12.get (Reg.SEQ_ENTRY.ENTRY 3)) = none)
    ∧ (3 < 12 ∧
      spanning.postFree Who.fw = true ∧
        spanning.hostOpen Who.fw (Reg.SEQ_COURSE_CTRL.addr 3) = true ∧
          spanning.mayField Who.fw (Reg.SEQ_COURSE_CTRL.addr 3) Access.wo = true ∧
        spanning.leadOf 3 = 3 ∧ spanning.spanBlocked 3 = true)
    ∧ (3 < 12 ∧
      armed3.postFree Who.fw = true ∧
        armed3.hostOpen Who.fw (Reg.SEQ_COURSE_CTRL.addr 3) = true ∧
          armed3.mayField Who.fw (Reg.SEQ_COURSE_CTRL.addr 3) Access.wo = true ∧ armed3.leadOf 3 = 3)
    ∧ (3 < 12 ∧
      both3.postFree Who.fw = true ∧
        both3.hostOpen Who.fw (Reg.SEQ_COURSE_CTRL.addr 3) = true ∧
          both3.mayField Who.fw (Reg.SEQ_COURSE_CTRL.addr 3) Access.wo = true ∧ both3.leadOf 3 = 3 ∧ both3.armed 3 = true) :=
  ⟨by decide +kernel, by decide +kernel, by decide +kernel, by decide +kernel, by decide +kernel, by decide +kernel⟩

theorem wit_ArmAndDisarm_b :
    (3 < 12 ∧
      ticks.postFree Who.fw = true ∧
        ticks.hostOpen Who.fw (Reg.SEQ_COURSE_CTRL.addr 3) = true ∧
          ticks.mayField Who.fw (Reg.SEQ_COURSE_CTRL.addr 3) Access.wo = true ∧ ticks.leadOf 3 = 3 ∧ ticks.armed 3 = false) :=
  by decide +kernel

theorem wit_CourseStartsAndRetires :
    (3 < 12 ∧
      (launching.dom 3).launch = some (904, 1, 900) ∧
        launching.armed 3 = true ∧
          launching.running 3 = false ∧
        launching.halted 3 = false ∧
        launching.boundaryDone 3 = true ∧
        (launching.dom 3).followEntry = false ∧
        launching.headerAt 3 (launching.get (Reg.SEQ_NEXT_ENTRY.ENTRY 3)) = some header3 ∧
        (launching.clk.load = none ∨ launching.tickEn = true))
    ∧ (3 < 12 ∧
      (lateLaunch.dom 3).launch = some (950, 1, 900) ∧
        lateLaunch.armed 3 = true ∧
          lateLaunch.running 3 = false ∧
        lateLaunch.halted 3 = false ∧
        lateLaunch.boundaryDone 3 = true ∧
        (lateLaunch.dom 3).followEntry = false ∧
        lateLaunch.headerAt 3 (lateLaunch.get (Reg.SEQ_NEXT_ENTRY.ENTRY 3)) = some header3 ∧
        (lateLaunch.clk.load = none ∨ lateLaunch.tickEn = true))
    ∧ (retiring.atRest 3 = true ∧
      (retiring.dom 3).endDrained = true ∧
        (retiring.ticking && decide (retiring.nextTick < retiring.glacierOf 3 ((retiring.dom 3).wall + 1))) = false ∧
          (retiring.dom 3).cyc + 1 < 2 ^ 32 ∧ (retiring.clk.load = none ∨ retiring.tickEn = true)) :=
  ⟨by decide +kernel, by decide +kernel, by decide +kernel⟩

theorem wit_FreezesEndAndAreCounted :
    (3 < 12 ∧
      frozen3.frozen 3 = true ∧ frozen3.halted 3 = false ∧ (frozen3.dom 3).resume = some 1158 ∧ frozen3.arrivals 3 1158 = false)
    ∧ (3 < 12 ∧
      frozenOpen.frozen 3 = true ∧
        frozenOpen.halted 3 = false ∧
          (frozenOpen.dom 3).freezeLogged = false ∧
        frozenOpen.get (Reg.SEQ_FREEZE_LIMIT.LIMIT 3) ≠ 0 ∧ (frozenOpen.dom 3).resume = none) :=
  ⟨by decide +kernel, by decide +kernel⟩

theorem wit_WritesWaitForTheBoundaryWindow :
    (((queued 63).avail ((addrPart slicePwr).getD 0) = true ∧
        (queued 63).postFree Who.pf = true ∧
          (Who.pf = Who.fw ∨
        (queued 63).get Reg.MGT_BOOT_STATUS.STAGE = 6 ∧ (queued 63).resetting ((addrPart slicePwr).getD 0) = false)) ∧
      (queued 63).mayField Who.pf slicePwr Access.rw = true ∧
        deferred slicePwr = true ∧
          (queued 63).holdsWrites ((addrPart slicePwr).getD 0) = true ∧
        ((queued 63).pendAt ((addrPart slicePwr).getD 0)).queue.length < 64 ∧
        ((queued 63).pendAt ((addrPart slicePwr).getD 0)).waiting = [])
    ∧ (12 < 576 ∧
      255 < 256 ∧
        7 < 8 ∧
          ((queued 63).avail (partOf 12) = true ∧
        (queued 63).postFree Who.pf = true ∧
        (Who.pf = Who.fw ∨ (queued 63).get Reg.MGT_BOOT_STATUS.STAGE = 6 ∧ (queued 63).resetting (partOf 12) = false)) ∧
        (queued 63).holdsWrites (partOf 12) = true ∧
        ((queued 63).pendAt (partOf 12)).queue.length < 64 ∧
        ((queued 63).pendAt (partOf 12)).waiting = [] ∧
        (queued 63).mayField Who.pf (Reg.TILE_SLICE_PWR.addr (partOf 12) (idxOf 12)) Access.rw = true)
    ∧ (12 < 576 ∧
      255 < 256 ∧
        7 < 8 ∧
          ((queued 63).avail (partOf 12) = true ∧
        (queued 63).postFree Who.fw = true ∧
        (Who.fw = Who.fw ∨ (queued 63).get Reg.MGT_BOOT_STATUS.STAGE = 6 ∧ (queued 63).resetting (partOf 12) = false)) ∧
        (queued 63).holdsWrites (partOf 12) = true ∧
        ((queued 63).pendAt (partOf 12)).queue.length < 64 ∧
        ((queued 63).pendAt (partOf 12)).waiting = [] ∧
        (queued 63).mayField Who.fw (Reg.TILE_GROUT_ROW.addr (partOf 12) (idxOf 12) 255) Access.rw = true)
    ∧ (12 < 576 ∧
      255 < 256 ∧
        7 < 8 ∧
          ((queued 63).avail (partOf 12) = true ∧
        (queued 63).postFree Who.fw = true ∧
        (Who.fw = Who.fw ∨ (queued 63).get Reg.MGT_BOOT_STATUS.STAGE = 6 ∧ (queued 63).resetting (partOf 12) = false)) ∧
        (queued 63).holdsWrites (partOf 12) = true ∧
        ((queued 63).pendAt (partOf 12)).queue.length < 64 ∧
        ((queued 63).pendAt (partOf 12)).waiting = [] ∧
        (queued 63).mayField Who.fw (Reg.TILE_GROUT_BANK.addr (partOf 12) (idxOf 12) 7) Access.rw = true)
    ∧ (((queued 63).avail (partOf 12) = true ∧
        (queued 63).postFree Who.pf = true ∧
          (Who.pf = Who.fw ∨ (queued 63).get Reg.MGT_BOOT_STATUS.STAGE = 6 ∧ (queued 63).resetting (partOf 12) = false)) ∧
      pendAllowed Who.pf (PendWhat.scratch 12 33554368 (bytes 64)) = true ∧
        (bytes 64).length ∈ [4, 8, 16, 32, 64] ∧
          33554368 % (bytes 64).length = 0 ∧
        (queued 63).holdsWrites (partOf 12) = true ∧
        ((queued 63).pendAt (partOf 12)).queue.length < 64 ∧ ((queued 63).pendAt (partOf 12)).waiting = [])
    ∧ (((queued 64).avail (pendPart (PendWhat.commit 3 0 0)) = true ∧
        (queued 64).postFree Who.pf = true ∧
          (Who.pf = Who.fw ∨
        (queued 64).get Reg.MGT_BOOT_STATUS.STAGE = 6 ∧ (queued 64).resetting (pendPart (PendWhat.commit 3 0 0)) = false)) ∧
      pendAllowed Who.pf (PendWhat.commit 3 0 0) = true ∧
        (match PendWhat.commit 3 0 0 with
        | PendWhat.commit _ _ _ => true
        | _ => false) =
        true ∧
          (queued 64).holdsWrites (pendPart (PendWhat.commit 3 0 0)) = true ∧
        64 ≤ ((queued 64).pendAt (pendPart (PendWhat.commit 3 0 0))).queue.length ∧ pendPart (PendWhat.commit 3 0 0) < 12) :=
  ⟨by decide +kernel, by decide +kernel, by decide +kernel, by decide +kernel, by decide +kernel, by decide +kernel⟩

theorem wit_WritesOfAnIdlePartitionApplyAtOnce_a :
    (12 < 576 ∧
      (hosted.avail (partOf 12) = true ∧
          hosted.postFree Who.pf = true ∧
        (Who.pf = Who.fw ∨ hosted.get Reg.MGT_BOOT_STATUS.STAGE = 6 ∧ hosted.resetting (partOf 12) = false)) ∧
        hosted.holdsWrites (partOf 12) = false ∧
          (hosted.pendAt (partOf 12)).queue = [] ∧
        (hosted.pendAt (partOf 12)).waiting = [] ∧
        (hosted.pendAt (partOf 12)).window = 0 ∧
        pendAllowed Who.pf (PendWhat.scratch 12 4194240 (bytes 64)) = true ∧
        (bytes 64).length ∈ [4, 8, 16, 32, 64] ∧
        4194240 % (bytes 64).length = 0 ∧ 4194240 < 2 ^ 25 ∧ hosted.sliceReady 12 (bitsOf 4194240 24 22) = true)
    ∧ (12 < 576 ∧
      (hosted.avail (partOf 12) = true ∧
          hosted.postFree Who.pf = true ∧
        (Who.pf = Who.fw ∨ hosted.get Reg.MGT_BOOT_STATUS.STAGE = 6 ∧ hosted.resetting (partOf 12) = false)) ∧
        hosted.holdsWrites (partOf 12) = false ∧
          (hosted.pendAt (partOf 12)).queue = [] ∧
        (hosted.pendAt (partOf 12)).waiting = [] ∧
        (hosted.pendAt (partOf 12)).window = 0 ∧
        hosted.mayField Who.pf (Reg.TILE_SLICE_PWR.addr (partOf 12) (idxOf 12)) Access.rw = true)
    ∧ (12 < 576 ∧
      (hosted.avail (partOf 12) = true ∧
          hosted.postFree Who.pf = true ∧
        (Who.pf = Who.fw ∨ hosted.get Reg.MGT_BOOT_STATUS.STAGE = 6 ∧ hosted.resetting (partOf 12) = false)) ∧
        hosted.holdsWrites (partOf 12) = false ∧
          (hosted.pendAt (partOf 12)).queue = [] ∧
        (hosted.pendAt (partOf 12)).waiting = [] ∧
        (hosted.pendAt (partOf 12)).window = 0 ∧
        hosted.mayField Who.pf (Reg.TILE_SLICE_PWR.addr (partOf 12) (idxOf 12)) Access.rw = true)
    ∧ (12 < 576 ∧
      (hosted.avail (partOf 12) = true ∧
          hosted.postFree Who.fw = true ∧
        (Who.fw = Who.fw ∨ hosted.get Reg.MGT_BOOT_STATUS.STAGE = 6 ∧ hosted.resetting (partOf 12) = false)) ∧
        hosted.holdsWrites (partOf 12) = false ∧
          (hosted.pendAt (partOf 12)).queue = [] ∧
        (hosted.pendAt (partOf 12)).waiting = [] ∧
        (hosted.pendAt (partOf 12)).window = 0 ∧
        255 < 256 ∧
        hosted.mayField Who.fw (Reg.TILE_GROUT_ROW.addr (partOf 12) (idxOf 12) 255) Access.rw = true ∧
        bitOf (40959#32).toNat 15 = true)
    ∧ (12 < 576 ∧
      (hosted.avail (partOf 12) = true ∧
          hosted.postFree Who.fw = true ∧
        (Who.fw = Who.fw ∨ hosted.get Reg.MGT_BOOT_STATUS.STAGE = 6 ∧ hosted.resetting (partOf 12) = false)) ∧
        hosted.holdsWrites (partOf 12) = false ∧
          (hosted.pendAt (partOf 12)).queue = [] ∧
        (hosted.pendAt (partOf 12)).waiting = [] ∧
        (hosted.pendAt (partOf 12)).window = 0 ∧
        7 < 8 ∧
        hosted.mayField Who.fw (Reg.TILE_GROUT_BANK.addr (partOf 12) (idxOf 12) 7) Access.rw = true ∧
        bitOf (191#32).toNat 7 = true)
    ∧ (12 < 576 ∧
      (hosted.avail (partOf 12) = true ∧
          hosted.postFree Who.fw = true ∧
        (Who.fw = Who.fw ∨ hosted.get Reg.MGT_BOOT_STATUS.STAGE = 6 ∧ hosted.resetting (partOf 12) = false)) ∧
        hosted.holdsWrites (partOf 12) = false ∧
          (hosted.pendAt (partOf 12)).queue = [] ∧
        (hosted.pendAt (partOf 12)).waiting = [] ∧
        (hosted.pendAt (partOf 12)).window = 0 ∧
        7 < 8 ∧
        hosted.mayField Who.fw (Reg.TILE_GROUT_BANK.addr (partOf 12) (idxOf 12) 7) Access.rw = true ∧
        bitOf (63#32).toNat 7 = false) :=
  ⟨by decide +kernel, by decide +kernel, by decide +kernel, by decide +kernel, by decide +kernel, by decide +kernel⟩

theorem wit_WritesOfAnIdlePartitionApplyAtOnce_b :
    (12 < 576 ∧
      (hosted.avail (partOf 12) = true ∧
          hosted.postFree Who.fw = true ∧
        (Who.fw = Who.fw ∨ hosted.get Reg.MGT_BOOT_STATUS.STAGE = 6 ∧ hosted.resetting (partOf 12) = false)) ∧
        hosted.holdsWrites (partOf 12) = false ∧
          (hosted.pendAt (partOf 12)).queue = [] ∧
        (hosted.pendAt (partOf 12)).waiting = [] ∧
        (hosted.pendAt (partOf 12)).window = 0 ∧
        addrPart (Reg.TILE_SEM.addr 3 0 31) = some (partOf 12) ∧
        deferred (Reg.TILE_SEM.addr 3 0 31) = true ∧
        findRow (Reg.TILE_SEM.addr 3 0 31) = some (rowAt (Reg.TILE_SEM.addr 3 0 31)) ∧
        hosted.mayField Who.fw (Reg.TILE_SEM.addr 3 0 31) Access.rw = true ∧
        plainInWindow hosted (partOf 12) (Reg.TILE_SEM.addr 3 0 31) = true)
    ∧ (12 < 576 ∧
      (hosted.avail (partOf 12) = true ∧
          hosted.postFree Who.pf = true ∧
        (Who.pf = Who.fw ∨ hosted.get Reg.MGT_BOOT_STATUS.STAGE = 6 ∧ hosted.resetting (partOf 12) = false)) ∧
        hosted.holdsWrites (partOf 12) = false ∧
          (hosted.pendAt (partOf 12)).queue = [] ∧
        (hosted.pendAt (partOf 12)).waiting = [] ∧
        (hosted.pendAt (partOf 12)).window = 0 ∧
        addrPart (Reg.VEC_CH_RED2.addr 3 31) = some (partOf 12) ∧
        deferred (Reg.VEC_CH_RED2.addr 3 31) = true ∧
        findRow (Reg.VEC_CH_RED2.addr 3 31) = some (rowAt (Reg.VEC_CH_RED2.addr 3 31)) ∧
        hosted.mayField Who.pf (Reg.VEC_CH_RED2.addr 3 31) Access.rw = true ∧
        plainInWindow hosted (partOf 12) (Reg.VEC_CH_RED2.addr 3 31) = true)
    ∧ (12 < 576 ∧
      (hosted.avail (partOf 12) = true ∧
          hosted.postFree Who.pf = true ∧
        (Who.pf = Who.fw ∨ hosted.get Reg.MGT_BOOT_STATUS.STAGE = 6 ∧ hosted.resetting (partOf 12) = false)) ∧
        hosted.holdsWrites (partOf 12) = false ∧
          (hosted.pendAt (partOf 12)).queue = [] ∧
        (hosted.pendAt (partOf 12)).waiting = [] ∧ (hosted.pendAt (partOf 12)).window = 0) :=
  ⟨by decide +kernel, by decide +kernel, by decide +kernel⟩

theorem wit_WindowAppliesAndQueueAdmits_a :
    (3 < 12 ∧ window3.holdsWrites 3 = true)
    ∧ (3 < 12 ∧ windowCommit.holdsWrites 3 = true)
    ∧ (3 < 12 ∧ windowReg.holdsWrites 3 = true)
    ∧ (3 < 12 ∧ (queued 1).holdsWrites 3 = true ∧ ((queued 1).pendAt 3).window = 0)
    ∧ (3 < 12 ∧
      held3.holdsWrites 3 = true ∧
        (held3.pendAt 3).waiting = [heldA, heldB] ∧
          (held3.pendAt 3).queue.length < 64 ∧
        held3.posted = [] ∧ held3.get (Reg.SEQ_PEND_HOLD.COUNTS 3) + (held3.now - heldA.since) < 2 ^ 32)
    ∧ (heldPost.postFree Who.pf = false) :=
  ⟨by decide +kernel, by decide +kernel, by decide +kernel, by decide +kernel, by decide +kernel, by decide +kernel⟩

theorem wit_WindowAppliesAndQueueAdmits_b :
    (heldPost.postFree (Who.vf 3) = false)
    ∧ (heldPost.postFree Who.pf = false) :=
  ⟨by decide +kernel, by decide +kernel⟩

theorem wit_CorniceAccessRegisters :
    (3 < 12 ∧
      cornice3.hostOpen Who.pf (Reg.SEQ_CORNICE_DATA_HI.addr 3) = true ∧
        cornice3.mayField Who.pf (Reg.SEQ_CORNICE_DATA_HI.addr 3) Access.rw = true ∧
          (cornice3.avail 3 = true ∧
        cornice3.postFree Who.pf = true ∧
        (Who.pf = Who.fw ∨ cornice3.get Reg.MGT_BOOT_STATUS.STAGE = 6 ∧ cornice3.resetting 3 = false)) ∧
        pendAllowed Who.pf
        (PendWhat.commit 3 (cornice3.get (Reg.SEQ_CORNICE_ADDR.LOCAL_IA 3))
        (4660#32 ++ cornice3.rw (Reg.SEQ_CORNICE_DATA_LO.addr 3))) =
        true ∧
        cornice3.holdsWrites 3 = false ∧
        (cornice3.pendAt 3).queue = [] ∧
        (cornice3.pendAt 3).waiting = [] ∧
        (cornice3.pendAt 3).window = 0 ∧
        cornice3.get (Reg.SEQ_CORNICE_ADDR.LOCAL_IA 3) < 6144 ∧
        ¬(cornice3.get (Reg.SEQ_BANK.RESIDENT 3 (cornice3.get (Reg.SEQ_CORNICE_ADDR.LOCAL_IA 3) / 512)) = 1 ∧
        cornice3.partSealed 3 = true))
    ∧ (3 < 12 ∧
      cornice3.hostOpen Who.fw (Reg.SEQ_CORNICE_DATA_HI.addr 3) = true ∧
        cornice3.mayField Who.fw (Reg.SEQ_CORNICE_DATA_HI.addr 3) Access.rw = true ∧
          (cornice3.avail 3 = true ∧
        cornice3.postFree Who.fw = true ∧
        (Who.fw = Who.fw ∨ cornice3.get Reg.MGT_BOOT_STATUS.STAGE = 6 ∧ cornice3.resetting 3 = false)) ∧
        pendAllowed Who.fw
        (PendWhat.commit 3 (cornice3.get (Reg.SEQ_CORNICE_ADDR.LOCAL_IA 3))
        (4660#32 ++ cornice3.rw (Reg.SEQ_CORNICE_DATA_LO.addr 3))) =
        true ∧
        cornice3.holdsWrites 3 = false ∧
        (cornice3.pendAt 3).queue = [] ∧
        (cornice3.pendAt 3).waiting = [] ∧
        (cornice3.pendAt 3).window = 0 ∧
        cornice3.get (Reg.SEQ_CORNICE_ADDR.LOCAL_IA 3) < 6144 ∧
        ¬(cornice3.get (Reg.SEQ_BANK.RESIDENT 3 (cornice3.get (Reg.SEQ_CORNICE_ADDR.LOCAL_IA 3) / 512)) = 1 ∧
        cornice3.partSealed 3 = true))
    ∧ (3 < 12 ∧
      cornice3.mayRead Who.pf (Reg.SEQ_CORNICE_DATA_LO.addr 3) = true ∧ cornice3.get (Reg.SEQ_CORNICE_ADDR.LOCAL_IA 3) < 6144)
    ∧ (3 < 12 ∧
      cornice3.mayRead Who.pf (Reg.SEQ_CORNICE_DATA_HI.addr 3) = true ∧ cornice3.get (Reg.SEQ_CORNICE_ADDR.LOCAL_IA 3) < 6144)
    ∧ (3 < 12 ∧
      cornicePast.mayRead Who.pf (Reg.SEQ_CORNICE_DATA_HI.addr 3) = true ∧
        6144 ≤ cornicePast.get (Reg.SEQ_CORNICE_ADDR.LOCAL_IA 3)) :=
  ⟨by decide +kernel, by decide +kernel, by decide +kernel, by decide +kernel, by decide +kernel⟩

theorem wit_DomainResetEmptiesTheSequencer :
    (3 < 12 ∧
      hosted.postFree Who.pf = true ∧
        hosted.hostOpen Who.pf (Reg.SEQ_CTRL.addr 3) = true ∧
          hosted.mayField Who.pf (Reg.SEQ_CTRL.addr 3) Access.wo = true ∧
        hosted.leadOf 3 = 3 ∧ hosted.armed 3 = false ∧ hosted.running 3 = false)
    ∧ (3 < 12 ∧
      armed3.postFree Who.pf = true ∧
        armed3.hostOpen Who.pf (Reg.SEQ_CTRL.addr 3) = true ∧
          armed3.mayField Who.pf (Reg.SEQ_CTRL.addr 3) Access.wo = true ∧ (armed3.leadOf 3 ≠ 3 ∨ armed3.armed 3 = true))
    ∧ (3 < 12 ∧
      running3.postFree Who.pf = true ∧
        running3.hostOpen Who.pf (Reg.SEQ_CTRL.addr 3) = true ∧
          running3.mayField Who.pf (Reg.SEQ_CTRL.addr 3) Access.wo = true ∧
        running3.leadOf 3 = 3 ∧ running3.armed 3 = false ∧ running3.running 3 = true ∧ (running3.dom 3).undef = false)
    ∧ (3 < 12 ∧
      undefined3.postFree Who.pf = true ∧
        undefined3.hostOpen Who.pf (Reg.SEQ_CTRL.addr 3) = true ∧
          undefined3.mayField Who.pf (Reg.SEQ_CTRL.addr 3) Access.wo = true ∧
        undefined3.leadOf 3 = 3 ∧ undefined3.armed 3 = false ∧ undefined3.running 3 = true ∧ (undefined3.dom 3).undef = true) :=
  ⟨by decide +kernel, by decide +kernel, by decide +kernel, by decide +kernel⟩

theorem wit_ReadsClearAndLatch_a :
    ((Instr.readToClear Who.pf (Reg.SEQ_LATE_COUNT.addr 3) = Instr.readToClear Who.pf (Reg.SEQ_LATE_COUNT.addr 3) ∨
        Instr.readToClear Who.pf (Reg.SEQ_LATE_COUNT.addr 3) = Instr.loLatchRead Who.pf (Reg.SEQ_LATE_COUNT.addr 3)) ∧
      lateCount.mayRead Who.pf (Reg.SEQ_LATE_COUNT.addr 3) = true ∧
        ownRead (Reg.SEQ_LATE_COUNT.addr 3) = false ∧
          mapGet? lateCount.latches (lateCount.aliasOf (Reg.SEQ_LATE_COUNT.addr 3)) = none)
    ∧ ((Instr.loLatchRead Who.pf Reg.CLK_GLACIER_LO.addr = Instr.readToClear Who.pf Reg.CLK_GLACIER_LO.addr ∨
        Instr.loLatchRead Who.pf Reg.CLK_GLACIER_LO.addr = Instr.loLatchRead Who.pf Reg.CLK_GLACIER_LO.addr) ∧
      ticks.mayRead Who.pf Reg.CLK_GLACIER_LO.addr = true ∧
        ownRead Reg.CLK_GLACIER_LO.addr = false ∧ mapGet? ticks.latches (ticks.aliasOf Reg.CLK_GLACIER_LO.addr) = none)
    ∧ ((Instr.loLatchRead Who.pf Reg.CLK_GLACIER_HI.addr = Instr.readToClear Who.pf Reg.CLK_GLACIER_HI.addr ∨
        Instr.loLatchRead Who.pf Reg.CLK_GLACIER_HI.addr = Instr.loLatchRead Who.pf Reg.CLK_GLACIER_HI.addr) ∧
      latched.mayRead Who.pf Reg.CLK_GLACIER_HI.addr = true ∧
        ownRead Reg.CLK_GLACIER_HI.addr = false ∧ mapGet? latched.latches (latched.aliasOf Reg.CLK_GLACIER_HI.addr) = some 5#32)
    ∧ ((Instr.readToClear Who.pf (Reg.SEQ_CORNICE_DATA_LO.addr 3) = Instr.readToClear Who.pf (Reg.SEQ_CORNICE_DATA_LO.addr 3) ∨
        Instr.readToClear Who.pf (Reg.SEQ_CORNICE_DATA_LO.addr 3) = Instr.loLatchRead Who.pf (Reg.SEQ_CORNICE_DATA_LO.addr 3)) ∧
      3 < 12 ∧
        hosted.mayRead Who.pf (Reg.SEQ_CORNICE_DATA_LO.addr 3) = true ∧
          Reg.SEQ_CORNICE_DATA_LO.addr 3 = Reg.SEQ_CORNICE_DATA_LO.addr 3)
    ∧ ((Instr.loLatchRead Who.pf (Reg.SEQ_CORNICE_DATA_HI.addr 3) = Instr.readToClear Who.pf (Reg.SEQ_CORNICE_DATA_HI.addr 3) ∨
        Instr.loLatchRead Who.pf (Reg.SEQ_CORNICE_DATA_HI.addr 3) = Instr.loLatchRead Who.pf (Reg.SEQ_CORNICE_DATA_HI.addr 3)) ∧
      3 < 12 ∧
        hosted.mayRead Who.pf (Reg.SEQ_CORNICE_DATA_HI.addr 3) = true ∧
          Reg.SEQ_CORNICE_DATA_HI.addr 3 = Reg.SEQ_CORNICE_DATA_HI.addr 3)
    ∧ ((Instr.readToClear Who.pf (Reg.ETH_PTP_TS_HI.addr 1) = Instr.readToClear Who.pf (Reg.ETH_PTP_TS_HI.addr 1) ∨
        Instr.readToClear Who.pf (Reg.ETH_PTP_TS_HI.addr 1) = Instr.loLatchRead Who.pf (Reg.ETH_PTP_TS_HI.addr 1)) ∧
      1 < 2 ∧ (stamps 1).mayRead Who.pf (Reg.ETH_PTP_TS_HI.addr 1) = true ∧ Reg.ETH_PTP_TS_HI.addr 1 = Reg.ETH_PTP_TS_HI.addr 1) :=
  ⟨by decide +kernel, by decide +kernel, by decide +kernel, by decide +kernel, by decide +kernel, by decide +kernel⟩

theorem wit_ReadsClearAndLatch_b :
    ((Instr.readToClear (Who.vf 2) (Reg.SEQ_LATE_COUNT.addr 3) = Instr.readToClear (Who.vf 2) (Reg.SEQ_LATE_COUNT.addr 3) ∨
        Instr.readToClear (Who.vf 2) (Reg.SEQ_LATE_COUNT.addr 3) = Instr.loLatchRead (Who.vf 2) (Reg.SEQ_LATE_COUNT.addr 3)) ∧
      hosted.mayRead (Who.vf 2) (Reg.SEQ_LATE_COUNT.addr 3) = false)
    ∧ ((Instr.readToClear Who.pf (Reg.SEQ_LATE_COUNT.addr 3) = Instr.readToClear Who.pf (Reg.SEQ_LATE_COUNT.addr 3) ∨
        Instr.readToClear Who.pf (Reg.SEQ_LATE_COUNT.addr 3) = Instr.loLatchRead Who.pf (Reg.SEQ_LATE_COUNT.addr 3)) ∧
      3 < 12 ∧ Reg.SEQ_LATE_COUNT.addr 3 = Reg.SEQ_LATE_COUNT.addr 3 ∧ hosted.leadOf 3 = 3)
    ∧ ((Instr.loLatchRead Who.pf Reg.CLK_GLACIER_LO.addr = Instr.readToClear Who.pf Reg.CLK_GLACIER_LO.addr ∨
        Instr.loLatchRead Who.pf Reg.CLK_GLACIER_LO.addr = Instr.loLatchRead Who.pf Reg.CLK_GLACIER_LO.addr) ∧
      Reg.CLK_GLACIER_LO.addr = Reg.CLK_GLACIER_LO.addr) :=
  ⟨by decide +kernel, by decide +kernel, by decide +kernel⟩

theorem wit_RegisterWritesGoByAccessCode_a :
    (hosted.postFree Who.pf = true ∧
      plainReg (Reg.SEQ_FREEZE_LIMIT.addr 3) = true ∧
        findRow (Reg.SEQ_FREEZE_LIMIT.addr 3) = some (rowAt (Reg.SEQ_FREEZE_LIMIT.addr 3)) ∧
          hosted.hostOpen Who.pf (Reg.SEQ_FREEZE_LIMIT.addr 3) = true ∧
        hosted.writeDenied Who.pf (Reg.SEQ_FREEZE_LIMIT.addr 3) = false ∧
        (Who.pf = Who.fw ∧ hosted.sealedAt (Reg.SEQ_FREEZE_LIMIT.addr 3) = false ∨
        hosted.writesRws (Reg.SEQ_FREEZE_LIMIT.addr 3) 4294967295#32 = false))
    ∧ (hosted.postFree Who.fw = true ∧
      plainReg Reg.DBG_CTRL.addr = true ∧
        findRow Reg.DBG_CTRL.addr = some (rowAt Reg.DBG_CTRL.addr) ∧
          hosted.hostOpen Who.fw Reg.DBG_CTRL.addr = true ∧
        hosted.writeDenied Who.fw Reg.DBG_CTRL.addr = false ∧
        (Who.fw = Who.fw ∧ hosted.sealedAt Reg.DBG_CTRL.addr = false ∨
        hosted.writesRws Reg.DBG_CTRL.addr 4294967295#32 = false))
    ∧ (3 < 12 ∧
      hosted.postFree Who.pf = true ∧
        hosted.hostOpen Who.pf (Reg.SEQ_FREEZE_LIMIT.addr 3) = true ∧
          hosted.mayField Who.pf (Reg.SEQ_FREEZE_LIMIT.addr 3) Access.rw = true)
    ∧ (3 < 12 ∧
      overrun3.postFree Who.pf = true ∧
        overrun3.hostOpen Who.pf (Reg.SEQ_COURSE_STATUS.addr 3) = true ∧
          overrun3.mayField Who.pf (Reg.SEQ_COURSE_STATUS.addr 3) Access.w1c = true)
    ∧ (3 < 12 ∧
      overrun3.postFree Who.pf = true ∧
        overrun3.hostOpen Who.pf (Reg.SEQ_COURSE_STATUS.addr 3) = true ∧
          overrun3.mayField Who.pf (Reg.SEQ_COURSE_STATUS.addr 3) Access.w1c = true)
    ∧ (3 < 12 ∧
      hosted.postFree Who.pf = true ∧
        hosted.hostOpen Who.pf (Reg.ARR_CTRL.addr 3) = true ∧ hosted.get Reg.MGT_HOST_DENIED.COUNT + 1 < 2 ^ 32) :=
  ⟨by decide +kernel, by decide +kernel, by decide +kernel, by decide +kernel, by decide +kernel, by decide +kernel⟩

theorem wit_RegisterWritesGoByAccessCode_b :
    (3 < 12 ∧ hosted.hostOpen Who.fw (Reg.ARR_CTRL.addr 3) = true)
    ∧ (3 < 12 ∧ armable.hostOpen Who.fw (Reg.ARR_CTRL.addr 3) = true)
    ∧ (3 < 12 ∧ noPart3.postFree Who.fw = true ∧ noPart3.avail 3 = false) :=
  ⟨by decide +kernel, by decide +kernel, by decide +kernel⟩

theorem wit_DataWindows_a :
    (window0.target Who.pf 0 4194240 = Target.scratch 12 4194240 ∧
      window0.windowOpen Who.pf = true ∧
        0 < 64 ∧
          4194240 % 64 + 64 ≤ 64 ∧
        4194240 + 64 ≤ 4194304 ∧
        notOwn Who.pf 12 = false ∧
        window0.partAnswers Who.pf 12 = true ∧
        window0.sliceReady 12 (bitsOf 4194240 24 22) = true ∧ window0.bulk.upset = [])
    ∧ (windowResetting.target Who.pf 0 4194240 = Target.scratch 12 4194240 ∧
      windowResetting.windowOpen Who.pf = true ∧
        0 < 64 ∧
          4194240 % 64 + 64 ≤ 64 ∧
        4194240 + 64 ≤ 4194304 ∧
        notOwn Who.pf 12 = false ∧
        (windowResetting.partAnswers Who.pf 12 = false ∨ windowResetting.sliceReady 12 (bitsOf 4194240 24 22) = false))
    ∧ (windowUnready.target Who.pf 0 4194240 = Target.scratch 12 4194240 ∧
      windowUnready.windowOpen Who.pf = true ∧
        0 < 64 ∧
          4194240 % 64 + 64 ≤ 64 ∧
        4194240 + 64 ≤ 4194304 ∧
        notOwn Who.pf 12 = false ∧
        (windowUnready.partAnswers Who.pf 12 = false ∨ windowUnready.sliceReady 12 (bitsOf 4194240 24 22) = false))
    ∧ (windowFar.target (Who.vf 2) 0 4194240 = Target.scratch 12 4194240 ∧
      windowFar.windowOpen (Who.vf 2) = true ∧
        0 < 64 ∧ 4194240 % 64 + 64 ≤ 64 ∧ 4194240 + 64 ≤ 4194304 ∧ notOwn (Who.vf 2) 12 = true)
    ∧ (window0.target Who.pf 7 4194240 = Target.nothing ∧ 0 < 64 ∧ 4194240 % 64 + 64 ≤ 64 ∧ 4194240 + 64 ≤ 4194304)
    ∧ (windowArmed.target Who.pf 0 4194240 = Target.scratch 12 4194240 ∧
      (windowArmed.avail (partOf 12) = true ∧
          windowArmed.postFree Who.pf = true ∧
        (Who.pf = Who.fw ∨ windowArmed.get Reg.MGT_BOOT_STATUS.STAGE = 6 ∧ windowArmed.resetting (partOf 12) = false)) ∧
        12 < 576 ∧
          windowArmed.windowOpen Who.pf = true ∧
        notOwn Who.pf 12 = false ∧
        (bytes 64).length ∈ [4, 8, 16, 32, 64] ∧
        4194240 % (bytes 64).length = 0 ∧
        4194240 % (bytes 64).length = 0 ∧
        4194240 + (bytes 64).length ≤ 4194304 ∧
        windowArmed.holdsWrites (partOf 12) = true ∧
        (windowArmed.pendAt (partOf 12)).queue.length < 64 ∧ (windowArmed.pendAt (partOf 12)).waiting = []) :=
  ⟨by decide +kernel, by decide +kernel, by decide +kernel, by decide +kernel, by decide +kernel, by decide +kernel⟩

theorem wit_DataWindows_b :
    (window0.target Who.pf 0 4194240 = Target.scratch 12 4194240 ∧
      (window0.avail (partOf 12) = true ∧
          window0.postFree Who.pf = true ∧
        (Who.pf = Who.fw ∨ window0.get Reg.MGT_BOOT_STATUS.STAGE = 6 ∧ window0.resetting (partOf 12) = false)) ∧
        12 < 576 ∧
          window0.windowOpen Who.pf = true ∧
        notOwn Who.pf 12 = false ∧
        (bytes 64).length ∈ [4, 8, 16, 32, 64] ∧
        4194240 % (bytes 64).length = 0 ∧
        4194240 % (bytes 64).length = 0 ∧
        4194240 + (bytes 64).length ≤ 4194304 ∧
        window0.holdsWrites (partOf 12) = false ∧
        (window0.pendAt (partOf 12)).queue = [] ∧
        (window0.pendAt (partOf 12)).waiting = [] ∧
        4194240 < 2 ^ 25 ∧ window0.sliceReady 12 (bitsOf 4194240 24 22) = true)
    ∧ (windowFar.postFree (Who.vf 2) = true ∧
      windowFar.target (Who.vf 2) 0 4194240 = Target.scratch 12 4194240 ∧
        windowFar.windowOpen (Who.vf 2) = true ∧
          bytes 64 ≠ [] ∧
        4194240 % 64 + (bytes 64).length ≤ 64 ∧ 4194240 + (bytes 64).length ≤ 4194304 ∧ notOwn (Who.vf 2) 12 = true)
    ∧ (windowFar.postFree Who.pf = true ∧
      windowFar.target Who.pf 2 4194240 = Target.scratch 576 4194240 ∧
        windowFar.windowOpen Who.pf = true ∧
          bytes 64 ≠ [] ∧
        4194240 % 64 + (bytes 64).length ≤ 64 ∧
        4194240 + (bytes 64).length ≤ 4194304 ∧ notOwn Who.pf 576 = false ∧ 576 ≤ 576)
    ∧ (window0.postFree Who.pf = true ∧
      window0.target Who.pf 7 0 = Target.nothing ∧
        bytes 1 ≠ [] ∧ 0 % 64 + (bytes 1).length ≤ 64 ∧ 0 + (bytes 1).length ≤ 4194304)
    ∧ (windowMor.postFree Who.pf = true ∧
      windowMor.target Who.pf 1 7 = Target.moraine 7 ∧
        windowMor.windowOpen Who.pf = true ∧
          windowMor.morWritable Who.pf (7 / 512) = (true, false) ∧
        bytes 57 ≠ [] ∧ 7 % 64 + (bytes 57).length ≤ 64 ∧ 7 + (bytes 57).length ≤ 4194304) :=
  ⟨by decide +kernel, by decide +kernel, by decide +kernel, by decide +kernel, by decide +kernel⟩

theorem wit_GranulesLand :
    (12 < 576 ∧
      0 < 8 ∧
        (landing 0).nextGran 12 0 = some (granule 0) ∧
          (landing 0).canLand (granule 0) 1033 = true ∧
        (landing 0).get Reg.TILE_MESH_CE_COUNT.COUNT + 3 < 2 ^ 32 ∧
        (landing 0).resetting (partOf 12) = false ∧
        (landing 0).sliceReady 12 0 = true ∧
        (granule 0).addr % 64 = 0 ∧
        (granule 0).addr < 2 ^ 25 ∧ (granule 0).data.length = 64 ∧ (granule 0).src ≠ LandSrc.serving)
    ∧ (12 < 576 ∧
      0 < 8 ∧
        landIdle.nextGran 12 0 = some (granule 0) ∧
          landIdle.canLand (granule 0) 0 = true ∧
        landIdle.get Reg.TILE_MESH_CE_COUNT.COUNT + 0 < 2 ^ 32 ∧
        landIdle.resetting (partOf 12) = false ∧
        landIdle.sliceReady 12 0 = true ∧
        (granule 0).addr % 64 = 0 ∧
        (granule 0).addr < 2 ^ 25 ∧ (granule 0).data.length = 64 ∧ (granule 0).src ≠ LandSrc.serving)
    ∧ (12 < 576 ∧
      0 < 8 ∧
        landOver.nextGran 12 0 = some (granule 0) ∧
          landOver.canLand (granule 0) 1033 = true ∧
        landOver.get Reg.TILE_MESH_CE_COUNT.COUNT + 0 < 2 ^ 32 ∧
        landOver.resetting (partOf 12) = false ∧
        landOver.sliceReady 12 0 = true ∧
        (granule 0).addr % 64 = 0 ∧
        (granule 0).addr < 2 ^ 25 ∧ (granule 0).data.length = 64 ∧ (granule 0).src ≠ LandSrc.serving)
    ∧ (12 < 576 ∧
      7 < 8 ∧
        (landing 7).nextGran 12 7 = some (granule 7) ∧
          (landing 7).canLand (granule 7) 1033 = true ∧
        (landing 7).get Reg.TILE_MESH_CE_COUNT.COUNT + 0 < 2 ^ 32 ∧
        (landing 7).resetting (partOf 12) = false ∧
        (landing 7).sliceReady 12 7 = false ∧
        (landing 7).halted ((landing 7).domOf 12) = false ∧ (landing 7).domOf 12 < 12) :=
  ⟨by decide +kernel, by decide +kernel, by decide +kernel, by decide +kernel⟩

theorem wit_ScrubPowerAndGrout :
    (12 < 576 ∧
      0 < 8 ∧
        8191 < 8192 ∧
          63 < 64 ∧
        scrubbing.sliceReady 12 0 = true ∧
        scrubbing.get (Reg.TILE_SCRUB_CTRL.EN (partOf 12) (idxOf 12)) = 1 ∧
        scrubbing.bulk.upset = [] ∧
        scrubbing.scrubNext 12 = some (0, 8191) ∧
        scrubbing.scrubFree 12 0 1034 = true ∧
        (scrubbing.clk.load = none ∨ scrubbing.tickEn = true) ∧
        scrubbing.get (Reg.TILE_ECC_CE_COUNT.COUNT (partOf 12) (idxOf 12)) + 1 < 2 ^ 32)
    ∧ (12 < 576 ∧
      0 < 8 ∧
        8191 < 8192 ∧
          63 < 64 ∧
        scrubbing.sliceReady 12 0 = true ∧
        scrubbing.get (Reg.TILE_SCRUB_CTRL.EN (partOf 12) (idxOf 12)) = 1 ∧
        scrubbing.bulk.upset = [] ∧ scrubbing.scrubNext 12 = some (0, 8191) ∧ scrubbing.scrubFree 12 0 1034 = true)
    ∧ (12 < 576 ∧
      7 < 8 ∧
        bitOf (powering.get (Reg.TILE_SLICE_PWR.PWR_EN (partOf 12) (idxOf 12))) 7 = true ∧ powering.sliceReady 12 7 = false)
    ∧ (12 < 576 ∧ 7 < 8 ∧ copying.mgmt.groutCopy = [(12, 7, 133#32)])
    ∧ (12 < 576 ∧
      0 < 8 ∧
        worn.mgmt.boluk = true ∧
          worn.mgmt.policy.regrout ≠ 0 ∧
        worn.mgmt.regrouts = [] ∧
        worn.mgmt.eventsWaiting = [(12, 0)] ∧ worn.wornEntry 12 0 = some 0 ∧ worn.freeSpare 12 0 = some 0) :=
  ⟨by decide +kernel, by decide +kernel, by decide +kernel, by decide +kernel, by decide +kernel⟩

theorem wit_MessagesArrive :
    (sempMsg.fab.semps[0]? = some post ∧
      post.ready ≤ 1024 ∧
        sempMsg.turn (sempMsg.domOf post.ash) (1024 - 1) = true ∧
          post.ash < 576 ∧
        post.sem < 32 ∧
        sempMsg.get (Reg.TILE_SEM.VALUE (partOf post.ash) (idxOf post.ash) post.sem) + post.inc +
        sempMsg.takenIn false (post.ash * 64 + post.sem) 1024 ≤
        255 ∧
        nextSem (sempMsg.dom (sempMsg.domOf post.ash)).frz post.ash post.sem
        (sempMsg.get (Reg.TILE_SEM.VALUE (partOf post.ash) (idxOf post.ash) post.sem) + post.inc) =
        none)
    ∧ (getting.fab.gets[0]? = some getReq ∧
      getReq.ready ≤ 0 ∧
        getReq.fits = true ∧
          getting.turn (getting.domOf getReq.ash) 0 = true ∧
        getting.resetting (partOf getReq.ash) = false ∧
        getting.readFault getReq.ash getReq.addr (64 * getReq.grans) = none ∧
        getReq.replyMod = getting.moduleId ∧
        getting.fab.held = [] ∧
        getting.fab.land.length + getReq.grans ≤ 32 ∧
        getReq.got = [] ∧
        getReq.grans ≤ 8 ∧
        getting.accesses getReq.ash (bitsOf getReq.addr 24 22) 0 = [] ∧
        loggedAt getting.fab.readLog getReq.ash (bitsOf getReq.addr 24 22) 0 = [] ∧
        loggedAt getting.fab.landLog getReq.ash (bitsOf getReq.addr 24 22) 0 = [] ∧
        (getting.dom (getting.domOf getReq.ash)).under = [])
    ∧ (getReady.fab.gets[0]? = some gotten ∧
      gotten.ready ≤ 0 ∧
        gotten.fits = true ∧
          getReady.turn (getReady.domOf gotten.ash) 0 = true ∧
        getReady.resetting (partOf gotten.ash) = false ∧
        getReady.readFault gotten.ash gotten.addr (64 * gotten.grans) = none ∧
        gotten.replyMod = getReady.moduleId ∧
        getReady.fab.held = [] ∧
        getReady.fab.land.length + gotten.grans ≤ 32 ∧
        gotten.grans ≤ gotten.got.length ∧ gotten.bytes.length = 64 * gotten.grans)
    ∧ (getWaits.fab.gets[0]? = some getReq ∧
      getReq.ready ≤ 1033 ∧
        getReq.fits = true ∧
          getWaits.turn (getWaits.domOf getReq.ash) 1033 = true ∧
        getWaits.resetting (partOf getReq.ash) = false ∧
        getWaits.readFault getReq.ash getReq.addr (64 * getReq.grans) = none ∧
        getReq.replyMod = getWaits.moduleId ∧
        getWaits.fab.held = [] ∧
        getWaits.fab.land.length + getReq.grans ≤ 32 ∧
        getWaits.running (getWaits.domOf getReq.ash) = true ∧
        getWaits.halted (getWaits.domOf getReq.ash) = false ∧
        (getWaits.dom (getWaits.domOf getReq.ash)).undef = false ∧
        getWaits.frozen (getWaits.domOf getReq.ash) = false ∧
        (getWaits.dom (getWaits.domOf getReq.ash)).wall = 1033 + 1 ∧
        getReq.got.length < getReq.grans ∧
        ∀ (n : Nat),
        n < getReq.grans → getWaits.readFree getReq.ash (getReq.addr + 64 * n) 1033 = false)
    ∧ ((completing 0).fab.compl[0]? = some (compl 0) ∧
      (compl 0).ready ≤ 1023 ∧
        (compl 0).ash < 576 ∧
          (completing 0).turn ((completing 0).domOf (compl 0).ash) 1023 = true ∧
        (completing 0).servedBy (compl 0) = none ∧
        (completing 0).domOf (compl 0).ash < 12 ∧
        (∀ (e : OutEnt),
        e ∈ (completing 0).fab.ents → e.ash = (compl 0).ash → e.idx = (compl 0).entry → e.stk = false) ∧
        ((completing 0).fab.ents.any fun e => decide (e.ash = (compl 0).ash) && decide (e.idx = (compl 0).entry)) =
        true)
    ∧ ((completing 1).fab.compl[0]? = some (compl 1) ∧
      (compl 1).ready ≤ 1023 ∧
        (compl 1).ash < 576 ∧
          (completing 1).turn ((completing 1).domOf (compl 1).ash) 1023 = true ∧
        (completing 1).servedBy (compl 1) = none ∧
        (completing 1).domOf (compl 1).ash < 12 ∧
        (∀ (e : OutEnt),
        e ∈ (completing 1).fab.ents → e.ash = (compl 1).ash → e.idx = (compl 1).entry → e.stk = false) ∧
        ((completing 1).fab.ents.any fun e => decide (e.ash = (compl 1).ash) && decide (e.idx = (compl 1).entry)) =
        true) :=
  ⟨by decide +kernel, by decide +kernel, by decide +kernel, by decide +kernel, by decide +kernel, by decide +kernel⟩

theorem wit_StreamsOfTheMoraine :
    ((streaming false).fab.stks[0]? = some (stk false) ∧
      (stk false).started = true ∧
        (stk false).ent.isSome = true ∧
          1 ∈ (stk false).left ∧
        (streaming false).rowHeld (stk false) ((stk false).mor + 1) = false ∧
        (streaming false).inShadow ((stk false).mor + 1) 1 = false ∧
        (streaming false).turn ((streaming false).domOf (stk false).ash) 0 = true ∧
        (stk false).ash < 576 ∧
        (stk false).addr % 512 = 0 ∧
        (stk false).addr + 512 * 1 < 2 ^ 25 ∧
        (stk false).cairn < 64 ∧
        (streaming false).get
        (Reg.TILE_CAIRN.VALUE (partOf (stk false).ash) (idxOf (stk false).ash) (stk false).cairn) +
        8 +
        (streaming false).takenIn true ((stk false).ash * 64 + (stk false).cairn) (0 + 1) ≤
        16777215 ∧
        nextCairn ((streaming false).dom ((streaming false).domOf (stk false).ash)).frz (stk false).ash
        (stk false).cairn
        ((streaming false).get
        (Reg.TILE_CAIRN.VALUE (partOf (stk false).ash) (idxOf (stk false).ash)
        (stk false).cairn) +
        8) =
        none ∧
        (streaming false).sliceReady (stk false).ash (bitsOf ((stk false).addr + 512 * 1) 24 22) = true ∧
        (stk false).dir = false ∧
        (streaming false).rowBad ((stk false).mor + 1) = false ∧
        (streaming false).rowWaits (stk false) 1 ((stk false).addr + 512 * 1) 0 = false ∧
        (stk false).part = [] ∧
        ((streaming false).rowGrans (stk false) 1 ((stk false).addr + 512 * 1) 0).length = 8)
    ∧ (streamingPart.fab.stks[0]? = some (stk false) ∧
      (stk false).started = true ∧
        (stk false).ent.isSome = true ∧
          1 ∈ (stk false).left ∧
        streamingPart.rowHeld (stk false) ((stk false).mor + 1) = false ∧
        streamingPart.inShadow ((stk false).mor + 1) 1 = false ∧
        streamingPart.turn (streamingPart.domOf (stk false).ash) 0 = true ∧
        (stk false).ash < 576 ∧
        (stk false).addr % 512 = 0 ∧
        (stk false).addr + 512 * 1 < 2 ^ 25 ∧
        (stk false).cairn < 64 ∧
        streamingPart.get
        (Reg.TILE_CAIRN.VALUE (partOf (stk false).ash) (idxOf (stk false).ash) (stk false).cairn) +
        8 +
        streamingPart.takenIn true ((stk false).ash * 64 + (stk false).cairn) (0 + 1) ≤
        16777215 ∧
        nextCairn (streamingPart.dom (streamingPart.domOf (stk false).ash)).frz (stk false).ash
        (stk false).cairn
        (streamingPart.get
        (Reg.TILE_CAIRN.VALUE (partOf (stk false).ash) (idxOf (stk false).ash)
        (stk false).cairn) +
        8) =
        none ∧
        streamingPart.sliceReady (stk false).ash (bitsOf ((stk false).addr + 512 * 1) 24 22) = true ∧
        (stk false).dir = false ∧
        streamingPart.rowBad ((stk false).mor + 1) = false ∧
        streamingPart.rowWaits (stk false) 1 ((stk false).addr + 512 * 1) 0 = false ∧
        (stk false).part.length +
        (streamingPart.rowGrans (stk false) 1 ((stk false).addr + 512 * 1) 0).length <
        8)
    ∧ ((streaming true).fab.stks[0]? = some (stk true) ∧
      (stk true).started = true ∧
        (stk true).ent.isSome = true ∧
          1 ∈ (stk true).left ∧
        (streaming true).rowHeld (stk true) ((stk true).mor + 1) = false ∧
        (streaming true).inShadow ((stk true).mor + 1) 1 = false ∧
        (streaming true).turn ((streaming true).domOf (stk true).ash) 0 = true ∧
        (stk true).ash < 576 ∧
        (stk true).addr % 512 = 0 ∧
        (stk true).addr + 512 * 1 < 2 ^ 25 ∧
        (stk true).cairn < 64 ∧
        (streaming true).get
        (Reg.TILE_CAIRN.VALUE (partOf (stk true).ash) (idxOf (stk true).ash) (stk true).cairn) +
        8 +
        (streaming true).takenIn true ((stk true).ash * 64 + (stk true).cairn) (0 + 1) ≤
        16777215 ∧
        nextCairn ((streaming true).dom ((streaming true).domOf (stk true).ash)).frz (stk true).ash
        (stk true).cairn
        ((streaming true).get
        (Reg.TILE_CAIRN.VALUE (partOf (stk true).ash) (idxOf (stk true).ash) (stk true).cairn) +
        8) =
        none ∧
        (streaming true).sliceReady (stk true).ash (bitsOf ((stk true).addr + 512 * 1) 24 22) = true ∧
        (stk true).dir = true ∧
        (streaming true).bulk.upset = [] ∧
        (streaming true).stackFailed ((stk true).mor + 1) = false ∧
        (∀ (i : Nat),
        i < 8 →
        (streaming true).readFree (stk true).ash ((stk true).addr + 512 * 1 + 64 * i) 0 =
        true) ∧
        ((streaming true).dom ((streaming true).domOf (stk true).ash)).under = [])
    ∧ (streamShadow.fab.stks[0]? = some (stk false) ∧ streamShadow.inShadow ((stk false).mor + 1) 1 = true)
    ∧ (3 < 12 ∧
      streamLate.running 3 = true ∧
        streamLate.halted 3 = false ∧
          streamLate.queuedLate 3 = [] ∧
        streamLate.lateStks 3 = [lateStk] ∧ streamLate.get (Reg.MOR_STK_LATE.COUNT (partOf lateStk.ash)) + 1 < 2 ^ 32)
    ∧ (3 < 12 ∧
      queuedStk.running 3 = true ∧
        queuedStk.halted 3 = false ∧
          queuedStk.queuedLate 3 = [(qent wStkLate 8 40, 12)] ∧
        queuedStk.lateStks 3 = [] ∧ queuedStk.domOf 12 = 3 ∧ queuedStk.get (Reg.MOR_STK_LATE.COUNT (partOf 12)) + 1 < 2 ^ 32) :=
  ⟨by decide +kernel, by decide +kernel, by decide +kernel, by decide +kernel, by decide +kernel, by decide +kernel⟩

theorem wit_EngineInstructionsTakeAnEntry_a :
    (((inst wMma).canIssue 3 = true ∧
        ((inst wMma).dom 3).hold ≤ ((inst wMma).dom 3).cyc ∧
          (inst wMma).fetch 3 = Fetch.word wMma ∧
        assigned wMma = true ∧
        clsOf wMma = 4 ∧
        opOf wMma = 0 ∧
        wordFault wMma = none ∧
        ∀ (a : Nat × DueAct), a ∈ ((inst wMma).dom 3).due → ((inst wMma).dom 3).cyc + 1 < a.fst) ∧
      ((passOf wMma).reads'.any fun r => (inst wMma).regBusy 3 r) = false ∧
        (∀ (a : Nat),
        a ∈ (inst wMma).live 3 (inst wMma).bulk.core wMma → (passOf wMma).areasOk (inst wMma).bulk.core a = true) ∧
          (((inst wMma).dom 3).queue Eng.array).length < 32)
    ∧ (((full (inst wMma)).canIssue 3 = true ∧
        ((full (inst wMma)).dom 3).hold ≤ ((full (inst wMma)).dom 3).cyc ∧
          (full (inst wMma)).fetch 3 = Fetch.word wMma ∧
        assigned wMma = true ∧
        clsOf wMma = 4 ∧
        opOf wMma = 0 ∧
        wordFault wMma = none ∧
        ∀ (a : Nat × DueAct), a ∈ ((full (inst wMma)).dom 3).due → ((full (inst wMma)).dom 3).cyc + 1 < a.fst) ∧
      ((passOf wMma).reads'.any fun r => (full (inst wMma)).regBusy 3 r) = false ∧
        (∀ (a : Nat),
        a ∈ (full (inst wMma)).live 3 (full (inst wMma)).bulk.core wMma →
        (passOf wMma).areasOk (full (inst wMma)).bulk.core a = true) ∧
          32 ≤ (((full (inst wMma)).dom 3).queue Eng.array).length ∧
        (full (inst wMma)).get (Reg.SEQ_STALL_QUEUE.CYCLES 3) + 1 < 2 ^ 32)
    ∧ (((inst wMmw).canIssue 3 = true ∧
        ((inst wMmw).dom 3).hold ≤ ((inst wMmw).dom 3).cyc ∧
          (inst wMmw).fetch 3 = Fetch.word wMmw ∧
        assigned wMmw = true ∧
        clsOf wMmw = 4 ∧
        opOf wMmw = 1 ∧
        wordFault wMmw = none ∧
        ∀ (a : Nat × DueAct), a ∈ ((inst wMmw).dom 3).due → ((inst wMmw).dom 3).cyc + 1 < a.fst) ∧
      ((passOf wMmw).reads'.any fun r => (inst wMmw).regBusy 3 r) = false ∧
        (∀ (a : Nat),
        a ∈ (inst wMmw).live 3 (inst wMmw).bulk.core wMmw → (passOf wMmw).areasOk (inst wMmw).bulk.core a = true) ∧
          (((inst wMmw).dom 3).queue Eng.array).length < 32)
    ∧ (((full (inst wMmw)).canIssue 3 = true ∧
        ((full (inst wMmw)).dom 3).hold ≤ ((full (inst wMmw)).dom 3).cyc ∧
          (full (inst wMmw)).fetch 3 = Fetch.word wMmw ∧
        assigned wMmw = true ∧
        clsOf wMmw = 4 ∧
        opOf wMmw = 1 ∧
        wordFault wMmw = none ∧
        ∀ (a : Nat × DueAct), a ∈ ((full (inst wMmw)).dom 3).due → ((full (inst wMmw)).dom 3).cyc + 1 < a.fst) ∧
      ((passOf wMmw).reads'.any fun r => (full (inst wMmw)).regBusy 3 r) = false ∧
        (∀ (a : Nat),
        a ∈ (full (inst wMmw)).live 3 (full (inst wMmw)).bulk.core wMmw →
        (passOf wMmw).areasOk (full (inst wMmw)).bulk.core a = true) ∧
          32 ≤ (((full (inst wMmw)).dom 3).queue Eng.array).length ∧
        (full (inst wMmw)).get (Reg.SEQ_STALL_QUEUE.CYCLES 3) + 1 < 2 ^ 32)
    ∧ (((inst wAccz).canIssue 3 = true ∧
        ((inst wAccz).dom 3).hold ≤ ((inst wAccz).dom 3).cyc ∧
          (inst wAccz).fetch 3 = Fetch.word wAccz ∧
        assigned wAccz = true ∧
        clsOf wAccz = 4 ∧
        opOf wAccz = 2 ∧
        wordFault wAccz = none ∧
        ∀ (a : Nat × DueAct), a ∈ ((inst wAccz).dom 3).due → ((inst wAccz).dom 3).cyc + 1 < a.fst) ∧
      ([].any fun r => (inst wAccz).regBusy 3 r) = false ∧
        (∀ (a : Nat), a ∈ (inst wAccz).live 3 (inst wAccz).bulk.core wAccz → true = true) ∧
          (((inst wAccz).dom 3).queue Eng.array).length < 32)
    ∧ (((full (inst wAccz)).canIssue 3 = true ∧
        ((full (inst wAccz)).dom 3).hold ≤ ((full (inst wAccz)).dom 3).cyc ∧
          (full (inst wAccz)).fetch 3 = Fetch.word wAccz ∧
        assigned wAccz = true ∧
        clsOf wAccz = 4 ∧
        opOf wAccz = 2 ∧
        wordFault wAccz = none ∧
        ∀ (a : Nat × DueAct), a ∈ ((full (inst wAccz)).dom 3).due → ((full (inst wAccz)).dom 3).cyc + 1 < a.fst) ∧
      ([].any fun r => (full (inst wAccz)).regBusy 3 r) = false ∧
        (∀ (a : Nat), a ∈ (full (inst wAccz)).live 3 (full (inst wAccz)).bulk.core wAccz → true = true) ∧
          32 ≤ (((full (inst wAccz)).dom 3).queue Eng.array).length ∧
        (full (inst wAccz)).get (Reg.SEQ_STALL_QUEUE.CYCLES 3) + 1 < 2 ^ 32) :=
  ⟨by decide +kernel, by decide +kernel, by decide +kernel, by decide +kernel, by decide +kernel, by decide +kernel⟩

theorem wit_EngineInstructionsTakeAnEntry_b :
    (((inst wWin).canIssue 3 = true ∧
        ((inst wWin).dom 3).hold ≤ ((inst wWin).dom 3).cyc ∧
          (inst wWin).fetch 3 = Fetch.word wWin ∧
        assigned wWin = true ∧
        clsOf wWin = 4 ∧
        opOf wWin = 3 ∧
        wordFault wWin = none ∧
        ∀ (a : Nat × DueAct), a ∈ ((inst wWin).dom 3).due → ((inst wWin).dom 3).cyc + 1 < a.fst) ∧
      ([].any fun r => (inst wWin).regBusy 3 r) = false ∧
        (∀ (a : Nat), a ∈ (inst wWin).live 3 (inst wWin).bulk.core wWin → true = true) ∧
          (((inst wWin).dom 3).queue Eng.array).length < 32)
    ∧ (((full (inst wWin)).canIssue 3 = true ∧
        ((full (inst wWin)).dom 3).hold ≤ ((full (inst wWin)).dom 3).cyc ∧
          (full (inst wWin)).fetch 3 = Fetch.word wWin ∧
        assigned wWin = true ∧
        clsOf wWin = 4 ∧
        opOf wWin = 3 ∧
        wordFault wWin = none ∧
        ∀ (a : Nat × DueAct), a ∈ ((full (inst wWin)).dom 3).due → ((full (inst wWin)).dom 3).cyc + 1 < a.fst) ∧
      ([].any fun r => (full (inst wWin)).regBusy 3 r) = false ∧
        (∀ (a : Nat), a ∈ (full (inst wWin)).live 3 (full (inst wWin)).bulk.core wWin → true = true) ∧
          32 ≤ (((full (inst wWin)).dom 3).queue Eng.array).length ∧
        (full (inst wWin)).get (Reg.SEQ_STALL_QUEUE.CYCLES 3) + 1 < 2 ^ 32)
    ∧ (((inst wChk).canIssue 3 = true ∧
        ((inst wChk).dom 3).hold ≤ ((inst wChk).dom 3).cyc ∧
          (inst wChk).fetch 3 = Fetch.word wChk ∧
        assigned wChk = true ∧
        clsOf wChk = 4 ∧
        opOf wChk = 4 ∧
        wordFault wChk = none ∧
        ∀ (a : Nat × DueAct), a ∈ ((inst wChk).dom 3).due → ((inst wChk).dom 3).cyc + 1 < a.fst) ∧
      ([].any fun r => (inst wChk).regBusy 3 r) = false ∧
        (∀ (a : Nat), a ∈ (inst wChk).live 3 (inst wChk).bulk.core wChk → true = true) ∧
          (((inst wChk).dom 3).queue Eng.array).length < 32)
    ∧ (((full (inst wChk)).canIssue 3 = true ∧
        ((full (inst wChk)).dom 3).hold ≤ ((full (inst wChk)).dom 3).cyc ∧
          (full (inst wChk)).fetch 3 = Fetch.word wChk ∧
        assigned wChk = true ∧
        clsOf wChk = 4 ∧
        opOf wChk = 4 ∧
        wordFault wChk = none ∧
        ∀ (a : Nat × DueAct), a ∈ ((full (inst wChk)).dom 3).due → ((full (inst wChk)).dom 3).cyc + 1 < a.fst) ∧
      ([].any fun r => (full (inst wChk)).regBusy 3 r) = false ∧
        (∀ (a : Nat), a ∈ (full (inst wChk)).live 3 (full (inst wChk)).bulk.core wChk → true = true) ∧
          32 ≤ (((full (inst wChk)).dom 3).queue Eng.array).length ∧
        (full (inst wChk)).get (Reg.SEQ_STALL_QUEUE.CYCLES 3) + 1 < 2 ^ 32)
    ∧ ((chained 1 wVch).vopOf 3 wVch = some (chainV VKind.chain 1) ∧
      ((chained 1 wVch).canIssue 3 = true ∧
          ((chained 1 wVch).dom 3).hold ≤ ((chained 1 wVch).dom 3).cyc ∧
        (chained 1 wVch).fetch 3 = Fetch.word wVch ∧
        assigned wVch = true ∧
        clsOf wVch = 5 ∧
        opOf wVch = 0 ∧
        wordFault wVch = none ∧
        ∀ (a : Nat × DueAct), a ∈ ((chained 1 wVch).dom 3).due → ((chained 1 wVch).dom 3).cyc + 1 < a.fst) ∧
        ((chainV VKind.chain 1).reads.any fun r => (chained 1 wVch).regBusy 3 r) = false ∧
          (∀ (a : Nat),
        a ∈ (chained 1 wVch).live 3 (chained 1 wVch).bulk.core wVch →
        (chainV VKind.chain 1).regsOk (chained 1 wVch).bulk.core a = true) ∧
        (((chained 1 wVch).dom 3).queue Eng.vector).length < 32)
    ∧ ((full (chained 1 wVch)).vopOf 3 wVch = some (chainV VKind.chain 1) ∧
      ((full (chained 1 wVch)).canIssue 3 = true ∧
          ((full (chained 1 wVch)).dom 3).hold ≤ ((full (chained 1 wVch)).dom 3).cyc ∧
        (full (chained 1 wVch)).fetch 3 = Fetch.word wVch ∧
        assigned wVch = true ∧
        clsOf wVch = 5 ∧
        opOf wVch = 0 ∧
        wordFault wVch = none ∧
        ∀ (a : Nat × DueAct),
        a ∈ ((full (chained 1 wVch)).dom 3).due → ((full (chained 1 wVch)).dom 3).cyc + 1 < a.fst) ∧
        ((chainV VKind.chain 1).reads.any fun r => (full (chained 1 wVch)).regBusy 3 r) = false ∧
          (∀ (a : Nat),
        a ∈ (full (chained 1 wVch)).live 3 (full (chained 1 wVch)).bulk.core wVch →
        (chainV VKind.chain 1).regsOk (full (chained 1 wVch)).bulk.core a = true) ∧
        32 ≤ (((full (chained 1 wVch)).dom 3).queue Eng.vector).length ∧
        (full (chained 1 wVch)).get (Reg.SEQ_STALL_QUEUE.CYCLES 3) + 1 < 2 ^ 32) :=
  ⟨by decide +kernel, by decide +kernel, by decide +kernel, by decide +kernel, by decide +kernel, by decide +kernel⟩

theorem wit_EngineInstructionsTakeAnEntry_c :
    ((chained 2 wVred).vopOf 3 wVred = some (chainV VKind.red 2) ∧
      ((chained 2 wVred).canIssue 3 = true ∧
          ((chained 2 wVred).dom 3).hold ≤ ((chained 2 wVred).dom 3).cyc ∧
        (chained 2 wVred).fetch 3 = Fetch.word wVred ∧
        assigned wVred = true ∧
        clsOf wVred = 5 ∧
        opOf wVred = 1 ∧
        wordFault wVred = none ∧
        ∀ (a : Nat × DueAct), a ∈ ((chained 2 wVred).dom 3).due → ((chained 2 wVred).dom 3).cyc + 1 < a.fst) ∧
        ((chainV VKind.red 2).reads.any fun r => (chained 2 wVred).regBusy 3 r) = false ∧
          (∀ (a : Nat),
        a ∈ (chained 2 wVred).live 3 (chained 2 wVred).bulk.core wVred →
        (chainV VKind.red 2).regsOk (chained 2 wVred).bulk.core a = true) ∧
        (((chained 2 wVred).dom 3).queue Eng.vector).length < 32)
    ∧ ((full (chained 2 wVred)).vopOf 3 wVred = some (chainV VKind.red 2) ∧
      ((full (chained 2 wVred)).canIssue 3 = true ∧
          ((full (chained 2 wVred)).dom 3).hold ≤ ((full (chained 2 wVred)).dom 3).cyc ∧
        (full (chained 2 wVred)).fetch 3 = Fetch.word wVred ∧
        assigned wVred = true ∧
        clsOf wVred = 5 ∧
        opOf wVred = 1 ∧
        wordFault wVred = none ∧
        ∀ (a : Nat × DueAct),
        a ∈ ((full (chained 2 wVred)).dom 3).due → ((full (chained 2 wVred)).dom 3).cyc + 1 < a.fst) ∧
        ((chainV VKind.red 2).reads.any fun r => (full (chained 2 wVred)).regBusy 3 r) = false ∧
          (∀ (a : Nat),
        a ∈ (full (chained 2 wVred)).live 3 (full (chained 2 wVred)).bulk.core wVred →
        (chainV VKind.red 2).regsOk (full (chained 2 wVred)).bulk.core a = true) ∧
        32 ≤ (((full (chained 2 wVred)).dom 3).queue Eng.vector).length ∧
        (full (chained 2 wVred)).get (Reg.SEQ_STALL_QUEUE.CYCLES 3) + 1 < 2 ^ 32)
    ∧ ((inst wVsum).vopOf 3 wVsum = some (wordOp wVsum) ∧
      ((inst wVsum).canIssue 3 = true ∧
          ((inst wVsum).dom 3).hold ≤ ((inst wVsum).dom 3).cyc ∧
        (inst wVsum).fetch 3 = Fetch.word wVsum ∧
        assigned wVsum = true ∧
        clsOf wVsum = 5 ∧
        opOf wVsum = 2 ∧
        wordFault wVsum = none ∧
        ∀ (a : Nat × DueAct), a ∈ ((inst wVsum).dom 3).due → ((inst wVsum).dom 3).cyc + 1 < a.fst) ∧
        ((wordOp wVsum).reads.any fun r => (inst wVsum).regBusy 3 r) = false ∧
          (∀ (a : Nat),
        a ∈ (inst wVsum).live 3 (inst wVsum).bulk.core wVsum → (wordOp wVsum).regsOk (inst wVsum).bulk.core a = true) ∧
        (((inst wVsum).dom 3).queue Eng.vector).length < 32)
    ∧ ((full (inst wVsum)).vopOf 3 wVsum = some (wordOp wVsum) ∧
      ((full (inst wVsum)).canIssue 3 = true ∧
          ((full (inst wVsum)).dom 3).hold ≤ ((full (inst wVsum)).dom 3).cyc ∧
        (full (inst wVsum)).fetch 3 = Fetch.word wVsum ∧
        assigned wVsum = true ∧
        clsOf wVsum = 5 ∧
        opOf wVsum = 2 ∧
        wordFault wVsum = none ∧
        ∀ (a : Nat × DueAct), a ∈ ((full (inst wVsum)).dom 3).due → ((full (inst wVsum)).dom 3).cyc + 1 < a.fst) ∧
        ((wordOp wVsum).reads.any fun r => (full (inst wVsum)).regBusy 3 r) = false ∧
          (∀ (a : Nat),
        a ∈ (full (inst wVsum)).live 3 (full (inst wVsum)).bulk.core wVsum →
        (wordOp wVsum).regsOk (full (inst wVsum)).bulk.core a = true) ∧
        32 ≤ (((full (inst wVsum)).dom 3).queue Eng.vector).length ∧
        (full (inst wVsum)).get (Reg.SEQ_STALL_QUEUE.CYCLES 3) + 1 < 2 ^ 32)
    ∧ ((inst wCvt).vopOf 3 wCvt = some (wordOp wCvt) ∧
      ((inst wCvt).canIssue 3 = true ∧
          ((inst wCvt).dom 3).hold ≤ ((inst wCvt).dom 3).cyc ∧
        (inst wCvt).fetch 3 = Fetch.word wCvt ∧
        assigned wCvt = true ∧
        clsOf wCvt = 6 ∧
        opOf wCvt = 0 ∧
        wordFault wCvt = none ∧
        ∀ (a : Nat × DueAct), a ∈ ((inst wCvt).dom 3).due → ((inst wCvt).dom 3).cyc + 1 < a.fst) ∧
        ((wordOp wCvt).reads.any fun r => (inst wCvt).regBusy 3 r) = false ∧
          (∀ (a : Nat),
        a ∈ (inst wCvt).live 3 (inst wCvt).bulk.core wCvt → (wordOp wCvt).regsOk (inst wCvt).bulk.core a = true) ∧
        (((inst wCvt).dom 3).queue Eng.vector).length < 32)
    ∧ ((full (inst wCvt)).vopOf 3 wCvt = some (wordOp wCvt) ∧
      ((full (inst wCvt)).canIssue 3 = true ∧
          ((full (inst wCvt)).dom 3).hold ≤ ((full (inst wCvt)).dom 3).cyc ∧
        (full (inst wCvt)).fetch 3 = Fetch.word wCvt ∧
        assigned wCvt = true ∧
        clsOf wCvt = 6 ∧
        opOf wCvt = 0 ∧
        wordFault wCvt = none ∧
        ∀ (a : Nat × DueAct), a ∈ ((full (inst wCvt)).dom 3).due → ((full (inst wCvt)).dom 3).cyc + 1 < a.fst) ∧
        ((wordOp wCvt).reads.any fun r => (full (inst wCvt)).regBusy 3 r) = false ∧
          (∀ (a : Nat),
        a ∈ (full (inst wCvt)).live 3 (full (inst wCvt)).bulk.core wCvt →
        (wordOp wCvt).regsOk (full (inst wCvt)).bulk.core a = true) ∧
        32 ≤ (((full (inst wCvt)).dom 3).queue Eng.vector).length ∧
        (full (inst wCvt)).get (Reg.SEQ_STALL_QUEUE.CYCLES 3) + 1 < 2 ^ 32) :=
  ⟨by decide +kernel, by decide +kernel, by decide +kernel, by decide +kernel, by decide +kernel, by decide +kernel⟩

theorem wit_EngineInstructionsTakeAnEntry_d :
    ((inst wMxp).vopOf 3 wMxp = some (wordOp wMxp) ∧
      ((inst wMxp).canIssue 3 = true ∧
          ((inst wMxp).dom 3).hold ≤ ((inst wMxp).dom 3).cyc ∧
        (inst wMxp).fetch 3 = Fetch.word wMxp ∧
        assigned wMxp = true ∧
        clsOf wMxp = 6 ∧
        opOf wMxp = 1 ∧
        wordFault wMxp = none ∧
        ∀ (a : Nat × DueAct), a ∈ ((inst wMxp).dom 3).due → ((inst wMxp).dom 3).cyc + 1 < a.fst) ∧
        ((wordOp wMxp).reads.any fun r => (inst wMxp).regBusy 3 r) = false ∧
          (∀ (a : Nat),
        a ∈ (inst wMxp).live 3 (inst wMxp).bulk.core wMxp → (wordOp wMxp).regsOk (inst wMxp).bulk.core a = true) ∧
        (((inst wMxp).dom 3).queue Eng.vector).length < 32)
    ∧ ((full (inst wMxp)).vopOf 3 wMxp = some (wordOp wMxp) ∧
      ((full (inst wMxp)).canIssue 3 = true ∧
          ((full (inst wMxp)).dom 3).hold ≤ ((full (inst wMxp)).dom 3).cyc ∧
        (full (inst wMxp)).fetch 3 = Fetch.word wMxp ∧
        assigned wMxp = true ∧
        clsOf wMxp = 6 ∧
        opOf wMxp = 1 ∧
        wordFault wMxp = none ∧
        ∀ (a : Nat × DueAct), a ∈ ((full (inst wMxp)).dom 3).due → ((full (inst wMxp)).dom 3).cyc + 1 < a.fst) ∧
        ((wordOp wMxp).reads.any fun r => (full (inst wMxp)).regBusy 3 r) = false ∧
          (∀ (a : Nat),
        a ∈ (full (inst wMxp)).live 3 (full (inst wMxp)).bulk.core wMxp →
        (wordOp wMxp).regsOk (full (inst wMxp)).bulk.core a = true) ∧
        32 ≤ (((full (inst wMxp)).dom 3).queue Eng.vector).length ∧
        (full (inst wMxp)).get (Reg.SEQ_STALL_QUEUE.CYCLES 3) + 1 < 2 ^ 32)
    ∧ ((inst wMxu).vopOf 3 wMxu = some (wordOp wMxu) ∧
      ((inst wMxu).canIssue 3 = true ∧
          ((inst wMxu).dom 3).hold ≤ ((inst wMxu).dom 3).cyc ∧
        (inst wMxu).fetch 3 = Fetch.word wMxu ∧
        assigned wMxu = true ∧
        clsOf wMxu = 6 ∧
        opOf wMxu = 2 ∧
        wordFault wMxu = none ∧
        ∀ (a : Nat × DueAct), a ∈ ((inst wMxu).dom 3).due → ((inst wMxu).dom 3).cyc + 1 < a.fst) ∧
        ((wordOp wMxu).reads.any fun r => (inst wMxu).regBusy 3 r) = false ∧
          (∀ (a : Nat),
        a ∈ (inst wMxu).live 3 (inst wMxu).bulk.core wMxu → (wordOp wMxu).regsOk (inst wMxu).bulk.core a = true) ∧
        (((inst wMxu).dom 3).queue Eng.vector).length < 32)
    ∧ ((full (inst wMxu)).vopOf 3 wMxu = some (wordOp wMxu) ∧
      ((full (inst wMxu)).canIssue 3 = true ∧
          ((full (inst wMxu)).dom 3).hold ≤ ((full (inst wMxu)).dom 3).cyc ∧
        (full (inst wMxu)).fetch 3 = Fetch.word wMxu ∧
        assigned wMxu = true ∧
        clsOf wMxu = 6 ∧
        opOf wMxu = 2 ∧
        wordFault wMxu = none ∧
        ∀ (a : Nat × DueAct), a ∈ ((full (inst wMxu)).dom 3).due → ((full (inst wMxu)).dom 3).cyc + 1 < a.fst) ∧
        ((wordOp wMxu).reads.any fun r => (full (inst wMxu)).regBusy 3 r) = false ∧
          (∀ (a : Nat),
        a ∈ (full (inst wMxu)).live 3 (full (inst wMxu)).bulk.core wMxu →
        (wordOp wMxu).regsOk (full (inst wMxu)).bulk.core a = true) ∧
        32 ≤ (((full (inst wMxu)).dom 3).queue Eng.vector).length ∧
        (full (inst wMxu)).get (Reg.SEQ_STALL_QUEUE.CYCLES 3) + 1 < 2 ^ 32)
    ∧ ((inst wRsc).vopOf 3 wRsc = some (wordOp wRsc) ∧
      ((inst wRsc).canIssue 3 = true ∧
          ((inst wRsc).dom 3).hold ≤ ((inst wRsc).dom 3).cyc ∧
        (inst wRsc).fetch 3 = Fetch.word wRsc ∧
        assigned wRsc = true ∧
        clsOf wRsc = 6 ∧
        opOf wRsc = 3 ∧
        wordFault wRsc = none ∧
        ∀ (a : Nat × DueAct), a ∈ ((inst wRsc).dom 3).due → ((inst wRsc).dom 3).cyc + 1 < a.fst) ∧
        ((wordOp wRsc).reads.any fun r => (inst wRsc).regBusy 3 r) = false ∧
          (∀ (a : Nat),
        a ∈ (inst wRsc).live 3 (inst wRsc).bulk.core wRsc → (wordOp wRsc).regsOk (inst wRsc).bulk.core a = true) ∧
        (((inst wRsc).dom 3).queue Eng.vector).length < 32)
    ∧ ((full (inst wRsc)).vopOf 3 wRsc = some (wordOp wRsc) ∧
      ((full (inst wRsc)).canIssue 3 = true ∧
          ((full (inst wRsc)).dom 3).hold ≤ ((full (inst wRsc)).dom 3).cyc ∧
        (full (inst wRsc)).fetch 3 = Fetch.word wRsc ∧
        assigned wRsc = true ∧
        clsOf wRsc = 6 ∧
        opOf wRsc = 3 ∧
        wordFault wRsc = none ∧
        ∀ (a : Nat × DueAct), a ∈ ((full (inst wRsc)).dom 3).due → ((full (inst wRsc)).dom 3).cyc + 1 < a.fst) ∧
        ((wordOp wRsc).reads.any fun r => (full (inst wRsc)).regBusy 3 r) = false ∧
          (∀ (a : Nat),
        a ∈ (full (inst wRsc)).live 3 (full (inst wRsc)).bulk.core wRsc →
        (wordOp wRsc).regsOk (full (inst wRsc)).bulk.core a = true) ∧
        32 ≤ (((full (inst wRsc)).dom 3).queue Eng.vector).length ∧
        (full (inst wRsc)).get (Reg.SEQ_STALL_QUEUE.CYCLES 3) + 1 < 2 ^ 32) :=
  ⟨by decide +kernel, by decide +kernel, by decide +kernel, by decide +kernel, by decide +kernel, by decide +kernel⟩

theorem wit_EngineInstructionsTakeAnEntry_e :
    (((inst wXfer).canIssue 3 = true ∧
        ((inst wXfer).dom 3).hold ≤ ((inst wXfer).dom 3).cyc ∧
          (inst wXfer).fetch 3 = Fetch.word wXfer ∧
        assigned wXfer = true ∧
        clsOf wXfer = 2 ∧
        opOf wXfer = 3 ∧
        wordFault wXfer = none ∧
        ∀ (a : Nat × DueAct), a ∈ ((inst wXfer).dom 3).due → ((inst wXfer).dom 3).cyc + 1 < a.fst) ∧
      (([32 + fld wXfer 47 44, 32 + fld wXfer 39 36] ++ [32 + fld wXfer 43 40]).any fun r => (inst wXfer).regBusy 3 r) = false ∧
        (∀ (a : Nat), a ∈ (inst wXfer).live 3 (inst wXfer).bulk.core wXfer → ((inst wXfer).xferCheck 3 wXfer a).isNone = true) ∧
          (((inst wXfer).dom 3).queue Eng.transfer).length < 32)
    ∧ (((full (inst wXfer)).canIssue 3 = true ∧
        ((full (inst wXfer)).dom 3).hold ≤ ((full (inst wXfer)).dom 3).cyc ∧
          (full (inst wXfer)).fetch 3 = Fetch.word wXfer ∧
        assigned wXfer = true ∧
        clsOf wXfer = 2 ∧
        opOf wXfer = 3 ∧
        wordFault wXfer = none ∧
        ∀ (a : Nat × DueAct), a ∈ ((full (inst wXfer)).dom 3).due → ((full (inst wXfer)).dom 3).cyc + 1 < a.fst) ∧
      (([32 + fld wXfer 47 44, 32 + fld wXfer 39 36] ++ [32 + fld wXfer 43 40]).any fun r => (full (inst wXfer)).regBusy 3 r) =
          false ∧
        (∀ (a : Nat),
        a ∈ (full (inst wXfer)).live 3 (full (inst wXfer)).bulk.core wXfer →
        ((full (inst wXfer)).xferCheck 3 wXfer a).isNone = true) ∧
          32 ≤ (((full (inst wXfer)).dom 3).queue Eng.transfer).length ∧
        (full (inst wXfer)).get (Reg.SEQ_STALL_QUEUE.CYCLES 3) + 1 < 2 ^ 32)
    ∧ (((inst wMcast).canIssue 3 = true ∧
        ((inst wMcast).dom 3).hold ≤ ((inst wMcast).dom 3).cyc ∧
          (inst wMcast).fetch 3 = Fetch.word wMcast ∧
        assigned wMcast = true ∧
        clsOf wMcast = 2 ∧
        opOf wMcast = 4 ∧
        wordFault wMcast = none ∧
        ∀ (a : Nat × DueAct), a ∈ ((inst wMcast).dom 3).due → ((inst wMcast).dom 3).cyc + 1 < a.fst) ∧
      ([32 + fld wMcast 47 44, 32 + fld wMcast 39 36].any fun r => (inst wMcast).regBusy 3 r) = false ∧
        (∀ (a : Nat),
        a ∈ (inst wMcast).live 3 (inst wMcast).bulk.core wMcast → ((inst wMcast).xferCheck 3 wMcast a).isNone = true) ∧
          (((inst wMcast).dom 3).queue Eng.transfer).length < 32)
    ∧ (((full (inst wMcast)).canIssue 3 = true ∧
        ((full (inst wMcast)).dom 3).hold ≤ ((full (inst wMcast)).dom 3).cyc ∧
          (full (inst wMcast)).fetch 3 = Fetch.word wMcast ∧
        assigned wMcast = true ∧
        clsOf wMcast = 2 ∧
        opOf wMcast = 4 ∧
        wordFault wMcast = none ∧
        ∀ (a : Nat × DueAct), a ∈ ((full (inst wMcast)).dom 3).due → ((full (inst wMcast)).dom 3).cyc + 1 < a.fst) ∧
      ([32 + fld wMcast 47 44, 32 + fld wMcast 39 36].any fun r => (full (inst wMcast)).regBusy 3 r) = false ∧
        (∀ (a : Nat),
        a ∈ (full (inst wMcast)).live 3 (full (inst wMcast)).bulk.core wMcast →
        ((full (inst wMcast)).xferCheck 3 wMcast a).isNone = true) ∧
          32 ≤ (((full (inst wMcast)).dom 3).queue Eng.transfer).length ∧
        (full (inst wMcast)).get (Reg.SEQ_STALL_QUEUE.CYCLES 3) + 1 < 2 ^ 32)
    ∧ ((moraineOpen.canIssue 3 = true ∧
        (moraineOpen.dom 3).hold ≤ (moraineOpen.dom 3).cyc ∧
          moraineOpen.fetch 3 = Fetch.word wStk ∧
        assigned wStk = true ∧
        clsOf wStk = 2 ∧
        opOf wStk = 5 ∧
        wordFault wStk = none ∧
        ∀ (a : Nat × DueAct), a ∈ (moraineOpen.dom 3).due → (moraineOpen.dom 3).cyc + 1 < a.fst) ∧
      ([32 + fld wStk 47 44, 32 + fld wStk 43 40].any fun r => moraineOpen.regBusy 3 r) = false ∧
        (∀ (a : Nat), a ∈ moraineOpen.live 3 moraineOpen.bulk.core wStk → (moraineOpen.stkCheck wStk a).isNone = true) ∧
          ((moraineOpen.dom 3).queue Eng.transfer).length < 32)
    ∧ (((full moraineOpen).canIssue 3 = true ∧
        ((full moraineOpen).dom 3).hold ≤ ((full moraineOpen).dom 3).cyc ∧
          (full moraineOpen).fetch 3 = Fetch.word wStk ∧
        assigned wStk = true ∧
        clsOf wStk = 2 ∧
        opOf wStk = 5 ∧
        wordFault wStk = none ∧
        ∀ (a : Nat × DueAct), a ∈ ((full moraineOpen).dom 3).due → ((full moraineOpen).dom 3).cyc + 1 < a.fst) ∧
      ([32 + fld wStk 47 44, 32 + fld wStk 43 40].any fun r => (full moraineOpen).regBusy 3 r) = false ∧
        (∀ (a : Nat),
        a ∈ (full moraineOpen).live 3 (full moraineOpen).bulk.core wStk →
        ((full moraineOpen).stkCheck wStk a).isNone = true) ∧
          32 ≤ (((full moraineOpen).dom 3).queue Eng.transfer).length ∧
        (full moraineOpen).get (Reg.SEQ_STALL_QUEUE.CYCLES 3) + 1 < 2 ^ 32) :=
  ⟨by decide +kernel, by decide +kernel, by decide +kernel, by decide +kernel, by decide +kernel, by decide +kernel⟩

theorem wit_EngineInstructionsTakeAnEntry_f :
    ((inst wSmp).rankOk 3 wSmp = true ∧
      ((inst wSmp).canIssue 3 = true ∧
          ((inst wSmp).dom 3).hold ≤ ((inst wSmp).dom 3).cyc ∧
        (inst wSmp).fetch 3 = Fetch.word wSmp ∧
        assigned wSmp = true ∧
        clsOf wSmp = 7 ∧
        opOf wSmp = 1 ∧
        wordFault wSmp = none ∧
        ∀ (a : Nat × DueAct), a ∈ ((inst wSmp).dom 3).due → ((inst wSmp).dom 3).cyc + 1 < a.fst) ∧
        ([fld wSmp 39 35, fld wSmp 34 30, selA (fld wSmp 29 26), selA (fld wSmp 29 26 + 1)].any fun r =>
        (inst wSmp).regBusy 3 r) =
        false ∧
          (∀ (a : Nat), a ∈ (inst wSmp).live 3 (inst wSmp).bulk.core wSmp → smpOk wSmp (inst wSmp).bulk.core a = true) ∧
        (((inst wSmp).dom 3).queue Eng.vector).length < 32)
    ∧ ((full (inst wSmp)).rankOk 3 wSmp = true ∧
      ((full (inst wSmp)).canIssue 3 = true ∧
          ((full (inst wSmp)).dom 3).hold ≤ ((full (inst wSmp)).dom 3).cyc ∧
        (full (inst wSmp)).fetch 3 = Fetch.word wSmp ∧
        assigned wSmp = true ∧
        clsOf wSmp = 7 ∧
        opOf wSmp = 1 ∧
        wordFault wSmp = none ∧
        ∀ (a : Nat × DueAct), a ∈ ((full (inst wSmp)).dom 3).due → ((full (inst wSmp)).dom 3).cyc + 1 < a.fst) ∧
        ([fld wSmp 39 35, fld wSmp 34 30, selA (fld wSmp 29 26), selA (fld wSmp 29 26 + 1)].any fun r =>
        (full (inst wSmp)).regBusy 3 r) =
        false ∧
          (∀ (a : Nat),
        a ∈ (full (inst wSmp)).live 3 (full (inst wSmp)).bulk.core wSmp →
        smpOk wSmp (full (inst wSmp)).bulk.core a = true) ∧
        32 ≤ (((full (inst wSmp)).dom 3).queue Eng.vector).length ∧
        (full (inst wSmp)).get (Reg.SEQ_STALL_QUEUE.CYCLES 3) + 1 < 2 ^ 32)
    ∧ ((inst wEmit).rankOk 3 wEmit = true ∧
      ((inst wEmit).canIssue 3 = true ∧
          ((inst wEmit).dom 3).hold ≤ ((inst wEmit).dom 3).cyc ∧
        (inst wEmit).fetch 3 = Fetch.word wEmit ∧
        assigned wEmit = true ∧
        clsOf wEmit = 7 ∧
        opOf wEmit = 0 ∧
        wordFault wEmit = none ∧
        ∀ (a : Nat × DueAct), a ∈ ((inst wEmit).dom 3).due → ((inst wEmit).dom 3).cyc + 1 < a.fst) ∧
        ((fld wEmit 39 35 :: if fld wEmit 34 34 = 1 then [selA (fld wEmit 33 30)] else []).any fun r =>
        (inst wEmit).regBusy 3 r) =
        false ∧
          (∀ (a : Nat), a ∈ (inst wEmit).live 3 (inst wEmit).bulk.core wEmit → emitOk wEmit (inst wEmit).bulk.core a = true) ∧
        (((inst wEmit).dom 3).queue Eng.transfer).length < 32)
    ∧ ((full (inst wEmit)).rankOk 3 wEmit = true ∧
      ((full (inst wEmit)).canIssue 3 = true ∧
          ((full (inst wEmit)).dom 3).hold ≤ ((full (inst wEmit)).dom 3).cyc ∧
        (full (inst wEmit)).fetch 3 = Fetch.word wEmit ∧
        assigned wEmit = true ∧
        clsOf wEmit = 7 ∧
        opOf wEmit = 0 ∧
        wordFault wEmit = none ∧
        ∀ (a : Nat × DueAct), a ∈ ((full (inst wEmit)).dom 3).due → ((full (inst wEmit)).dom 3).cyc + 1 < a.fst) ∧
        ((fld wEmit 39 35 :: if fld wEmit 34 34 = 1 then [selA (fld wEmit 33 30)] else []).any fun r =>
        (full (inst wEmit)).regBusy 3 r) =
        false ∧
          (∀ (a : Nat),
        a ∈ (full (inst wEmit)).live 3 (full (inst wEmit)).bulk.core wEmit →
        emitOk wEmit (full (inst wEmit)).bulk.core a = true) ∧
        32 ≤ (((full (inst wEmit)).dom 3).queue Eng.transfer).length ∧
        (full (inst wEmit)).get (Reg.SEQ_STALL_QUEUE.CYCLES 3) + 1 < 2 ^ 32) :=
  ⟨by decide +kernel, by decide +kernel, by decide +kernel, by decide +kernel⟩

theorem wit_EngineStarts_a :
    (3 < 12 ∧
      ((arrayHead wAccz).dom 3).aq = [qent wAccz 8 99, qent wAccz 9 100] ∧
        (arrayHead wAccz).canRun 3 (arrayStart ((arrayHead wAccz).dom 3) (qent wAccz 8 99)) = true)
    ∧ (3 < 12 ∧
      ((arrayHead wWin).dom 3).aq = [qent wWin 8 99, qent wWin 9 100] ∧
        (arrayHead wWin).canRun 3 (arrayStart ((arrayHead wWin).dom 3) (qent wWin 8 99)) = true)
    ∧ (3 < 12 ∧
      ((arrayHead wMma).dom 3).aq = [qent wMma 8 99, qent wMma 9 100] ∧
        (arrayHead wMma).canRun 3 (arrayStart ((arrayHead wMma).dom 3) (qent wMma 8 99)) = true)
    ∧ (3 < 12 ∧
      ((vectorHead (wRel 2)).dom 3).vq = [qent (wRel 2) 8 99] ∧
        (vectorHead (wRel 2)).vStart 3 (qent (wRel 2) 8 99) = some release ∧
          (vectorHead (wRel 2)).canRun 3 (vecStart ((vectorHead (wRel 2)).dom 3) (qent (wRel 2) 8 99) release) = true)
    ∧ (3 < 12 ∧
      ((vectorHead wNear).dom 3).vq = [qent wNear 8 99] ∧
        (vectorHead wNear).vStart 3 (qent wNear 8 99) = some nearest ∧
          (vectorHead wNear).canRun 3 (vecStart ((vectorHead wNear).dom 3) (qent wNear 8 99) nearest) = true)
    ∧ (3 < 12 ∧
      ((transferHead wXfer).dom 3).tq = [qent wXfer 8 99] ∧
        (transferHead wXfer).canRun 3 (transferStart ((transferHead wXfer).dom 3) (qent wXfer 8 99)) = true ∧
          emitTimingOk ((transferHead wXfer).domAsh 3) (qent wXfer 8 99) = true) :=
  ⟨by decide +kernel, by decide +kernel, by decide +kernel, by decide +kernel, by decide +kernel, by decide +kernel⟩

theorem wit_EngineStarts_b :
    (((vectorHead wCvt).dom 3).vq = [qent wCvt 8 99] ∧
      (vectorHead wCvt).vStart 3 (qent wCvt 8 99) = none ∧
        (vectorHead wCvt).canRun 3 (max ((qent wCvt 8 99).issued + 1) ((vectorHead wCvt).dom 3).vOcc) = true)
    ∧ (((transferHead wEmitFar).dom 3).tq = [qent wEmitFar 8 99] ∧
      (transferHead wEmitFar).canRun 3 (transferStart ((transferHead wEmitFar).dom 3) (qent wEmitFar 8 99)) = true ∧
        emitTimingOk ((transferHead wEmitFar).domAsh 3) (qent wEmitFar 8 99) = false) :=
  ⟨by decide +kernel, by decide +kernel⟩

theorem wit_ResultsArrive :
    (3 < 12 ∧
      ((summing (SumVal.z 3 65535 1) 100).dom 3).sums = [(100, SumVal.z 3 65535 1)] ∧
        3 < 4 ∧ 100 ≤ ((summing (SumVal.z 3 65535 1) 100).dom 3).cyc ∧ (summing (SumVal.z 3 65535 1) 100).canRun 3 100 = true)
    ∧ (3 < 12 ∧
      15 < 16 ∧
        ((summing (SumVal.q 15 7 true) 99).dom 3).sums = [(99, SumVal.q 15 (7#32) true)] ∧
          99 < ((summing (SumVal.q 15 7 true) 99).dom 3).cyc ∧ (summing (SumVal.q 15 7 true) 99).canRun 3 99 = true)
    ∧ (3 < 12 ∧
      ((sampling 1).dom 3).smps = [smpJob [[(7, 1065353216), (8, 1073741824)]]] ∧
        ((sampling 1).dom 3).emits = [] ∧
          (sampling 1).canRun 3 (smpJob [[(7, 1065353216), (8, 1073741824)]]).due = true ∧
        (smpJob [[(7, 1065353216), (8, 1073741824)]]).ctx < 256 ∧
        (sampling 1).rankPart 3 (smpJob [[(7, 1065353216), (8, 1073741824)]]).rank < 12 ∧
        (sampling 1).ctxState ((sampling 1).rankPart 3 (smpJob [[(7, 1065353216), (8, 1073741824)]]).rank)
        (smpJob [[(7, 1065353216), (8, 1073741824)]]).ctx ≠
        0 ∧
        (sampling 1).samples ((sampling 1).rankPart 3 (smpJob [[(7, 1065353216), (8, 1073741824)]]).rank)
        (smpJob [[(7, 1065353216), (8, 1073741824)]]).ctx =
        false ∧
        (smpJob [[(7, 1065353216), (8, 1073741824)]]).dst < 31)
    ∧ (3 < 12 ∧
      ((sampling 2).dom 3).smps = [smpJob [[(7, 1065353216), (8, 1073741824)]]] ∧
        ((sampling 2).dom 3).emits = [] ∧
          (sampling 2).canRun 3 (smpJob [[(7, 1065353216), (8, 1073741824)]]).due = true ∧
        (smpJob [[(7, 1065353216), (8, 1073741824)]]).ctx < 256 ∧
        (sampling 2).rankPart 3 (smpJob [[(7, 1065353216), (8, 1073741824)]]).rank < 12 ∧
        (sampling 2).samples ((sampling 2).rankPart 3 (smpJob [[(7, 1065353216), (8, 1073741824)]]).rank)
        (smpJob [[(7, 1065353216), (8, 1073741824)]]).ctx =
        true ∧
        (smpJob [[(7, 1065353216), (8, 1073741824)]]).dst < 31 ∧
        (smpJob [[(7, 1065353216), (8, 1073741824)]]).logits = [[(7, 1065353216), (8, 1073741824)]] ∧
        sample
        ((sampling 2).sampleCfg ((sampling 2).rankPart 3 (smpJob [[(7, 1065353216), (8, 1073741824)]]).rank)
        (smpJob [[(7, 1065353216), (8, 1073741824)]]).ctx)
        ((sampling 2).ctx ((sampling 2).rankPart 3 (smpJob [[(7, 1065353216), (8, 1073741824)]]).rank)
        (smpJob [[(7, 1065353216), (8, 1073741824)]]).ctx).penalty
        [(7, 1065353216), (8, 1073741824)]
        ((sampling 2).ctxLen ((sampling 2).rankPart 3 (smpJob [[(7, 1065353216), (8, 1073741824)]]).rank)
        (smpJob [[(7, 1065353216), (8, 1073741824)]]).ctx) =
        some 8)
    ∧ (3 < 12 ∧
      ((emitting false).dom 3).emits = [emitJob false] ∧
        ((emitting false).dom 3).smps = [] ∧
          (emitting false).canRun 3 (emitJob false).due = true ∧
        (emitJob false).ctx < 256 ∧
        (emitJob false).data = false ∧
        (emitting false).rankPart 3 (emitJob false).rank < 12 ∧
        (emitting false).ctxState ((emitting false).rankPart 3 (emitJob false).rank) (emitJob false).ctx ≠ 0)
    ∧ (3 < 12 ∧
      ((emitting true).dom 3).emits = [emitJob true] ∧
        ((emitting true).dom 3).smps = [] ∧
          (emitting true).canRun 3 (emitJob true).due = true ∧
        (emitJob true).ctx < 256 ∧
        (emitJob true).data = true ∧
        (emitting true).rankPart 3 (emitJob true).rank < 12 ∧
        (emitting true).ctxState ((emitting true).rankPart 3 (emitJob true).rank) (emitJob true).ctx ≠ 0 ∧
        ((emitting true).srvAt ((emitting true).rankPart 3 (emitJob true).rank)).emitBuf = [] ∧
        (emitJob true).payload.length ≤ 4096) :=
  ⟨by decide +kernel, by decide +kernel, by decide +kernel, by decide +kernel, by decide +kernel, by decide +kernel⟩

theorem wit_RegisterInstructions :
    ((inst wMovi).canIssue 3 = true ∧
      ((inst wMovi).dom 3).hold ≤ ((inst wMovi).dom 3).cyc ∧
        (inst wMovi).fetch 3 = Fetch.word wMovi ∧
          assigned wMovi = true ∧
        clsOf wMovi = 1 ∧
        opOf wMovi = 0 ∧
        wordFault wMovi = none ∧
        ∀ (a : Nat × DueAct), a ∈ ((inst wMovi).dom 3).due → ((inst wMovi).dom 3).cyc + 1 < a.fst)
    ∧ (((inst wAlu).canIssue 3 = true ∧
        ((inst wAlu).dom 3).hold ≤ ((inst wAlu).dom 3).cyc ∧
          (inst wAlu).fetch 3 = Fetch.word wAlu ∧
        assigned wAlu = true ∧
        clsOf wAlu = 1 ∧
        opOf wAlu = 1 ∧
        wordFault wAlu = none ∧
        ∀ (a : Nat × DueAct), a ∈ ((inst wAlu).dom 3).due → ((inst wAlu).dom 3).cyc + 1 < a.fst) ∧
      ((srcRegs wAlu).any fun r => (inst wAlu).regBusy 3 r) = false)
    ∧ (((inst wCmpp).canIssue 3 = true ∧
        ((inst wCmpp).dom 3).hold ≤ ((inst wCmpp).dom 3).cyc ∧
          (inst wCmpp).fetch 3 = Fetch.word wCmpp ∧
        assigned wCmpp = true ∧
        clsOf wCmpp = 1 ∧
        opOf wCmpp = 2 ∧
        wordFault wCmpp = none ∧
        ∀ (a : Nat × DueAct), a ∈ ((inst wCmpp).dom 3).due → ((inst wCmpp).dom 3).cyc + 1 < a.fst) ∧
      ((srcRegs wCmpp).any fun r => (inst wCmpp).regBusy 3 r) = false)
    ∧ ((inst wRdf).canIssue 3 = true ∧
      ((inst wRdf).dom 3).hold ≤ ((inst wRdf).dom 3).cyc ∧
        (inst wRdf).fetch 3 = Fetch.word wRdf ∧
          assigned wRdf = true ∧
        clsOf wRdf = 1 ∧
        opOf wRdf = 3 ∧
        wordFault wRdf = none ∧ ∀ (a : Nat × DueAct), a ∈ ((inst wRdf).dom 3).due → ((inst wRdf).dom 3).cyc + 1 < a.fst)
    ∧ ((inst wRdt).canIssue 3 = true ∧
      ((inst wRdt).dom 3).hold ≤ ((inst wRdt).dom 3).cyc ∧
        (inst wRdt).fetch 3 = Fetch.word wRdt ∧
          assigned wRdt = true ∧
        clsOf wRdt = 1 ∧
        opOf wRdt = 4 ∧
        wordFault wRdt = none ∧ ∀ (a : Nat × DueAct), a ∈ ((inst wRdt).dom 3).due → ((inst wRdt).dom 3).cyc + 1 < a.fst)
    ∧ ((inst wRdz).canIssue 3 = true ∧
      ((inst wRdz).dom 3).hold ≤ ((inst wRdz).dom 3).cyc ∧
        (inst wRdz).fetch 3 = Fetch.word wRdz ∧
          assigned wRdz = true ∧
        clsOf wRdz = 1 ∧
        opOf wRdz = 5 ∧
        wordFault wRdz = none ∧ ∀ (a : Nat × DueAct), a ∈ ((inst wRdz).dom 3).due → ((inst wRdz).dom 3).cyc + 1 < a.fst) :=
  ⟨by decide +kernel, by decide +kernel, by decide +kernel, by decide +kernel, by decide +kernel, by decide +kernel⟩

theorem wit_WordAccessesIssue :
    (((inst wLdw).canIssue 3 = true ∧
        ((inst wLdw).dom 3).hold ≤ ((inst wLdw).dom 3).cyc ∧
          (inst wLdw).fetch 3 = Fetch.word wLdw ∧
        assigned wLdw = true ∧
        clsOf wLdw = 2 ∧
        opOf wLdw = 0 ∧
        wordFault wLdw = none ∧
        ∀ (a : Nat × DueAct), a ∈ ((inst wLdw).dom 3).due → ((inst wLdw).dom 3).cyc + 1 < a.fst) ∧
      ([32 + fld wLdw 37 34].any fun r => (inst wLdw).regBusy 3 r) = false ∧
        (inst wLdw).relWait 3 wLdw = false ∧
          ∀ (a : Nat), a ∈ (inst wLdw).live 3 (inst wLdw).bulk.core wLdw → memOk (inst wLdw).bulk.core a wLdw = true)
    ∧ (((inst wLda).canIssue 3 = true ∧
        ((inst wLda).dom 3).hold ≤ ((inst wLda).dom 3).cyc ∧
          (inst wLda).fetch 3 = Fetch.word wLda ∧
        assigned wLda = true ∧
        clsOf wLda = 2 ∧
        opOf wLda = 1 ∧
        wordFault wLda = none ∧
        ∀ (a : Nat × DueAct), a ∈ ((inst wLda).dom 3).due → ((inst wLda).dom 3).cyc + 1 < a.fst) ∧
      ([32 + fld wLda 37 34].any fun r => (inst wLda).regBusy 3 r) = false ∧
        (inst wLda).relWait 3 wLda = false ∧
          ∀ (a : Nat), a ∈ (inst wLda).live 3 (inst wLda).bulk.core wLda → memOk (inst wLda).bulk.core a wLda = true)
    ∧ (((inst wSt).canIssue 3 = true ∧
        ((inst wSt).dom 3).hold ≤ ((inst wSt).dom 3).cyc ∧
          (inst wSt).fetch 3 = Fetch.word wSt ∧
        assigned wSt = true ∧
        clsOf wSt = 2 ∧
        opOf wSt = 2 ∧
        wordFault wSt = none ∧
        ∀ (a : Nat × DueAct), a ∈ ((inst wSt).dom 3).due → ((inst wSt).dom 3).cyc + 1 < a.fst) ∧
      ([32 + fld wSt 37 34, fld wSt 43 38].any fun r => (inst wSt).regBusy 3 r) = false ∧
        (inst wSt).relWait 3 wSt = false ∧
          ∀ (a : Nat), a ∈ (inst wSt).live 3 (inst wSt).bulk.core wSt → memOk (inst wSt).bulk.core a wSt = true)
    ∧ (([32 + fld wLdwBad 37 34].any fun r => (inst wLdwBad).regBusy 3 r) = false ∧
      (inst wLdwBad).relWait 3 wLdwBad = false ∧
        (∃ a, a ∈ (inst wLdwBad).live 3 (inst wLdwBad).bulk.core wLdwBad ∧ memOk (inst wLdwBad).bulk.core a wLdwBad = false) ∧
          (inst wLdwBad).canIssue 3 = true ∧
        ((inst wLdwBad).dom 3).hold ≤ ((inst wLdwBad).dom 3).cyc ∧
        (inst wLdwBad).fetch 3 = Fetch.word wLdwBad ∧
        assigned wLdwBad = true ∧
        clsOf wLdwBad = 2 ∧
        opOf wLdwBad = 0 ∧
        wordFault wLdwBad = none ∧
        ∀ (a : Nat × DueAct), a ∈ ((inst wLdwBad).dom 3).due → ((inst wLdwBad).dom 3).cyc + 1 < a.fst)
    ∧ (([32 + fld wLdaBad 37 34].any fun r => (inst wLdaBad).regBusy 3 r) = false ∧
      (inst wLdaBad).relWait 3 wLdaBad = false ∧
        (∃ a, a ∈ (inst wLdaBad).live 3 (inst wLdaBad).bulk.core wLdaBad ∧ memOk (inst wLdaBad).bulk.core a wLdaBad = false) ∧
          (inst wLdaBad).canIssue 3 = true ∧
        ((inst wLdaBad).dom 3).hold ≤ ((inst wLdaBad).dom 3).cyc ∧
        (inst wLdaBad).fetch 3 = Fetch.word wLdaBad ∧
        assigned wLdaBad = true ∧
        clsOf wLdaBad = 2 ∧
        opOf wLdaBad = 1 ∧
        wordFault wLdaBad = none ∧
        ∀ (a : Nat × DueAct), a ∈ ((inst wLdaBad).dom 3).due → ((inst wLdaBad).dom 3).cyc + 1 < a.fst)
    ∧ (([32 + fld wStBad 37 34].any fun r => (inst wStBad).regBusy 3 r) = false ∧
      (inst wStBad).relWait 3 wStBad = false ∧
        (∃ a, a ∈ (inst wStBad).live 3 (inst wStBad).bulk.core wStBad ∧ memOk (inst wStBad).bulk.core a wStBad = false) ∧
          ((inst wStBad).canIssue 3 = true ∧
        ((inst wStBad).dom 3).hold ≤ ((inst wStBad).dom 3).cyc ∧
        (inst wStBad).fetch 3 = Fetch.word wStBad ∧
        assigned wStBad = true ∧
        clsOf wStBad = 2 ∧
        opOf wStBad = 2 ∧
        wordFault wStBad = none ∧
        ∀ (a : Nat × DueAct), a ∈ ((inst wStBad).dom 3).due → ((inst wStBad).dom 3).cyc + 1 < a.fst) ∧
        ([32 + fld wStBad 37 34, fld wStBad 43 38].any fun r => (inst wStBad).regBusy 3 r) = false) :=
  ⟨by decide +kernel, by decide +kernel, by decide +kernel, by decide +kernel, by decide +kernel, by decide +kernel⟩

theorem wit_ControlFlow_a :
    ((inst wNop).canIssue 3 = true ∧
      ((inst wNop).dom 3).hold ≤ ((inst wNop).dom 3).cyc ∧
        (inst wNop).fetch 3 = Fetch.word wNop ∧
          assigned wNop = true ∧
        clsOf wNop = 0 ∧
        opOf wNop = 0 ∧
        wordFault wNop = none ∧ ∀ (a : Nat × DueAct), a ∈ ((inst wNop).dom 3).due → ((inst wNop).dom 3).cyc + 1 < a.fst)
    ∧ (((inst wNop).dom 3).loops = [] ∧ ((inst wNop).dom 3).call = none)
    ∧ (((looping [level]).dom 3).loops = [] ++ [level] ∧
      ((looping [level]).dom 3).call = none ∧ ((looping [level]).dom 3).pc = level.last ∧ 1 < level.remaining)
    ∧ ((calling.dom 3).loops = [] ∧ (calling.dom 3).call = some active ∧ (calling.dom 3).pc = active.last)
    ∧ (((inst wLoop).canIssue 3 = true ∧
        ((inst wLoop).dom 3).hold ≤ ((inst wLoop).dom 3).cyc ∧
          (inst wLoop).fetch 3 = Fetch.word wLoop ∧
        assigned wLoop = true ∧
        clsOf wLoop = 0 ∧
        opOf wLoop = 1 ∧
        wordFault wLoop = none ∧
        ∀ (a : Nat × DueAct), a ∈ ((inst wLoop).dom 3).due → ((inst wLoop).dom 3).cyc + 1 < a.fst) ∧
      (fld wLoop 35 35 = 1 → (inst wLoop).sumSafe 3 false (fld wLoop 3 0) = true) ∧
        (if fld wLoop 35 35 = 1 then (inst wLoop).get (Reg.SEQ_Q.VALUE 3 (fld wLoop 3 0)) else fld wLoop 15 0) ≠ 0 ∧
          ((inst wLoop).dom 3).loops.length < 4 ∧
        ((inst wLoop).dom 3).bodyFits (((inst wLoop).dom 3).pc + 1) (((inst wLoop).dom 3).pc + fld wLoop 47 36 + 1) = true)
    ∧ (((inst wSkip).canIssue 3 = true ∧
        ((inst wSkip).dom 3).hold ≤ ((inst wSkip).dom 3).cyc ∧
          (inst wSkip).fetch 3 = Fetch.word wSkip ∧
        assigned wSkip = true ∧
        clsOf wSkip = 0 ∧
        opOf wSkip = 1 ∧
        wordFault wSkip = none ∧
        ∀ (a : Nat × DueAct), a ∈ ((inst wSkip).dom 3).due → ((inst wSkip).dom 3).cyc + 1 < a.fst) ∧
      (fld wSkip 35 35 = 1 → (inst wSkip).sumSafe 3 false (fld wSkip 3 0) = true) ∧
        (if fld wSkip 35 35 = 1 then (inst wSkip).get (Reg.SEQ_Q.VALUE 3 (fld wSkip 3 0)) else fld wSkip 15 0) = 0) :=
  ⟨by decide +kernel, by decide +kernel, by decide +kernel, by decide +kernel, by decide +kernel, by decide +kernel⟩

theorem wit_ControlFlow_b :
    (((inst wJmp).canIssue 3 = true ∧
        ((inst wJmp).dom 3).hold ≤ ((inst wJmp).dom 3).cyc ∧
          (inst wJmp).fetch 3 = Fetch.word wJmp ∧
        assigned wJmp = true ∧
        clsOf wJmp = 0 ∧
        opOf wJmp = 2 ∧
        wordFault wJmp = none ∧
        ∀ (a : Nat × DueAct), a ∈ ((inst wJmp).dom 3).due → ((inst wJmp).dom 3).cyc + 1 < a.fst) ∧
      ((inst wJmp).dom 3).call = none)
    ∧ (((inst wBrs).canIssue 3 = true ∧
        ((inst wBrs).dom 3).hold ≤ ((inst wBrs).dom 3).cyc ∧
          (inst wBrs).fetch 3 = Fetch.word wBrs ∧
        assigned wBrs = true ∧
        clsOf wBrs = 0 ∧
        opOf wBrs = 3 ∧
        wordFault wBrs = none ∧
        ∀ (a : Nat × DueAct), a ∈ ((inst wBrs).dom 3).due → ((inst wBrs).dom 3).cyc + 1 < a.fst) ∧
      (inst wBrs).sumSafe 3 (brsOnZ wBrs) (brsReads wBrs) = true ∧
        ((inst wBrs).dom 3).call = none ∧ (inst wBrs).brsCond 3 wBrs = true)
    ∧ (((inst wBrsNot).canIssue 3 = true ∧
        ((inst wBrsNot).dom 3).hold ≤ ((inst wBrsNot).dom 3).cyc ∧
          (inst wBrsNot).fetch 3 = Fetch.word wBrsNot ∧
        assigned wBrsNot = true ∧
        clsOf wBrsNot = 0 ∧
        opOf wBrsNot = 3 ∧
        wordFault wBrsNot = none ∧
        ∀ (a : Nat × DueAct), a ∈ ((inst wBrsNot).dom 3).due → ((inst wBrsNot).dom 3).cyc + 1 < a.fst) ∧
      (inst wBrsNot).sumSafe 3 (brsOnZ wBrsNot) (brsReads wBrsNot) = true ∧ (inst wBrsNot).brsCond 3 wBrsNot = false)
    ∧ (((Tests.observing (zOnWay wBrsSum)).canIssue 3 = true ∧
        ((Tests.observing (zOnWay wBrsSum)).dom 3).hold ≤ ((Tests.observing (zOnWay wBrsSum)).dom 3).cyc ∧
          (Tests.observing (zOnWay wBrsSum)).fetch 3 = Fetch.word wBrsSum ∧
        assigned wBrsSum = true ∧
        clsOf wBrsSum = 0 ∧
        opOf wBrsSum = 3 ∧
        wordFault wBrsSum = none ∧
        ∀ (a : Nat × DueAct),
        a ∈ ((Tests.observing (zOnWay wBrsSum)).dom 3).due →
        ((Tests.observing (zOnWay wBrsSum)).dom 3).cyc + 1 < a.fst) ∧
      (Tests.observing (zOnWay wBrsSum)).sumSafe 3 (brsOnZ wBrsSum) (brsReads wBrsSum) = true ∧
        (Tests.observing (zOnWay wBrsSum)).brsCond 3 wBrsSum = false)
    ∧ (((debugging (zOnWay wBrs)).canIssue 3 = true ∧
        ((debugging (zOnWay wBrs)).dom 3).hold ≤ ((debugging (zOnWay wBrs)).dom 3).cyc ∧
          (debugging (zOnWay wBrs)).fetch 3 = Fetch.word wBrs ∧
        assigned wBrs = true ∧
        clsOf wBrs = 0 ∧
        opOf wBrs = 3 ∧
        wordFault wBrs = none ∧
        ∀ (a : Nat × DueAct),
        a ∈ ((debugging (zOnWay wBrs)).dom 3).due → ((debugging (zOnWay wBrs)).dom 3).cyc + 1 < a.fst) ∧
      (debugging (zOnWay wBrs)).hazardHalts = true ∧ (debugging (zOnWay wBrs)).sumRace 3 (brsOnZ wBrs) (brsReads wBrs) = true)
    ∧ ((routine.canIssue 3 = true ∧
        (routine.dom 3).hold ≤ (routine.dom 3).cyc ∧
          routine.fetch 3 = Fetch.word wCall ∧
        assigned wCall = true ∧
        clsOf wCall = 0 ∧
        opOf wCall = 4 ∧
        wordFault wCall = none ∧ ∀ (a : Nat × DueAct), a ∈ (routine.dom 3).due → (routine.dom 3).cyc + 1 < a.fst) ∧
      (routine.dom 3).call = none ∧
        routine.get (Reg.SEQ_ROUTINE_LO.VALID 3 (fld wCall 37 32)) = 1 ∧
          routine.get (Reg.SEQ_ROUTINE_HI.VERSION 3 (fld wCall 37 32)) = fld wCall 47 40 ∧
        routine.get (Reg.SEQ_ROUTINE_LO.LENGTH 3 (fld wCall 37 32)) ≠ 0 ∧
        routine.get (Reg.SEQ_ROUTINE_LO.LENGTH 3 (fld wCall 37 32)) ≤ 4096 ∧
        routine.resident 3 (routine.get (Reg.SEQ_ROUTINE_LO.ENTRY 3 (fld wCall 37 32)))
        (routine.get (Reg.SEQ_ROUTINE_LO.LENGTH 3 (fld wCall 37 32))) =
        true) :=
  ⟨by decide +kernel, by decide +kernel, by decide +kernel, by decide +kernel, by decide +kernel, by decide +kernel⟩

theorem wit_SequencerStateInstructions_a :
    (((inst wEndc).canIssue 3 = true ∧
        ((inst wEndc).dom 3).hold ≤ ((inst wEndc).dom 3).cyc ∧
          (inst wEndc).fetch 3 = Fetch.word wEndc ∧
        assigned wEndc = true ∧
        clsOf wEndc = 0 ∧
        opOf wEndc = 5 ∧
        wordFault wEndc = none ∧
        ∀ (a : Nat × DueAct), a ∈ ((inst wEndc).dom 3).due → ((inst wEndc).dom 3).cyc + 1 < a.fst) ∧
      ((inst wEndc).dom 3).call = none)
    ∧ (((inst wOvl).canIssue 3 = true ∧
        ((inst wOvl).dom 3).hold ≤ ((inst wOvl).dom 3).cyc ∧
          (inst wOvl).fetch 3 = Fetch.word wOvl ∧
        assigned wOvl = true ∧
        clsOf wOvl = 0 ∧
        opOf wOvl = 6 ∧
        wordFault wOvl = none ∧
        ∀ (a : Nat × DueAct), a ∈ ((inst wOvl).dom 3).due → ((inst wOvl).dom 3).cyc + 1 < a.fst) ∧
      (inst wOvl).bankPlace 3 (fld wOvl 47 40) = some (3, 11) ∧
        (inst wOvl).get (Reg.SEQ_BANK.RESIDENT 3 11) = 0 ∧
          fld wOvl 29 14 % 8192 ≤ 8184 ∧
        fld wOvl 39 30 < 576 ∧
        ((inst wOvl).members 3).contains (partOf (fld wOvl 39 30)) = true ∧
        (inst wOvl).sliceReady (fld wOvl 39 30) (fld wOvl 29 14 / 8192) = true ∧
        ((inst wOvl).dom 3).ovq.length < 4 ∧
        (inst wOvl).get (Reg.SEQ_BANK.STATE 3 11) < 2 ∧ (inst wOvl).get (Reg.SEQ_BANK.QUEUED 3 11) < 4)
    ∧ ((inst wSetq).canIssue 3 = true ∧
      ((inst wSetq).dom 3).hold ≤ ((inst wSetq).dom 3).cyc ∧
        (inst wSetq).fetch 3 = Fetch.word wSetq ∧
          assigned wSetq = true ∧
        clsOf wSetq = 0 ∧
        opOf wSetq = 7 ∧
        wordFault wSetq = none ∧
        ∀ (a : Nat × DueAct), a ∈ ((inst wSetq).dom 3).due → ((inst wSetq).dom 3).cyc + 1 < a.fst)
    ∧ (((inst wAddq).canIssue 3 = true ∧
        ((inst wAddq).dom 3).hold ≤ ((inst wAddq).dom 3).cyc ∧
          (inst wAddq).fetch 3 = Fetch.word wAddq ∧
        assigned wAddq = true ∧
        clsOf wAddq = 0 ∧
        opOf wAddq = 8 ∧
        wordFault wAddq = none ∧
        ∀ (a : Nat × DueAct), a ∈ ((inst wAddq).dom 3).due → ((inst wAddq).dom 3).cyc + 1 < a.fst) ∧
      (inst wAddq).sumSafe 3 false (fld wAddq 35 32) = true)
    ∧ ((((inst2 wSetq wLoopQ).canIssue 3 = true ∧
          ((inst2 wSetq wLoopQ).dom 3).hold ≤ ((inst2 wSetq wLoopQ).dom 3).cyc ∧
        (inst2 wSetq wLoopQ).fetch 3 = Fetch.word wSetq ∧
        assigned wSetq = true ∧
        clsOf wSetq = 0 ∧
        (opOf wSetq = if false = true then 8 else 7) ∧
        wordFault wSetq = none ∧
        ∀ (a : Nat × DueAct),
        a ∈ ((inst2 wSetq wLoopQ).dom 3).due → ((inst2 wSetq wLoopQ).dom 3).cyc + 1 < a.fst) ∧
        (false = true → (inst2 wSetq wLoopQ).sumSafe 3 false (fld wSetq 35 32) = true) ∧
          exec (if false = true then Instr.addq 3 else Instr.setq 3) (inst2 wSetq wLoopQ) =
        Host.Outcome.next (left (exec (Instr.setq 3) (inst2 wSetq wLoopQ))) ∧
        ((left (exec (Instr.setq 3) (inst2 wSetq wLoopQ))).canIssue 3 = true ∧
        ((left (exec (Instr.setq 3) (inst2 wSetq wLoopQ))).dom 3).hold ≤
        ((left (exec (Instr.setq 3) (inst2 wSetq wLoopQ))).dom 3).cyc ∧
        (left (exec (Instr.setq 3) (inst2 wSetq wLoopQ))).fetch 3 = Fetch.word wLoopQ ∧
        assigned wLoopQ = true ∧
        clsOf wLoopQ = 0 ∧
        opOf wLoopQ = 1 ∧
        wordFault wLoopQ = none ∧
        ∀ (a : Nat × DueAct),
        a ∈ ((left (exec (Instr.setq 3) (inst2 wSetq wLoopQ))).dom 3).due →
        ((left (exec (Instr.setq 3) (inst2 wSetq wLoopQ))).dom 3).cyc + 1 < a.fst) ∧
        (left (exec (Instr.setq 3) (inst2 wSetq wLoopQ))).sumSafe 3 false (fld wSetq 35 32) = true) ∧
      fld wLoopQ 35 35 = 1 ∧
        fld wLoopQ 3 0 = fld wSetq 35 32 ∧
          BitVec.toNat (qAfter (inst2 wSetq wLoopQ) 3 wSetq false) ≠ 0 ∧
        ((left (exec (Instr.setq 3) (inst2 wSetq wLoopQ))).dom 3).loops.length < 4 ∧
        ((left (exec (Instr.setq 3) (inst2 wSetq wLoopQ))).dom 3).bodyFits
        (((left (exec (Instr.setq 3) (inst2 wSetq wLoopQ))).dom 3).pc + 1)
        (((left (exec (Instr.setq 3) (inst2 wSetq wLoopQ))).dom 3).pc + fld wLoopQ 47 36 + 1) =
        true)
    ∧ ((((inst2 wAddqZero wLoopQ).canIssue 3 = true ∧
          ((inst2 wAddqZero wLoopQ).dom 3).hold ≤ ((inst2 wAddqZero wLoopQ).dom 3).cyc ∧
        (inst2 wAddqZero wLoopQ).fetch 3 = Fetch.word wAddqZero ∧
        assigned wAddqZero = true ∧
        clsOf wAddqZero = 0 ∧
        (opOf wAddqZero = if true = true then 8 else 7) ∧
        wordFault wAddqZero = none ∧
        ∀ (a : Nat × DueAct),
        a ∈ ((inst2 wAddqZero wLoopQ).dom 3).due → ((inst2 wAddqZero wLoopQ).dom 3).cyc + 1 < a.fst) ∧
        (true = true → (inst2 wAddqZero wLoopQ).sumSafe 3 false (fld wAddqZero 35 32) = true) ∧
          exec (if true = true then Instr.addq 3 else Instr.setq 3) (inst2 wAddqZero wLoopQ) =
        Host.Outcome.next (left (exec (Instr.addq 3) (inst2 wAddqZero wLoopQ))) ∧
        ((left (exec (Instr.addq 3) (inst2 wAddqZero wLoopQ))).canIssue 3 = true ∧
        ((left (exec (Instr.addq 3) (inst2 wAddqZero wLoopQ))).dom 3).hold ≤
        ((left (exec (Instr.addq 3) (inst2 wAddqZero wLoopQ))).dom 3).cyc ∧
        (left (exec (Instr.addq 3) (inst2 wAddqZero wLoopQ))).fetch 3 = Fetch.word wLoopQ ∧
        assigned wLoopQ = true ∧
        clsOf wLoopQ = 0 ∧
        opOf wLoopQ = 1 ∧
        wordFault wLoopQ = none ∧
        ∀ (a : Nat × DueAct),
        a ∈ ((left (exec (Instr.addq 3) (inst2 wAddqZero wLoopQ))).dom 3).due →
        ((left (exec (Instr.addq 3) (inst2 wAddqZero wLoopQ))).dom 3).cyc + 1 < a.fst) ∧
        (left (exec (Instr.addq 3) (inst2 wAddqZero wLoopQ))).sumSafe 3 false (fld wAddqZero 35 32) = true) ∧
      fld wLoopQ 35 35 = 1 ∧
        fld wLoopQ 3 0 = fld wAddqZero 35 32 ∧ BitVec.toNat (qAfter (inst2 wAddqZero wLoopQ) 3 wAddqZero true) = 0) :=
  ⟨by decide +kernel, by decide +kernel, by decide +kernel, by decide +kernel, ⟨⟨by decide +kernel, by decide +kernel, next_left (by decide +kernel), by decide +kernel, by decide +kernel⟩, by decide +kernel, by decide +kernel, by decide +kernel, by decide +kernel, by decide +kernel⟩, ⟨⟨by decide +kernel, by decide +kernel, next_left (by decide +kernel), by decide +kernel, by decide +kernel⟩, by decide +kernel, by decide +kernel, by decide +kernel⟩⟩

theorem wit_SequencerStateInstructions_b :
    ((((inst2 wSetq wBrsQ).canIssue 3 = true ∧
          ((inst2 wSetq wBrsQ).dom 3).hold ≤ ((inst2 wSetq wBrsQ).dom 3).cyc ∧
        (inst2 wSetq wBrsQ).fetch 3 = Fetch.word wSetq ∧
        assigned wSetq = true ∧
        clsOf wSetq = 0 ∧
        (opOf wSetq = if false = true then 8 else 7) ∧
        wordFault wSetq = none ∧
        ∀ (a : Nat × DueAct), a ∈ ((inst2 wSetq wBrsQ).dom 3).due → ((inst2 wSetq wBrsQ).dom 3).cyc + 1 < a.fst) ∧
        (false = true → (inst2 wSetq wBrsQ).sumSafe 3 false (fld wSetq 35 32) = true) ∧
          exec (if false = true then Instr.addq 3 else Instr.setq 3) (inst2 wSetq wBrsQ) =
        Host.Outcome.next (left (exec (Instr.setq 3) (inst2 wSetq wBrsQ))) ∧
        ((left (exec (Instr.setq 3) (inst2 wSetq wBrsQ))).canIssue 3 = true ∧
        ((left (exec (Instr.setq 3) (inst2 wSetq wBrsQ))).dom 3).hold ≤
        ((left (exec (Instr.setq 3) (inst2 wSetq wBrsQ))).dom 3).cyc ∧
        (left (exec (Instr.setq 3) (inst2 wSetq wBrsQ))).fetch 3 = Fetch.word wBrsQ ∧
        assigned wBrsQ = true ∧
        clsOf wBrsQ = 0 ∧
        opOf wBrsQ = 3 ∧
        wordFault wBrsQ = none ∧
        ∀ (a : Nat × DueAct),
        a ∈ ((left (exec (Instr.setq 3) (inst2 wSetq wBrsQ))).dom 3).due →
        ((left (exec (Instr.setq 3) (inst2 wSetq wBrsQ))).dom 3).cyc + 1 < a.fst) ∧
        (left (exec (Instr.setq 3) (inst2 wSetq wBrsQ))).sumSafe 3 false (fld wSetq 35 32) = true) ∧
      brsOnZ wBrsQ = false ∧
        brsReads wBrsQ = fld wSetq 35 32 ∧ ((left (exec (Instr.setq 3) (inst2 wSetq wBrsQ))).dom 3).call = none)
    ∧ ((((inst2 wAddq wBrsQ).canIssue 3 = true ∧
          ((inst2 wAddq wBrsQ).dom 3).hold ≤ ((inst2 wAddq wBrsQ).dom 3).cyc ∧
        (inst2 wAddq wBrsQ).fetch 3 = Fetch.word wAddq ∧
        assigned wAddq = true ∧
        clsOf wAddq = 0 ∧
        (opOf wAddq = if true = true then 8 else 7) ∧
        wordFault wAddq = none ∧
        ∀ (a : Nat × DueAct), a ∈ ((inst2 wAddq wBrsQ).dom 3).due → ((inst2 wAddq wBrsQ).dom 3).cyc + 1 < a.fst) ∧
        (true = true → (inst2 wAddq wBrsQ).sumSafe 3 false (fld wAddq 35 32) = true) ∧
          exec (if true = true then Instr.addq 3 else Instr.setq 3) (inst2 wAddq wBrsQ) =
        Host.Outcome.next (left (exec (Instr.addq 3) (inst2 wAddq wBrsQ))) ∧
        ((left (exec (Instr.addq 3) (inst2 wAddq wBrsQ))).canIssue 3 = true ∧
        ((left (exec (Instr.addq 3) (inst2 wAddq wBrsQ))).dom 3).hold ≤
        ((left (exec (Instr.addq 3) (inst2 wAddq wBrsQ))).dom 3).cyc ∧
        (left (exec (Instr.addq 3) (inst2 wAddq wBrsQ))).fetch 3 = Fetch.word wBrsQ ∧
        assigned wBrsQ = true ∧
        clsOf wBrsQ = 0 ∧
        opOf wBrsQ = 3 ∧
        wordFault wBrsQ = none ∧
        ∀ (a : Nat × DueAct),
        a ∈ ((left (exec (Instr.addq 3) (inst2 wAddq wBrsQ))).dom 3).due →
        ((left (exec (Instr.addq 3) (inst2 wAddq wBrsQ))).dom 3).cyc + 1 < a.fst) ∧
        (left (exec (Instr.addq 3) (inst2 wAddq wBrsQ))).sumSafe 3 false (fld wAddq 35 32) = true) ∧
      brsOnZ wBrsQ = false ∧
        brsReads wBrsQ = fld wAddq 35 32 ∧ ((left (exec (Instr.addq 3) (inst2 wAddq wBrsQ))).dom 3).call = none) :=
  ⟨⟨⟨by decide +kernel, by decide +kernel, next_left (by decide +kernel), by decide +kernel, by decide +kernel⟩, by decide +kernel, by decide +kernel, by decide +kernel⟩, ⟨⟨by decide +kernel, by decide +kernel, next_left (by decide +kernel), by decide +kernel, by decide +kernel⟩, by decide +kernel, by decide +kernel, by decide +kernel⟩⟩

theorem wit_HaltStopsTheDomain :
    (((inst wHalt).canIssue 3 = true ∧
        ((inst wHalt).dom 3).hold ≤ ((inst wHalt).dom 3).cyc ∧
          (inst wHalt).fetch 3 = Fetch.word wHalt ∧
        assigned wHalt = true ∧
        clsOf wHalt = 0 ∧
        opOf wHalt = 9 ∧
        wordFault wHalt = none ∧
        ∀ (a : Nat × DueAct), a ∈ ((inst wHalt).dom 3).due → ((inst wHalt).dom 3).cyc + 1 < a.fst) ∧
      ((inst wHalt).dom 3).pc < 2 ^ 17) :=
  by decide +kernel

theorem wit_SynchronisationInstructions :
    (((inst wSemp).canIssue 3 = true ∧
        ((inst wSemp).dom 3).hold ≤ ((inst wSemp).dom 3).cyc ∧
          (inst wSemp).fetch 3 = Fetch.word wSemp ∧
        assigned wSemp = true ∧
        clsOf wSemp = 3 ∧
        opOf wSemp = 0 ∧
        wordFault wSemp = none ∧
        ∀ (a : Nat × DueAct), a ∈ ((inst wSemp).dom 3).due → ((inst wSemp).dom 3).cyc + 1 < a.fst) ∧
      fld wSemp 23 23 = 0 ∧
        ((inst wSemp).dom 3).relC ≤ ((inst wSemp).dom 3).cyc ∧
          ∀ (a : Nat),
        a ∈ (inst wSemp).live 3 (inst wSemp).bulk.core wSemp →
        (inst wSemp).get (Reg.TILE_SEM.VALUE (partOf a) (idxOf a) (fld wSemp 41 37)) + fld wSemp 31 24 +
        (inst wSemp).takenIn false (a * 64 + fld wSemp 41 37) (((inst wSemp).dom 3).wall + 1) ≤
        255 ∧
        nextSem ((inst wSemp).dom 3).frz a (fld wSemp 41 37)
        ((inst wSemp).get (Reg.TILE_SEM.VALUE (partOf a) (idxOf a) (fld wSemp 41 37)) + fld wSemp 31 24) =
        none ∧
        (inst wSemp).leadOf (partOf a) = 3)
    ∧ (((inst wSempFar).canIssue 3 = true ∧
        ((inst wSempFar).dom 3).hold ≤ ((inst wSempFar).dom 3).cyc ∧
          (inst wSempFar).fetch 3 = Fetch.word wSempFar ∧
        assigned wSempFar = true ∧
        clsOf wSempFar = 3 ∧
        opOf wSempFar = 0 ∧
        wordFault wSempFar = none ∧
        ∀ (a : Nat × DueAct), a ∈ ((inst wSempFar).dom 3).due → ((inst wSempFar).dom 3).cyc + 1 < a.fst) ∧
      fld wSempFar 23 23 = 1 ∧
        ([32 + fld wSempFar 22 19].any fun r => (inst wSempFar).regBusy 3 r) = false ∧
          ((inst wSempFar).dom 3).relC ≤ ((inst wSempFar).dom 3).cyc ∧
        ∀ (a : Nat),
        a ∈ (inst wSempFar).live 3 (inst wSempFar).bulk.core wSempFar →
        sempCheck (inst wSempFar).bulk.core wSempFar a = none)
    ∧ (((counters wSemw).canIssue 3 = true ∧
        ((counters wSemw).dom 3).hold ≤ ((counters wSemw).dom 3).cyc ∧
          (counters wSemw).fetch 3 = Fetch.word wSemw ∧
        assigned wSemw = true ∧
        clsOf wSemw = 3 ∧
        opOf wSemw = 1 ∧
        wordFault wSemw = none ∧
        ∀ (a : Nat × DueAct), a ∈ ((counters wSemw).dom 3).due → ((counters wSemw).dom 3).cyc + 1 < a.fst) ∧
      ∀ (a : Nat),
        a ∈ (counters wSemw).live 3 (counters wSemw).bulk.core wSemw →
          fld wSemw 31 24 ≤ (counters wSemw).get (Reg.TILE_SEM.VALUE (partOf a) (idxOf a) (fld wSemw 41 37)))
    ∧ (((inst wSemw).canIssue 3 = true ∧
        ((inst wSemw).dom 3).hold ≤ ((inst wSemw).dom 3).cyc ∧
          (inst wSemw).fetch 3 = Fetch.word wSemw ∧
        assigned wSemw = true ∧
        clsOf wSemw = 3 ∧
        opOf wSemw = 1 ∧
        wordFault wSemw = none ∧
        ∀ (a : Nat × DueAct), a ∈ ((inst wSemw).dom 3).due → ((inst wSemw).dom 3).cyc + 1 < a.fst) ∧
      ∀ (a : Nat),
        a ∈ (inst wSemw).live 3 (inst wSemw).bulk.core wSemw →
          (inst wSemw).get (Reg.TILE_SEM.VALUE (partOf a) (idxOf a) (fld wSemw 41 37)) < fld wSemw 31 24)
    ∧ (((counters wWaitc).canIssue 3 = true ∧
        ((counters wWaitc).dom 3).hold ≤ ((counters wWaitc).dom 3).cyc ∧
          (counters wWaitc).fetch 3 = Fetch.word wWaitc ∧
        assigned wWaitc = true ∧
        clsOf wWaitc = 3 ∧
        opOf wWaitc = 2 ∧
        wordFault wWaitc = none ∧
        ∀ (a : Nat × DueAct), a ∈ ((counters wWaitc).dom 3).due → ((counters wWaitc).dom 3).cyc + 1 < a.fst) ∧
      ((if fld wWaitc 39 39 = 1 then [fld wWaitc 36 32] else []).any fun r => (counters wWaitc).regBusy 3 r) = false ∧
        ∀ (a : Nat),
          a ∈ (counters wWaitc).live 3 (counters wWaitc).bulk.core wWaitc →
        waitcTarget (counters wWaitc).bulk.core wWaitc a < 2 ^ 24 ∧
        waitcTarget (counters wWaitc).bulk.core wWaitc a ≤
        (counters wWaitc).get (Reg.TILE_CAIRN.VALUE (partOf a) (idxOf a) (fld wWaitc 45 40)))
    ∧ (((inst wWaitc).canIssue 3 = true ∧
        ((inst wWaitc).dom 3).hold ≤ ((inst wWaitc).dom 3).cyc ∧
          (inst wWaitc).fetch 3 = Fetch.word wWaitc ∧
        assigned wWaitc = true ∧
        clsOf wWaitc = 3 ∧
        opOf wWaitc = 2 ∧
        wordFault wWaitc = none ∧
        ∀ (a : Nat × DueAct), a ∈ ((inst wWaitc).dom 3).due → ((inst wWaitc).dom 3).cyc + 1 < a.fst) ∧
      ((if fld wWaitc 39 39 = 1 then [fld wWaitc 36 32] else []).any fun r => (inst wWaitc).regBusy 3 r) = false ∧
        ∀ (a : Nat),
          a ∈ (inst wWaitc).live 3 (inst wWaitc).bulk.core wWaitc →
        waitcTarget (inst wWaitc).bulk.core wWaitc a < 2 ^ 24 ∧
        (inst wWaitc).get (Reg.TILE_CAIRN.VALUE (partOf a) (idxOf a) (fld wWaitc 45 40)) <
        waitcTarget (inst wWaitc).bulk.core wWaitc a) :=
  ⟨by decide +kernel, by decide +kernel, by decide +kernel, by decide +kernel, by decide +kernel, by decide +kernel⟩

theorem wit_OrderingInstructions_a :
    (((inst (wRel 0)).canIssue 3 = true ∧
        ((inst (wRel 0)).dom 3).hold ≤ ((inst (wRel 0)).dom 3).cyc ∧
          (inst (wRel 0)).fetch 3 = Fetch.word (wRel 0) ∧
        assigned (wRel 0) = true ∧
        clsOf (wRel 0) = 3 ∧
        opOf (wRel 0) = 3 ∧
        wordFault (wRel 0) = none ∧
        ∀ (a : Nat × DueAct), a ∈ ((inst (wRel 0)).dom 3).due → ((inst (wRel 0)).dom 3).cyc + 1 < a.fst) ∧
      fld (wRel 0) 35 34 = 0)
    ∧ (fld (wRel 1) 35 34 = 1 ∧
      ((inst (wRel 1)).canIssue 3 = true ∧
          ((inst (wRel 1)).dom 3).hold ≤ ((inst (wRel 1)).dom 3).cyc ∧
        (inst (wRel 1)).fetch 3 = Fetch.word (wRel 1) ∧
        assigned (wRel 1) = true ∧
        clsOf (wRel 1) = 3 ∧
        opOf (wRel 1) = 3 ∧
        wordFault (wRel 1) = none ∧
        ∀ (a : Nat × DueAct), a ∈ ((inst (wRel 1)).dom 3).due → ((inst (wRel 1)).dom 3).cyc + 1 < a.fst) ∧
        ([].any fun r => (inst (wRel 1)).regBusy 3 r) = false ∧
          (∀ (a : Nat), a ∈ (inst (wRel 1)).live 3 (inst (wRel 1)).bulk.core (wRel 1) → true = true) ∧
        (((inst (wRel 1)).dom 3).queue Eng.array).length < 32)
    ∧ (fld (wRel 1) 35 34 = 1 ∧
      ((full (inst (wRel 1))).canIssue 3 = true ∧
          ((full (inst (wRel 1))).dom 3).hold ≤ ((full (inst (wRel 1))).dom 3).cyc ∧
        (full (inst (wRel 1))).fetch 3 = Fetch.word (wRel 1) ∧
        assigned (wRel 1) = true ∧
        clsOf (wRel 1) = 3 ∧
        opOf (wRel 1) = 3 ∧
        wordFault (wRel 1) = none ∧
        ∀ (a : Nat × DueAct),
        a ∈ ((full (inst (wRel 1))).dom 3).due → ((full (inst (wRel 1))).dom 3).cyc + 1 < a.fst) ∧
        ([].any fun r => (full (inst (wRel 1))).regBusy 3 r) = false ∧
          (∀ (a : Nat), a ∈ (full (inst (wRel 1))).live 3 (full (inst (wRel 1))).bulk.core (wRel 1) → true = true) ∧
        32 ≤ (((full (inst (wRel 1))).dom 3).queue Eng.array).length ∧
        (full (inst (wRel 1))).get (Reg.SEQ_STALL_QUEUE.CYCLES 3) + 1 < 2 ^ 32)
    ∧ (fld (wRel 2) 35 34 = 2 ∧
      ((inst (wRel 2)).canIssue 3 = true ∧
          ((inst (wRel 2)).dom 3).hold ≤ ((inst (wRel 2)).dom 3).cyc ∧
        (inst (wRel 2)).fetch 3 = Fetch.word (wRel 2) ∧
        assigned (wRel 2) = true ∧
        clsOf (wRel 2) = 3 ∧
        opOf (wRel 2) = 3 ∧
        wordFault (wRel 2) = none ∧
        ∀ (a : Nat × DueAct), a ∈ ((inst (wRel 2)).dom 3).due → ((inst (wRel 2)).dom 3).cyc + 1 < a.fst) ∧
        ([].any fun r => (inst (wRel 2)).regBusy 3 r) = false ∧
          (∀ (a : Nat), a ∈ (inst (wRel 2)).live 3 (inst (wRel 2)).bulk.core (wRel 2) → true = true) ∧
        (((inst (wRel 2)).dom 3).queue Eng.vector).length < 32)
    ∧ (fld (wRel 2) 35 34 = 2 ∧
      ((full (inst (wRel 2))).canIssue 3 = true ∧
          ((full (inst (wRel 2))).dom 3).hold ≤ ((full (inst (wRel 2))).dom 3).cyc ∧
        (full (inst (wRel 2))).fetch 3 = Fetch.word (wRel 2) ∧
        assigned (wRel 2) = true ∧
        clsOf (wRel 2) = 3 ∧
        opOf (wRel 2) = 3 ∧
        wordFault (wRel 2) = none ∧
        ∀ (a : Nat × DueAct),
        a ∈ ((full (inst (wRel 2))).dom 3).due → ((full (inst (wRel 2))).dom 3).cyc + 1 < a.fst) ∧
        ([].any fun r => (full (inst (wRel 2))).regBusy 3 r) = false ∧
          (∀ (a : Nat), a ∈ (full (inst (wRel 2))).live 3 (full (inst (wRel 2))).bulk.core (wRel 2) → true = true) ∧
        32 ≤ (((full (inst (wRel 2))).dom 3).queue Eng.vector).length ∧
        (full (inst (wRel 2))).get (Reg.SEQ_STALL_QUEUE.CYCLES 3) + 1 < 2 ^ 32)
    ∧ (fld (wRel 3) 35 34 = 3 ∧
      ((inst (wRel 3)).debug = true →
          ∀ (a : Nat),
        a ∈ (inst (wRel 3)).live 3 (inst (wRel 3)).bulk.core (wRel 3) →
        ((inst (wRel 3)).haz.lands.any fun l => l.observed a && decide (l.srcAsh ≠ a)) = false) ∧
        ((inst (wRel 3)).canIssue 3 = true ∧
        ((inst (wRel 3)).dom 3).hold ≤ ((inst (wRel 3)).dom 3).cyc ∧
        (inst (wRel 3)).fetch 3 = Fetch.word (wRel 3) ∧
        assigned (wRel 3) = true ∧
        clsOf (wRel 3) = 3 ∧
        opOf (wRel 3) = 3 ∧
        wordFault (wRel 3) = none ∧
        ∀ (a : Nat × DueAct), a ∈ ((inst (wRel 3)).dom 3).due → ((inst (wRel 3)).dom 3).cyc + 1 < a.fst) ∧
          ([].any fun r => (inst (wRel 3)).regBusy 3 r) = false ∧
        (∀ (a : Nat), a ∈ (inst (wRel 3)).live 3 (inst (wRel 3)).bulk.core (wRel 3) → true = true) ∧
        (((inst (wRel 3)).dom 3).queue Eng.transfer).length < 32) :=
  ⟨by decide +kernel, by decide +kernel, by decide +kernel, by decide +kernel, by decide +kernel, by decide +kernel⟩

theorem wit_OrderingInstructions_b :
    (fld (wRel 3) 35 34 = 3 ∧
      ((full (inst (wRel 3))).debug = true →
          ∀ (a : Nat),
        a ∈ (full (inst (wRel 3))).live 3 (full (inst (wRel 3))).bulk.core (wRel 3) →
        ((full (inst (wRel 3))).haz.lands.any fun l => l.observed a && decide (l.srcAsh ≠ a)) = false) ∧
        ((full (inst (wRel 3))).canIssue 3 = true ∧
        ((full (inst (wRel 3))).dom 3).hold ≤ ((full (inst (wRel 3))).dom 3).cyc ∧
        (full (inst (wRel 3))).fetch 3 = Fetch.word (wRel 3) ∧
        assigned (wRel 3) = true ∧
        clsOf (wRel 3) = 3 ∧
        opOf (wRel 3) = 3 ∧
        wordFault (wRel 3) = none ∧
        ∀ (a : Nat × DueAct),
        a ∈ ((full (inst (wRel 3))).dom 3).due → ((full (inst (wRel 3))).dom 3).cyc + 1 < a.fst) ∧
          ([].any fun r => (full (inst (wRel 3))).regBusy 3 r) = false ∧
        (∀ (a : Nat), a ∈ (full (inst (wRel 3))).live 3 (full (inst (wRel 3))).bulk.core (wRel 3) → true = true) ∧
        32 ≤ (((full (inst (wRel 3))).dom 3).queue Eng.transfer).length ∧
        (full (inst (wRel 3))).get (Reg.SEQ_STALL_QUEUE.CYCLES 3) + 1 < 2 ^ 32)
    ∧ (((debugging passing).canIssue 3 = true ∧
        ((debugging passing).dom 3).hold ≤ ((debugging passing).dom 3).cyc ∧
          (debugging passing).fetch 3 = Fetch.word (wRel 3) ∧
        assigned (wRel 3) = true ∧
        clsOf (wRel 3) = 3 ∧
        opOf (wRel 3) = 3 ∧
        wordFault (wRel 3) = none ∧
        ∀ (a : Nat × DueAct), a ∈ ((debugging passing).dom 3).due → ((debugging passing).dom 3).cyc + 1 < a.fst) ∧
      fld (wRel 3) 35 34 = 3 ∧
        (debugging passing).hazardHalts = true ∧
          ∃ a,
        a ∈ (debugging passing).live 3 (debugging passing).bulk.core (wRel 3) ∧
        ((debugging passing).haz.lands.any fun l => l.observed a && decide (l.srcAsh ≠ a)) = true)
    ∧ (((inst wAcq).canIssue 3 = true ∧
        ((inst wAcq).dom 3).hold ≤ ((inst wAcq).dom 3).cyc ∧
          (inst wAcq).fetch 3 = Fetch.word wAcq ∧
        assigned wAcq = true ∧
        clsOf wAcq = 3 ∧
        opOf wAcq = 4 ∧
        wordFault wAcq = none ∧
        ∀ (a : Nat × DueAct), a ∈ ((inst wAcq).dom 3).due → ((inst wAcq).dom 3).cyc + 1 < a.fst) ∧
      ((inst wAcq).hazardHalts = true →
        ∀ (a : Nat), a ∈ (inst wAcq).live 3 (inst wAcq).bulk.core wAcq → (inst wAcq).scopeMiss a (fld wAcq 33 32) = false))
    ∧ (((debugging mismatched).canIssue 3 = true ∧
        ((debugging mismatched).dom 3).hold ≤ ((debugging mismatched).dom 3).cyc ∧
          (debugging mismatched).fetch 3 = Fetch.word wAcq ∧
        assigned wAcq = true ∧
        clsOf wAcq = 3 ∧
        opOf wAcq = 4 ∧
        wordFault wAcq = none ∧
        ∀ (a : Nat × DueAct),
        a ∈ ((debugging mismatched).dom 3).due → ((debugging mismatched).dom 3).cyc + 1 < a.fst) ∧
      (debugging mismatched).hazardHalts = true ∧
        ∃ a,
          a ∈ (debugging mismatched).live 3 (debugging mismatched).bulk.core wAcq ∧
        (debugging mismatched).scopeMiss a (fld wAcq 33 32) = true)
    ∧ (((inst wFence).canIssue 3 = true ∧
        ((inst wFence).dom 3).hold ≤ ((inst wFence).dom 3).cyc ∧
          (inst wFence).fetch 3 = Fetch.word wFence ∧
        assigned wFence = true ∧
        clsOf wFence = 3 ∧
        opOf wFence = 5 ∧
        wordFault wFence = none ∧
        ∀ (a : Nat × DueAct), a ∈ ((inst wFence).dom 3).due → ((inst wFence).dom 3).cyc + 1 < a.fst) ∧
      ((inst wFence).dom 3).drained (fld wFence 3 0) = true)
    ∧ ((busyArray.canIssue 3 = true ∧
        (busyArray.dom 3).hold ≤ (busyArray.dom 3).cyc ∧
          busyArray.fetch 3 = Fetch.word wFence ∧
        assigned wFence = true ∧
        clsOf wFence = 3 ∧
        opOf wFence = 5 ∧
        wordFault wFence = none ∧
        ∀ (a : Nat × DueAct), a ∈ (busyArray.dom 3).due → (busyArray.dom 3).cyc + 1 < a.fst) ∧
      (busyArray.dom 3).drained (fld wFence 3 0) = false ∧ busyArray.get (Reg.SEQ_STALL_QUEUE.CYCLES 3) + 1 < 2 ^ 32) :=
  ⟨by decide +kernel, by decide +kernel, by decide +kernel, by decide +kernel, by decide +kernel, by decide +kernel⟩

theorem wit_OverlaysLoad :
    (3 < 12 ∧
      overlayQueued.canRun 3 (overlayQueued.dom 3).cyc = true ∧
        overlayQueued.loadCan 3 = true ∧
          (overlayQueued.dom 3).ovq = [ovl3] ∧ overlayQueued.bankPlace 3 ovl3.bank = some (3, 1) ∧ 3 < 12)
    ∧ (3 < 12 ∧
      (overlayLoading.dom 3).ovLoad = some (ovl3, 4) ∧
        overlayLoading.canRun 3 (4 + 96) = true ∧
          overlayLoading.bankPlace 3 ovl3.bank = some (3, 1) ∧
        3 < 12 ∧ ((overlayLoading.dom 3).ovq.any fun q => decide (q.bank = ovl3.bank)) = false ∧ ovl3.tag < 2 ^ 14)
    ∧ (deadlocked.canIssue 3 = true ∧
      (deadlocked.dom 3).hold ≤ (deadlocked.dom 3).cyc ∧
        deadlocked.fetch 3 = Fetch.wait 0 ∧ (deadlocked.dom 3).fetchWait = 65535) :=
  ⟨by decide +kernel, by decide +kernel, by decide +kernel⟩

theorem wit_FrequencySteps :
    ((steps hosted).postFree Who.fw = true ∧
      (steps hosted).hostOpen Who.fw Reg.CLK_STEP_PLAN.addr = true ∧
        (steps hosted).mayField Who.fw Reg.CLK_STEP_PLAN.addr Access.rw = true ∧
          bitOf (511#32).toNat 8 = true ∧
        (steps hosted).stepOk ((511#32).toNat % 16) = true ∧
        (steps hosted).stepOk ((511#32).toNat / 16 % 16) = true ∧
        ((steps hosted).tickEn &&
        decide
        ((steps hosted).get2 Reg.CLK_STEP_COURSE_LO.COURSE Reg.CLK_STEP_COURSE_HI.COURSE ≤
        (steps hosted).courseNum + 1)) =
        false ∧
        (decide ((511#32).toNat % 16 ≠ (511#32).toNat / 16 % 16) &&
        (List.range 12).any fun d => (steps hosted).armed d && (steps hosted).spans d) =
        false)
    ∧ ((steps ticks).postFree Who.fw = true ∧
      (steps ticks).hostOpen Who.fw Reg.CLK_STEP_PLAN.addr = true ∧
        (steps ticks).mayField Who.fw Reg.CLK_STEP_PLAN.addr Access.rw = true ∧
          bitOf (511#32).toNat 8 = true ∧
        (steps ticks).stepOk ((511#32).toNat % 16) = true ∧
        (steps ticks).stepOk ((511#32).toNat / 16 % 16) = true ∧
        ((steps ticks).tickEn &&
        decide
        ((steps ticks).get2 Reg.CLK_STEP_COURSE_LO.COURSE Reg.CLK_STEP_COURSE_HI.COURSE ≤
        (steps ticks).courseNum + 1)) =
        true ∧
        (decide ((511#32).toNat % 16 ≠ (511#32).toNat / 16 % 16) &&
        (List.range 12).any fun d => (steps ticks).armed d && (steps ticks).spans d) =
        false)
    ∧ (stepsNone.postFree Who.fw = true ∧
      stepsNone.hostOpen Who.fw Reg.CLK_STEP_PLAN.addr = true ∧
        stepsNone.mayField Who.fw Reg.CLK_STEP_PLAN.addr Access.rw = true ∧
          bitOf (256#32).toNat 8 = true ∧
        (stepsNone.stepOk ((256#32).toNat % 16) && stepsNone.stepOk ((256#32).toNat / 16 % 16)) = false)
    ∧ (stepsArmed.postFree Who.fw = true ∧
      stepsArmed.hostOpen Who.fw Reg.CLK_STEP_PLAN.addr = true ∧
        stepsArmed.mayField Who.fw Reg.CLK_STEP_PLAN.addr Access.rw = true ∧
          bitOf (496#32).toNat 8 = true ∧
        (decide ((496#32).toNat % 16 ≠ (496#32).toNat / 16 % 16) &&
        (List.range 12).any fun d => stepsArmed.armed d && stepsArmed.spans d) =
        true)
    ∧ (stepPlanned.get Reg.CLK_STEP_PLAN.PENDING = 1 ∧
      (stepPlanned.clk.stepDue.isSome = true ∨ stepPlanned.stepWaits = true) ∧
        (stepPlanned.clk.load = none ∨ stepPlanned.tickEn = true))
    ∧ (stepPlanned.get Reg.CLK_STEP_PLAN.PENDING = 1 ∧
      (stepPlanned.clk.stepDue.isSome = true ∨ stepPlanned.stepWaits = true) ∧
        (stepPlanned.clk.load = none ∨ stepPlanned.tickEn = true)) :=
  ⟨by decide +kernel, by decide +kernel, by decide +kernel, by decide +kernel, by decide +kernel, by decide +kernel⟩

theorem wit_CalibrationAndStretch_a :
    (calibrating.mgmt.dieDone = true ∧ calibrating.mgmt.calDone = false ∧ calibrating.fuses.maxStep < 16 ∧ 65535 < 2 ^ 16)
    ∧ (calibrating.mgmt.dieDone = true ∧ calibrating.mgmt.calDone = false ∧ calibrating.fuses.maxStep < 16 ∧ 0 < 2 ^ 16)
    ∧ (calibrating.mgmt.dieDone = true ∧ calibrating.mgmt.calDone = false ∧ calibrating.fuses.maxStep < 16 ∧ 7 < 2 ^ 16)
    ∧ (calibrating.mgmt.dieDone = true ∧ calibrating.mgmt.calDone = false ∧ calibrating.fuses.maxStep < 16 ∧ 65535 < 2 ^ 16)
    ∧ (575 < 576 ∧
      hosted.get Reg.CLK_STRETCH_CFG.DROOP < 41 ∧
        (hosted.clk.stretching.any fun a => decide (a.fst = 575)) = false ∧ hosted.get (Reg.TEL_DROOP.EVENTS 575) + 1 < 2 ^ 32)
    ∧ (12 < 576 ∧
      running3.get Reg.CLK_STRETCH_CFG.DROOP < 41 ∧
        (running3.clk.stretching.any fun a => decide (a.fst = 12)) = false ∧ running3.get (Reg.TEL_DROOP.EVENTS 12) + 1 < 2 ^ 32) :=
  ⟨by decide +kernel, by decide +kernel, by decide +kernel, by decide +kernel, by decide +kernel, by decide +kernel⟩

theorem wit_CalibrationAndStretch_b :
    (60 < 576 ∧
      running3.get Reg.CLK_STRETCH_CFG.DROOP < 41 ∧
        (running3.clk.stretching.any fun a => decide (a.fst = 60)) = false ∧ running3.get (Reg.TEL_DROOP.EVENTS 60) + 1 < 2 ^ 32)
    ∧ (575 < 576 ∧ 40 ≤ hosted.get Reg.CLK_STRETCH_CFG.DROOP)
    ∧ (12 < 576 ∧
      ((stretching 12).clk.stretching.any fun a => decide (a.fst = 12)) = true ∧
        (stretching 12).get Reg.CLK_STRETCH_CFG.MIN_CYCLES ≤ 800 ∧
          (stretching 12).get (Reg.TEL_STRETCH.CYCLES 12) + 800 < 2 ^ 32)
    ∧ (60 < 576 ∧
      ((stretching 60).clk.stretching.any fun a => decide (a.fst = 60)) = true ∧
        (stretching 60).get Reg.CLK_STRETCH_CFG.MIN_CYCLES ≤ 800 ∧
          (stretching 60).get (Reg.TEL_STRETCH.CYCLES 60) + 800 < 2 ^ 32)
    ∧ (575 < 576 ∧
      ((stretching 575).clk.stretching.any fun a => decide (a.fst = 575)) = true ∧
        (stretching 575).get Reg.CLK_STRETCH_CFG.MIN_CYCLES ≤ 800 ∧
          (stretching 575).get (Reg.TEL_STRETCH.CYCLES 575) + 800 < 2 ^ 32) :=
  ⟨by decide +kernel, by decide +kernel, by decide +kernel, by decide +kernel, by decide +kernel⟩

theorem wit_TheTimeBaseKeepsItsReference_a :
    ((timeMode 2 hosted).get Reg.CLK_TIME_CTRL.FREE = 0 ∧ (timeMode 2 hosted).get Reg.CLK_TIME_STATUS.MODE ≠ 1)
    ∧ ((timeMode 1 ticks).get Reg.CLK_TIME_CTRL.FREE = 0 ∧
      (timeMode 1 ticks).get Reg.CLK_TIME_STATUS.MODE = 1 ∧ (timeMode 1 ticks).tickEn = true ∧ -5 ≠ 0)
    ∧ ((timeMode 1 hosted).get Reg.CLK_TIME_CTRL.FREE = 0 ∧
      (timeMode 1 hosted).get Reg.CLK_TIME_STATUS.MODE = 1 ∧
        (timeMode 1 hosted).tickEn = false ∧ 0 ≤ 8 ∧ (timeMode 1 hosted).now + (Int.toNat 8 + 8) / 16 < 2 ^ 64)
    ∧ ((timeMode 0 ticks).get Reg.CLK_TIME_STATUS.MODE = 0 ∧ (timeMode 0 ticks).get Reg.CLK_REF_LOSS_COUNT.COUNT + 1 < 2 ^ 32)
    ∧ ((lost 0).get Reg.CLK_TIME_STATUS.MODE = 1 ∧
      (lost 0).clk.lostAt = some 500 ∧ (lost 0).clk.holdLogged = false ∧ (lost 0).get Reg.CLK_HOLDOVER_LIMIT.LIMIT = 0)
    ∧ ((lost 1).get Reg.CLK_TIME_STATUS.MODE = 1 ∧
      (lost 1).clk.lostAt = some 500 ∧
        (lost 1).clk.holdLogged = false ∧
          (lost 1).get Reg.CLK_HOLDOVER_LIMIT.LIMIT ≠ 0 ∧ ((lost 1).clk.load = none ∨ (lost 1).tickEn = true)) :=
  ⟨by decide +kernel, by decide +kernel, by decide +kernel, by decide +kernel, by decide +kernel, by decide +kernel⟩

theorem wit_TheTimeBaseKeepsItsReference_b :
    (slewing.get Reg.CLK_TIME_STATUS.SLEWING = 1)
    ∧ (hosted.postFree Who.fw = true ∧
      hosted.hostOpen Who.fw Reg.CLK_GLACIER_HI.addr = true ∧
        hosted.mayField Who.fw Reg.CLK_GLACIER_HI.addr Access.rw = true ∧ hosted.tickEn = false)
    ∧ (ticks.postFree Who.fw = true ∧
      ticks.hostOpen Who.fw Reg.CLK_GLACIER_HI.addr = true ∧
        ticks.mayField Who.fw Reg.CLK_GLACIER_HI.addr Access.rw = true ∧ ticks.tickEn = true) :=
  ⟨by decide +kernel, by decide +kernel, by decide +kernel⟩

theorem wit_PacketsCrossPorts_a :
    (31 < 32 ∧ (port31 1).get (Reg.UBN_PORT_STATUS.STATE 31) ≠ 2 ∧ (port31 1).get (Reg.UBN_PORT_STATUS.STATE 31) ≠ 3)
    ∧ (31 < 32 ∧
      ((port31 3).get (Reg.UBN_PORT_STATUS.STATE 31) = 2 ∨ (port31 3).get (Reg.UBN_PORT_STATUS.STATE 31) = 3) ∧
        false = false ∧ (port31 3).get (Reg.UBN_PORT_FEC_UE.COUNT 31) + 1 < 2 ^ 32)
    ∧ (31 < 32 ∧
      ((receiving true).get (Reg.UBN_PORT_STATUS.STATE 31) = 2 ∨ (receiving true).get (Reg.UBN_PORT_STATUS.STATE 31) = 3) ∧
        false = false ∧ (receiving true).get (Reg.UBN_PORT_FEC_UE.COUNT 31) + 1 < 2 ^ 32)
    ∧ (31 < 32 ∧
      ((port31 2).get (Reg.UBN_PORT_STATUS.STATE 31) = 2 ∨ (port31 2).get (Reg.UBN_PORT_STATUS.STATE 31) = 3) ∧
        true = true ∧
          (false && headerFits (head0 0 0 0 12 0) head1 (bytes 64) &&
        decide (0 = (readHeader (head0 0 0 0 12 0) head1 (bytes 64) 31).vc)) =
        false ∧
        (port31 2).get (Reg.UBN_PORT_CRC_ERR.COUNT 31) + 1 < 2 ^ 32)
    ∧ (31 < 32 ∧
      ((port31 3).get (Reg.UBN_PORT_STATUS.STATE 31) = 2 ∨ (port31 3).get (Reg.UBN_PORT_STATUS.STATE 31) = 3) ∧
        true = true ∧
          (true && headerFits (head0 0 0 0 12 0) head1 (bytes 128) &&
        decide (0 = (readHeader (head0 0 0 0 12 0) head1 (bytes 128) 31).vc)) =
        false ∧
        (port31 3).get (Reg.UBN_PORT_CRC_ERR.COUNT 31) + 1 < 2 ^ 32)
    ∧ (31 < 32 ∧
      ((port31 3).get (Reg.UBN_PORT_STATUS.STATE 31) = 2 ∨ (port31 3).get (Reg.UBN_PORT_STATUS.STATE 31) = 3) ∧
        true = true ∧
          (true && headerFits (head0 0 0 0 12 0) head1 (bytes 64) &&
        decide (7 = (readHeader (head0 0 0 0 12 0) head1 (bytes 64) 31).vc)) =
        false ∧
        (port31 3).get (Reg.UBN_PORT_CRC_ERR.COUNT 31) + 1 < 2 ^ 32) :=
  ⟨by decide +kernel, by decide +kernel, by decide +kernel, by decide +kernel, by decide +kernel, by decide +kernel⟩

theorem wit_PacketsCrossPorts_b :
    (31 < 32 ∧
      ((receiving false).get (Reg.UBN_PORT_STATUS.STATE 31) = 2 ∨ (receiving false).get (Reg.UBN_PORT_STATUS.STATE 31) = 3) ∧
        true = true ∧
          (true && headerFits (head0 0 0 0 12 0) head1 (bytes 64) &&
        decide (0 = (readHeader (head0 0 0 0 12 0) head1 (bytes 64) 31).vc)) =
        true ∧
        3 ≠ ((receiving false).port 31).rxSeq)
    ∧ (31 < 32 ∧
      ((receiving true).get (Reg.UBN_PORT_STATUS.STATE 31) = 2 ∨ (receiving true).get (Reg.UBN_PORT_STATUS.STATE 31) = 3) ∧
        true = true ∧
          (true && headerFits (head0 0 0 0 12 0) head1 (bytes 64) &&
        decide (0 = (readHeader (head0 0 0 0 12 0) head1 (bytes 64) 31).vc)) =
        true ∧
        3 ≠ ((receiving true).port 31).rxSeq)
    ∧ (31 < 32 ∧
      (receiving true).get (Reg.UBN_PORT_STATUS.STATE 31) = 3 ∧
        true = true ∧
          (true && headerFits (head0 0 0 0 12 0) head1 (bytes 64) &&
        decide (0 = (readHeader (head0 0 0 0 12 0) head1 (bytes 64) 31).vc)) =
        true ∧
        65535 = ((receiving true).port 31).rxSeq ∧
        (readHeader (head0 0 0 0 12 0) head1 (bytes 64) 31).mc = false ∧
        (receiving true).get (Reg.UBN_PORT_RX_PKTS.COUNT 31) + 1 < 2 ^ 32 ∧
        (readHeader (head0 0 0 0 12 0) head1 (bytes 64) 31).typ ∈ [0, 2] ∧
        (readHeader (head0 0 0 0 12 0) head1 (bytes 64) 31).dstMod = (receiving true).moduleId ∧
        (receiving true).reachable (readHeader (head0 0 0 0 12 0) head1 (bytes 64) 31).dst = true ∧
        placeFits (readHeader (head0 0 0 0 12 0) head1 (bytes 64) 31) = true ∧
        (receiving true).replayBars (partOf (readHeader (head0 0 0 0 12 0) head1 (bytes 64) 31).dst)
        (readHeader (head0 0 0 0 12 0) head1 (bytes 64) 31) =
        false ∧
        ((readHeader (head0 0 0 0 12 0) head1 (bytes 64) 31).typ = 0 →
        (receiving true).accepts (partOf (readHeader (head0 0 0 0 12 0) head1 (bytes 64) 31).dst)
        (readHeader (head0 0 0 0 12 0) head1 (bytes 64) 31) =
        true) ∧
        (receiving true).get Reg.UBN_POOL_STATUS.IN_USE < 8192)
    ∧ (31 < 32 ∧
      accepting.get (Reg.UBN_PORT_STATUS.STATE 31) = 3 ∧
        true = true ∧
          (true && headerFits (head0 0 0 0 12 0) head1 (bytes 64) &&
        decide (0 = (readHeader (head0 0 0 0 12 0) head1 (bytes 64) 31).vc)) =
        true ∧
        0 = (accepting.port 31).rxSeq ∧
        (readHeader (head0 0 0 0 12 0) head1 (bytes 64) 31).mc = false ∧
        accepting.get (Reg.UBN_PORT_RX_PKTS.COUNT 31) + 1 < 2 ^ 32 ∧
        (readHeader (head0 0 0 0 12 0) head1 (bytes 64) 31).typ = 0 ∧
        (readHeader (head0 0 0 0 12 0) head1 (bytes 64) 31).dstMod = accepting.moduleId ∧
        accepting.reachable (readHeader (head0 0 0 0 12 0) head1 (bytes 64) 31).dst = true ∧
        placeFits (readHeader (head0 0 0 0 12 0) head1 (bytes 64) 31) = true ∧
        accepting.replayBars (partOf (readHeader (head0 0 0 0 12 0) head1 (bytes 64) 31).dst)
        (readHeader (head0 0 0 0 12 0) head1 (bytes 64) 31) =
        false ∧
        accepting.accepts (partOf (readHeader (head0 0 0 0 12 0) head1 (bytes 64) 31).dst)
        (readHeader (head0 0 0 0 12 0) head1 (bytes 64) 31) =
        false ∧
        accepting.get
        (Reg.MGT_PART_INGRESS_DENIED.COUNT
        (partOf (readHeader (head0 0 0 0 12 0) head1 (bytes 64) 31).dst)) +
        1 <
        2 ^ 32)
    ∧ (31 < 32 ∧
      (port31 3).get (Reg.UBN_PORT_STATUS.STATE 31) = 3 ∧
        true = true ∧
          (true && headerFits (head0 0 0 4095 12 31) head1 (bytes 64) &&
        decide (0 = (readHeader (head0 0 0 4095 12 31) head1 (bytes 64) 31).vc)) =
        true ∧
        0 = ((port31 3).port 31).rxSeq ∧
        (readHeader (head0 0 0 4095 12 31) head1 (bytes 64) 31).mc = false ∧
        (port31 3).get (Reg.UBN_PORT_RX_PKTS.COUNT 31) + 1 < 2 ^ 32 ∧
        (readHeader (head0 0 0 4095 12 31) head1 (bytes 64) 31).typ ≠ 3 ∧
        (readHeader (head0 0 0 4095 12 31) head1 (bytes 64) 31).dstMod ≠ (port31 3).moduleId ∧
        (readHeader (head0 0 0 4095 12 31) head1 (bytes 64) 31).hops ≠ 0 ∧
        (port31 3).fab.fwd = [] ∧
        (port31 3).routeOf (readHeader (head0 0 0 4095 12 31) head1 (bytes 64) 31) = some 0 ∧
        0 < 32 ∧ (port31 3).egressRoom 0 (readHeader (head0 0 0 4095 12 31) head1 (bytes 64) 31) = true)
    ∧ (31 < 32 ∧
      egressFull.get (Reg.UBN_PORT_STATUS.STATE 31) = 3 ∧
        true = true ∧
          (true && headerFits (head0 0 0 4095 12 31) head1 (bytes 64) &&
        decide (0 = (readHeader (head0 0 0 4095 12 31) head1 (bytes 64) 31).vc)) =
        true ∧
        0 = (egressFull.port 31).rxSeq ∧
        (readHeader (head0 0 0 4095 12 31) head1 (bytes 64) 31).mc = false ∧
        egressFull.get (Reg.UBN_PORT_RX_PKTS.COUNT 31) + 1 < 2 ^ 32 ∧
        (readHeader (head0 0 0 4095 12 31) head1 (bytes 64) 31).typ ≠ 3 ∧
        (readHeader (head0 0 0 4095 12 31) head1 (bytes 64) 31).dstMod ≠ egressFull.moduleId ∧
        (readHeader (head0 0 0 4095 12 31) head1 (bytes 64) 31).hops ≠ 0 ∧
        egressFull.fab.fwd = [] ∧
        egressFull.routeOf (readHeader (head0 0 0 4095 12 31) head1 (bytes 64) 31) = some 0 ∧
        0 < 32 ∧ egressFull.egressRoom 0 (readHeader (head0 0 0 4095 12 31) head1 (bytes 64) 31) = false) :=
  ⟨by decide +kernel, by decide +kernel, by decide +kernel, by decide +kernel, by decide +kernel, by decide +kernel⟩

theorem wit_PacketsCrossPorts_c :
    (31 < 32 ∧
      (port31 3).get (Reg.UBN_PORT_STATUS.STATE 31) = 3 ∧
        true = true ∧
          (true && headerFits (head0 0 0 4095 12 0) head1 (bytes 64) &&
        decide (0 = (readHeader (head0 0 0 4095 12 0) head1 (bytes 64) 31).vc)) =
        true ∧
        0 = ((port31 3).port 31).rxSeq ∧
        (readHeader (head0 0 0 4095 12 0) head1 (bytes 64) 31).mc = false ∧
        (port31 3).get (Reg.UBN_PORT_RX_PKTS.COUNT 31) + 1 < 2 ^ 32 ∧
        (readHeader (head0 0 0 4095 12 0) head1 (bytes 64) 31).typ ≠ 3 ∧
        (readHeader (head0 0 0 4095 12 0) head1 (bytes 64) 31).dstMod ≠ (port31 3).moduleId ∧
        (readHeader (head0 0 0 4095 12 0) head1 (bytes 64) 31).hops = 0)
    ∧ (pooled.nextPooled 575 = none)
    ∧ (1023 < pooled.wallNow (pooled.domOf 12) ∨ 1023 < mapGet 0 pooled.fab.lastRel 12)
    ∧ (1029 < releasing.wallNow (releasing.domOf 12) ∨ 1029 < mapGet 0 releasing.fab.lastRel 12)
    ∧ (landFull.nextPooled 12 = some pkt ∧ landFull.sliceFull 12 pkt.addr 1030 = true)
    ∧ (releasing.nextPooled 12 = some pkt ∧
      releasing.wallNow (releasing.domOf 12) ≤ 1030 ∧
        mapGet 0 releasing.fab.lastRel 12 ≤ 1030 ∧ pkt.payload.length = 64 ∧ releasing.sliceFull 12 pkt.addr 1030 = false) :=
  ⟨by decide +kernel, by decide +kernel, by decide +kernel, by decide +kernel, by decide +kernel, by decide +kernel⟩

theorem wit_PacketsCrossPorts_d :
    (31 < 32 ∧
      (sending 31).get (Reg.UBN_PORT_STATUS.STATE 31) = 3 ∧
        ((sending 31).port 31).replaying = none ∧
          (sending 31).nextOut 2 ((sending 31).port 31).egress [] 0 = some (0, outPkt) ∧
        retryBytes ((sending 31).port 31).retry + outPkt.payload.length + 28 ≤ 262144 ∧
        (sending 31).get (Reg.UBN_PORT_TX_PKTS.COUNT 31) + 1 < 2 ^ 32 ∧
        (sending 31).get Reg.TILE_MESH_CE_COUNT.COUNT + 4 < 2 ^ 32 ∧
        (sending 31).linkRoom 31 2 outPkt.grans = true ∧
        (sending 31).fab.waits = [] ∧
        (sending 31).fab.inj = [] ∧ (sending 31).fab.fwd = [] ∧ (sending 31).mor.relayWait = [])
    ∧ (31 < 32 ∧
      (sending 32).get (Reg.UBN_PORT_STATUS.STATE 31) = 3 ∧
        ((sending 32).port 31).replaying = none ∧
          (sending 32).nextOut 2 ((sending 32).port 31).egress [] 0 = some (0, outPkt) ∧
        retryBytes ((sending 32).port 31).retry + outPkt.payload.length + 28 ≤ 262144 ∧
        (sending 32).get (Reg.UBN_PORT_TX_PKTS.COUNT 31) + 1 < 2 ^ 32 ∧
        (sending 32).get Reg.TILE_MESH_CE_COUNT.COUNT + 0 < 2 ^ 32 ∧ (sending 32).linkRoom 31 2 outPkt.grans = false) :=
  ⟨by decide +kernel, by decide +kernel⟩

theorem wit_GrantsAndHeldCopies_a :
    (4095 < 4096 ∧ 7 < 8 ∧ 7 < 8)
    ∧ (resvMax.postFree Who.fw = true ∧
      resvMax.hostOpen Who.fw Reg.UBN_CTRL.addr = true ∧
        resvMax.mayField Who.fw Reg.UBN_CTRL.addr Access.rw = true ∧
          bitOf (287#32).toNat 8 = true ∧ resvSum resvMax.resvWords ≤ 8192 ∧ resvMax.anyArmed = false)
    ∧ (resvArm.postFree Who.fw = true ∧
      resvArm.hostOpen Who.fw Reg.UBN_CTRL.addr = true ∧
        resvArm.mayField Who.fw Reg.UBN_CTRL.addr Access.rw = true ∧
          bitOf (256#32).toNat 8 = true ∧ (8192 < resvSum resvArm.resvWords ∨ resvArm.anyArmed = true))
    ∧ (resvOver.postFree Who.fw = true ∧
      resvOver.hostOpen Who.fw Reg.UBN_CTRL.addr = true ∧
        resvOver.mayField Who.fw Reg.UBN_CTRL.addr Access.rw = true ∧
          bitOf (256#32).toNat 8 = true ∧ (8192 < resvSum resvOver.resvWords ∨ resvOver.anyArmed = true))
    ∧ ((holding 31 false).fab.holds[0]? = some (holdOf false) ∧
      (holdOf false).port < 32 ∧
        (holding 31 false).portUp (holdOf false).port (holdOf false).pkt.cls = true ∧
          (∀ (x : McHold),
        x ∈ List.take 0 (holding 31 false).fab.holds →
        ¬(x.port = (holdOf false).port ∧
        x.pkt.srcMod = (holdOf false).pkt.srcMod ∧ x.pkt.srcAsh = (holdOf false).pkt.srcAsh)) ∧
        (holding 31 false).copyRoom (holdOf false).port (holdOf false).pkt = true)
    ∧ ((holding 32 false).fab.holds[0]? = some (holdOf false) ∧
      (holdOf false).port < 32 ∧
        (holding 32 false).portUp (holdOf false).port (holdOf false).pkt.cls = true ∧
          (∀ (x : McHold),
        x ∈ List.take 0 (holding 32 false).fab.holds →
        ¬(x.port = (holdOf false).port ∧
        x.pkt.srcMod = (holdOf false).pkt.srcMod ∧ x.pkt.srcAsh = (holdOf false).pkt.srcAsh)) ∧
        (holding 32 false).copyRoom (holdOf false).port (holdOf false).pkt = false) :=
  ⟨by decide +kernel, by decide +kernel, by decide +kernel, by decide +kernel, by decide +kernel, by decide +kernel⟩

theorem wit_GrantsAndHeldCopies_b :
    (holding2.fab.holds[1]? = some (holdOf false) ∧
      holding2.fab.holds[0]? = some (holdOf true) ∧
        0 < 1 ∧
          (holdOf true).port = (holdOf false).port ∧
        (holdOf true).pkt.srcMod = (holdOf false).pkt.srcMod ∧ (holdOf true).pkt.srcAsh = (holdOf false).pkt.srcAsh)
    ∧ ((holding 32 true).fab.holds[0]? = some (holdOf true) ∧ (holdOf true).pkt.dst < 4096 ∧ (holdOf true).logged = true)
    ∧ ((holding 32 false).fab.holds[0]? = some (holdOf false) ∧
      (holdOf false).pkt.dst < 4096 ∧
        (holdOf false).logged = false ∧ ((holding 32 false).clk.load = none ∨ (holding 32 false).tickEn = true)) :=
  ⟨by decide +kernel, by decide +kernel, by decide +kernel⟩

theorem wit_LinksRetryAndFail_a :
    (31 < 32 ∧
      List.findIdx? (fun f => decide (f.seq = 65535)) ((retrying 0).port 31).retry = some 1 ∧
        (retrying 0).fab.waits = [] ∧ (retrying 0).fab.inj = [])
    ∧ (narrowed31.get (Reg.UBN_PORT_STATUS.STATE 31) = 4)
    ∧ (31 < 32 ∧
      List.findIdx? (fun f => decide (f.seq = 65535)) ((retrying 2).port 31).retry = some 1 ∧
        (retrying 2).get (Reg.UBN_PORT_STATUS.STATE 31) ≠ 4 ∧
          (∀ (f : Sent),
        f ∈ List.drop 1 ((retrying 2).port 31).retry → f.count < (retrying 2).get (Reg.UBN_PORT_RETRY_MAX.MAX 31)) ∧
        (retrying 2).get (Reg.UBN_PORT_REPLAYS.COUNT 31) + 1 < 2 ^ 32)
    ∧ (31 < 32 ∧
      List.findIdx? (fun f => decide (f.seq = 65534)) ((retrying 3).port 31).retry = some 0 ∧
        (retrying 3).get (Reg.UBN_PORT_STATUS.STATE 31) ≠ 4 ∧
          ∃ f, f ∈ List.drop 0 ((retrying 3).port 31).retry ∧ (retrying 3).get (Reg.UBN_PORT_RETRY_MAX.MAX 31) ≤ f.count)
    ∧ (31 < 32 ∧ (replaying31.port 31).replaying = some 880 ∧ (replaying31.clk.load = none ∨ replaying31.tickEn = true))
    ∧ (31 < 32 ∧
      (port31 3).get (Reg.UBN_PORT_STATUS.STATE 31) ≠ 0 ∧
        (∀ (h : McHold), h ∈ (port31 3).fab.holds → h.port ≠ 31) ∧
          (port31 3).fab.waits = [] ∧
        (port31 3).fab.inj = [] ∧
        (port31 3).fab.fwd = [] ∧
        (port31 3).mor.relayWait = [] ∧
        ∀ (k : Pkt),
        k ∈
        List.map (fun x => x.pkt) ((port31 3).port 31).retry ++
        List.map (fun x => x.snd) ((port31 3).port 31).egress →
        (k.mc = false ∧ k.typ ≠ 3 ∧ k.typ ≠ 5) ∧ k.srcMod = (port31 3).moduleId) :=
  ⟨by decide +kernel, by decide +kernel, by decide +kernel, by decide +kernel, by decide +kernel, by decide +kernel⟩

theorem wit_LinksRetryAndFail_b :
    (31 < 32 ∧
      losing.get (Reg.UBN_PORT_STATUS.STATE 31) ≠ 0 ∧
        (∀ (h : McHold), h ∈ losing.fab.holds → h.port ≠ 31) ∧
          losing.fab.waits = [] ∧
        losing.fab.inj = [] ∧
        losing.fab.fwd = [] ∧
        losing.mor.relayWait = [] ∧
        ∀ (k : Pkt),
        k ∈ List.map (fun x => x.pkt) (losing.port 31).retry ++ List.map (fun x => x.snd) (losing.port 31).egress →
        (k.mc = false ∧ k.typ ≠ 3 ∧ k.typ ≠ 5) ∧ k.srcMod = losing.moduleId)
    ∧ (31 < 32 ∧
      losingFar.get (Reg.UBN_PORT_STATUS.STATE 31) ≠ 0 ∧
        (∀ (h : McHold), h ∈ losingFar.fab.holds → h.port ≠ 31) ∧
          losingFar.fab.waits = [] ∧
        losingFar.fab.inj = [] ∧
        losingFar.fab.fwd = [] ∧
        losingFar.mor.relayWait = [] ∧
        List.map (fun x => x.pkt) (losingFar.port 31).retry ++ List.map (fun x => x.snd) (losingFar.port 31).egress =
        [farPkt] ∧
        (farPkt.mc = false ∧ farPkt.typ ≠ 3 ∧ farPkt.typ ≠ 5) ∧
        farPkt.srcMod ≠ losingFar.moduleId ∧
        0 ≠ 31 ∧
        losingFar.routeOf { net := 1, cls := 2, typ := 3, dstMod := farPkt.srcMod } = some 0 ∧
        losingFar.get Reg.UBN_CTRL.HOP_LIMIT ≠ 0) :=
  ⟨by decide +kernel, by decide +kernel⟩

theorem wit_PortsNarrowAndTrain_a :
    (31 < 32 ∧
      (port31 3).get (Reg.UBN_PORT_STATUS.STATE 31) ≠ 0 ∧
        255 < 256 ∧
          (255 &&& ((port31 3).port 31).lanes = ((port31 3).port 31).lanes ∨
        (port31 3).get (Reg.UBN_PORT_STATUS.STATE 31) ≠ 3 ∧ (port31 3).get (Reg.UBN_PORT_STATUS.STATE 31) ≠ 4))
    ∧ (31 < 32 ∧
      (port31 1).get (Reg.UBN_PORT_STATUS.STATE 31) ≠ 0 ∧
        247 < 256 ∧
          (247 &&& ((port31 1).port 31).lanes = ((port31 1).port 31).lanes ∨
        (port31 1).get (Reg.UBN_PORT_STATUS.STATE 31) ≠ 3 ∧ (port31 1).get (Reg.UBN_PORT_STATUS.STATE 31) ≠ 4))
    ∧ (31 < 32 ∧
      (port31 3).get (Reg.UBN_PORT_STATUS.STATE 31) ≠ 0 ∧
        247 < 256 ∧
          247 &&& ((port31 3).port 31).lanes ≠ ((port31 3).port 31).lanes ∧
        ((port31 3).get (Reg.UBN_PORT_STATUS.STATE 31) = 3 ∨ (port31 3).get (Reg.UBN_PORT_STATUS.STATE 31) = 4) ∧
        pickLanes 247 (popcount 8 ((port31 3).port 31).lanes) = some 240)
    ∧ (31 < 32 ∧
      narrowed31.get (Reg.UBN_PORT_STATUS.STATE 31) ≠ 0 ∧
        247 < 256 ∧
          247 &&& (narrowed31.port 31).lanes ≠ (narrowed31.port 31).lanes ∧
        (narrowed31.get (Reg.UBN_PORT_STATUS.STATE 31) = 3 ∨ narrowed31.get (Reg.UBN_PORT_STATUS.STATE 31) = 4) ∧
        pickLanes 247 (popcount 8 (narrowed31.port 31).lanes) = some 240)
    ∧ (31 < 32 ∧
      (port31 3).get (Reg.UBN_PORT_STATUS.STATE 31) ≠ 0 ∧
        85 < 256 ∧
          85 &&& ((port31 3).port 31).lanes ≠ ((port31 3).port 31).lanes ∧
        ((port31 3).get (Reg.UBN_PORT_STATUS.STATE 31) = 3 ∨ (port31 3).get (Reg.UBN_PORT_STATUS.STATE 31) = 4) ∧
        pickLanes 85 (popcount 8 ((port31 3).port 31).lanes) = none)
    ∧ (31 < 32 ∧ narrowed31.get (Reg.UBN_PORT_STATUS.STATE 31) = 4) :=
  ⟨by decide +kernel, by decide +kernel, by decide +kernel, by decide +kernel, by decide +kernel, by decide +kernel⟩

theorem wit_PortsNarrowAndTrain_b :
    (31 < 32 ∧
      (∀ (i : Nat), i < 8 → [50, 0, 0, 0, 0, 0, 0, 0][i]?.getD 0 ≤ berWarn.get (Reg.UBN_PORT_BER_THRESH.THRESH 31)) ∧
        berWarn.get (Reg.UBN_PORT_FEC_CE.COUNT 31) + 9 < 2 ^ 32)
    ∧ (31 < 32 ∧
      (∀ (i : Nat), i < 8 → [51, 0, 0, 0, 0, 0, 0, 0][i]?.getD 0 ≤ berWarn.get (Reg.UBN_PORT_BER_THRESH.THRESH 31)) ∧
        berWarn.get (Reg.UBN_PORT_FEC_CE.COUNT 31) + 0 < 2 ^ 32)
    ∧ (31 < 32 ∧
      (retrying 0).postFree Who.fw = true ∧
        (retrying 0).hostOpen Who.fw (Reg.UBN_PORT_CTRL.addr 31) = true ∧
          (retrying 0).mayField Who.fw (Reg.UBN_PORT_CTRL.addr 31) Access.rw = true ∧
        bitOf (9#32).toNat 0 = true ∧ bitOf (9#32).toNat 3 = true)
    ∧ (31 < 32 ∧
      (retrying 0).postFree Who.fw = true ∧
        (retrying 0).hostOpen Who.fw (Reg.UBN_PORT_CTRL.addr 31) = true ∧
          (retrying 0).mayField Who.fw (Reg.UBN_PORT_CTRL.addr 31) Access.rw = true ∧
        bitOf (7#32).toNat 0 = true ∧ bitOf (7#32).toNat 3 = false)
    ∧ (31 < 32 ∧
      (retrying 0).postFree Who.fw = true ∧
        (retrying 0).hostOpen Who.fw (Reg.UBN_PORT_CTRL.addr 31) = true ∧
          (retrying 0).mayField Who.fw (Reg.UBN_PORT_CTRL.addr 31) Access.rw = true ∧ bitOf (8#32).toNat 0 = false)
    ∧ (31 < 32 ∧ enabled31.get (Reg.UBN_PORT_STATUS.STATE 31) = 0 ∧ enabled31.get (Reg.UBN_PORT_CTRL.EN 31) = 1) :=
  ⟨by decide +kernel, by decide +kernel, by decide +kernel, by decide +kernel, by decide +kernel, by decide +kernel⟩

theorem wit_PortsNarrowAndTrain_c :
    (31 < 32 ∧
      65535 < 2 ^ 16 ∧
        255 < 256 ∧
          (port31 1).get (Reg.UBN_PORT_STATUS.STATE 31) = 1 ∧
        ((port31 1).port 31).trained = false ∧
        (if (port31 1).get (Reg.UBN_PORT_CTRL.WIDTH_MAX 31) = 0 ∧ 255 = 255 then some 255
        else pickLanes 255 (if (port31 1).get (Reg.UBN_PORT_CTRL.WIDTH_MAX 31) < 2 then 4 else 2)) =
        some 255 ∧
        (port31 1).disc.committed = false)
    ∧ (31 < 32 ∧
      65535 < 2 ^ 16 ∧
        240 < 256 ∧
          (port31 1).get (Reg.UBN_PORT_STATUS.STATE 31) = 1 ∧
        ((port31 1).port 31).trained = false ∧
        (if (port31 1).get (Reg.UBN_PORT_CTRL.WIDTH_MAX 31) = 0 ∧ 240 = 255 then some 255
        else pickLanes 240 (if (port31 1).get (Reg.UBN_PORT_CTRL.WIDTH_MAX 31) < 2 then 4 else 2)) =
        some 240 ∧
        (port31 1).disc.committed = false)
    ∧ (31 < 32 ∧
      65535 < 2 ^ 16 ∧
        240 < 256 ∧
          training31.get (Reg.UBN_PORT_STATUS.STATE 31) = 1 ∧
        (training31.port 31).trained = false ∧
        (if training31.get (Reg.UBN_PORT_CTRL.WIDTH_MAX 31) = 0 ∧ 240 = 255 then some 255
        else pickLanes 240 (if training31.get (Reg.UBN_PORT_CTRL.WIDTH_MAX 31) < 2 then 4 else 2)) =
        some 240 ∧
        training31.disc.committed = true)
    ∧ (31 < 32 ∧
      65535 < 2 ^ 16 ∧
        85 < 256 ∧
          (port31 1).get (Reg.UBN_PORT_STATUS.STATE 31) = 1 ∧
        ((port31 1).port 31).trained = false ∧
        (if (port31 1).get (Reg.UBN_PORT_CTRL.WIDTH_MAX 31) = 0 ∧ 85 = 255 then some 255
        else pickLanes 85 (if (port31 1).get (Reg.UBN_PORT_CTRL.WIDTH_MAX 31) < 2 then 4 else 2)) =
        none) :=
  ⟨by decide +kernel, by decide +kernel, by decide +kernel, by decide +kernel⟩

theorem wit_NeighboursAreIdentified_a :
    (armed3.postFree Who.fw = true ∧
      armed3.hostOpen Who.fw Reg.UBN_DISC_CTRL.addr = true ∧
        armed3.mayField Who.fw Reg.UBN_DISC_CTRL.addr Access.rw = true ∧ bitOf (1#32).toNat 0 = true ∧ armed3.anyArmed = true)
    ∧ (hosted.postFree Who.fw = true ∧
      hosted.hostOpen Who.fw Reg.UBN_DISC_CTRL.addr = true ∧
        hosted.mayField Who.fw Reg.UBN_DISC_CTRL.addr Access.rw = true ∧ bitOf (1#32).toNat 0 = true ∧ hosted.anyArmed = false)
    ∧ (identityFits (identity 77 9) identity1 [0, 0, 1] = false)
    ∧ (31 < 32 ∧
      (planned 1).get (Reg.UBN_PORT_STATUS.STATE 31) = 1 ∧
        identityFits (identity 78 9) identity1 [0, 0, 0, 0, 0] = true ∧
          ((planned 1).port 31).exchAt = some 850 ∧
        (∀ (q : Nat), q < 32 → q ≠ 31 → ((planned 1).port q).exchAt = none) ∧
        ((planned 1).port 31).timedOut = false ∧
        (planned 1).get (Reg.UBN_NBR_VERDICT.LOCAL 31) = 0 ∧
        (planned 1).earlyCheck 31 (readIdentity (identity 78 9, identity1, 0#64)) = some 5)
    ∧ (31 < 32 ∧
      (planned 1).get (Reg.UBN_PORT_STATUS.STATE 31) = 1 ∧
        identityFits (identity 77 9) identity1 [0, 0, 0, 0, 0] = true ∧
          ((planned 1).port 31).exchAt = some 850 ∧
        (∀ (q : Nat), q < 32 → q ≠ 31 → ((planned 1).port q).exchAt = none) ∧
        ((planned 1).port 31).timedOut = false ∧
        (planned 1).get (Reg.UBN_NBR_VERDICT.LOCAL 31) = 0 ∧
        (planned 1).earlyCheck 31 (readIdentity (identity 77 9, identity1, 0#64)) = none ∧
        (planned 1).isPair 31 (readIdentity (identity 77 9, identity1, 0#64)) = true ∧
        (readIdentity (identity 77 9, identity1, 0#64)).tier = (planned 1).planTier 31 ∧
        (planned 1).get (Reg.UBN_PORT_STATUS.LANE_OK 31) &&& ((planned 1).port 31).lanes =
        ((planned 1).port 31).lanes)
    ∧ (31 < 32 ∧
      (heard31.port 31).exchAt = some 850 ∧
        (heard31.port 31).frame = none ∧
          (heard31.port 31).timedOut = false ∧
        (∀ (q : Nat), q < 32 → q ≠ 31 → (heard31.port q).exchAt = none) ∧
        heard31.get (Reg.UBN_NBR_VERDICT.LOCAL 31) = 0 ∧
        heard31.get (Reg.UBN_PORT_STATUS.STATE 31) = 1 ∧
        (heard31.clk.load = none ∨ heard31.tickEn = true) ∧
        (heard31.portHeard 31 = true ∨ 850 ≤ (heard31.port 31).trainedAt)) :=
  ⟨by decide +kernel, by decide +kernel, by decide +kernel, by decide +kernel, by decide +kernel, by decide +kernel⟩

theorem wit_NeighboursAreIdentified_b :
    (31 < 32 ∧
      (trained31.port 31).exchAt = some 850 ∧
        (trained31.port 31).frame = none ∧
          (trained31.port 31).timedOut = false ∧
        (∀ (q : Nat), q < 32 → q ≠ 31 → (trained31.port q).exchAt = none) ∧
        trained31.get (Reg.UBN_NBR_VERDICT.LOCAL 31) = 0 ∧
        trained31.get (Reg.UBN_PORT_STATUS.STATE 31) = 1 ∧
        (trained31.clk.load = none ∨ trained31.tickEn = true) ∧
        (trained31.portHeard 31 = true ∨ 850 ≤ (trained31.port 31).trainedAt))
    ∧ (31 < 32 ∧
      ((planned 1).port 31).exchAt = some 850 ∧
        ((planned 1).port 31).frame = none ∧
          ((planned 1).port 31).timedOut = false ∧
        (∀ (q : Nat), q < 32 → q ≠ 31 → ((planned 1).port q).exchAt = none) ∧
        (planned 1).get (Reg.UBN_NBR_VERDICT.LOCAL 31) = 0 ∧
        (planned 1).get (Reg.UBN_PORT_STATUS.STATE 31) = 1 ∧
        ((planned 1).clk.load = none ∨ (planned 1).tickEn = true) ∧
        (planned 1).portHeard 31 = false ∧ ((planned 1).port 31).trainedAt < 850)
    ∧ (31 < 32 ∧
      missing31.disc.committed = true ∧
        (missing31.planUse 31 = 1 ∨ missing31.planUse 31 = 2) ∧
          (missing31.port 31).missing = false ∧
        missing31.get (Reg.UBN_NBR_VERDICT.LOCAL 31) = 0 ∧ (missing31.clk.load = none ∨ missing31.tickEn = true)) :=
  ⟨by decide +kernel, by decide +kernel, by decide +kernel⟩

theorem wit_ContextCommands_a :
    ((3 < 12 ∧
        (cmd 1 0 0).ctx < 256 ∧
          (cmd 1 0 0).op = 1 ∧
        ((serving 0 (cmd 1 0 0)).srvAt 3).cmds = [cmd 1 0 0] ∧
        (serving 0 (cmd 1 0 0)).cmdDue 3 (cmd 1 0 0) = true ∧
        (serving 0 (cmd 1 0 0)).recording 3 = false ∧
        (serving 0 (cmd 1 0 0)).pciUp = true ∧
        ((serving 0 (cmd 1 0 0)).get
        (Reg.SRV_RING_PROD.PROD 3 ((serving 0 (cmd 1 0 0)).get (Reg.SRV_CTRL.CMPL_RING 3))) +
        65536 -
        (serving 0 (cmd 1 0 0)).get
        (Reg.SRV_RING_CONS.CONS 3 ((serving 0 (cmd 1 0 0)).get (Reg.SRV_CTRL.CMPL_RING 3)))) %
        65536 +
        1 ≤
        2 ^
        (serving 0 (cmd 1 0 0)).get
        (Reg.SRV_RING_SIZE.SIZE 3 ((serving 0 (cmd 1 0 0)).get (Reg.SRV_CTRL.CMPL_RING 3)))) ∧
      (serving 0 (cmd 1 0 0)).ctxState 3 (cmd 1 0 0).ctx = 0)
    ∧ ((3 < 12 ∧
        (cmd 1 0 0).ctx < 256 ∧
          (cmd 1 0 0).op = 1 ∧
        ((serving 1 (cmd 1 0 0)).srvAt 3).cmds = [cmd 1 0 0] ∧
        (serving 1 (cmd 1 0 0)).cmdDue 3 (cmd 1 0 0) = true ∧
        (serving 1 (cmd 1 0 0)).recording 3 = false ∧
        (serving 1 (cmd 1 0 0)).pciUp = true ∧
        ((serving 1 (cmd 1 0 0)).get
        (Reg.SRV_RING_PROD.PROD 3 ((serving 1 (cmd 1 0 0)).get (Reg.SRV_CTRL.CMPL_RING 3))) +
        65536 -
        (serving 1 (cmd 1 0 0)).get
        (Reg.SRV_RING_CONS.CONS 3 ((serving 1 (cmd 1 0 0)).get (Reg.SRV_CTRL.CMPL_RING 3)))) %
        65536 +
        1 ≤
        2 ^
        (serving 1 (cmd 1 0 0)).get
        (Reg.SRV_RING_SIZE.SIZE 3 ((serving 1 (cmd 1 0 0)).get (Reg.SRV_CTRL.CMPL_RING 3)))) ∧
      (serving 1 (cmd 1 0 0)).ctxState 3 (cmd 1 0 0).ctx ≠ 0)
    ∧ ((3 < 12 ∧
        (cmd 2 100 4294967295).ctx < 256 ∧
          (cmd 2 100 4294967295).op = 2 ∧
        ((serving 2 (cmd 2 100 4294967295)).srvAt 3).cmds = [cmd 2 100 4294967295] ∧
        (serving 2 (cmd 2 100 4294967295)).cmdDue 3 (cmd 2 100 4294967295) = true ∧
        (serving 2 (cmd 2 100 4294967295)).recording 3 = false ∧
        (serving 2 (cmd 2 100 4294967295)).pciUp = true ∧
        ((serving 2 (cmd 2 100 4294967295)).get
        (Reg.SRV_RING_PROD.PROD 3 ((serving 2 (cmd 2 100 4294967295)).get (Reg.SRV_CTRL.CMPL_RING 3))) +
        65536 -
        (serving 2 (cmd 2 100 4294967295)).get
        (Reg.SRV_RING_CONS.CONS 3 ((serving 2 (cmd 2 100 4294967295)).get (Reg.SRV_CTRL.CMPL_RING 3)))) %
        65536 +
        1 ≤
        2 ^
        (serving 2 (cmd 2 100 4294967295)).get
        (Reg.SRV_RING_SIZE.SIZE 3 ((serving 2 (cmd 2 100 4294967295)).get (Reg.SRV_CTRL.CMPL_RING 3)))) ∧
      ((serving 2 (cmd 2 100 4294967295)).ctxState 3 (cmd 2 100 4294967295).ctx = 1 ∨
          (serving 2 (cmd 2 100 4294967295)).ctxState 3 (cmd 2 100 4294967295).ctx = 2) ∧
        (∀ (x : Nat),
        x ∈
        List.map (fun x => BitVec.toNat x)
        (List.filter (fun w => decide (w ≠ 4294967295)) [(cmd 2 100 4294967295).arg0, (cmd 2 100 4294967295).arg1]) →
        x ≤ (serving 2 (cmd 2 100 4294967295)).get (Reg.SRV_CTX_CFG.VOCAB_M1 3 (cmd 2 100 4294967295).ctx)) ∧
          ((serving 2 (cmd 2 100 4294967295)).ctx 3 (cmd 2 100 4294967295).ctx).input.length +
        (List.map (fun x => BitVec.toNat x)
        (List.filter (fun w => decide (w ≠ 4294967295))
        [(cmd 2 100 4294967295).arg0, (cmd 2 100 4294967295).arg1])).length ≤
        64)
    ∧ ((3 < 12 ∧
        (cmd 2 1 2).ctx < 256 ∧
          (cmd 2 1 2).op = 2 ∧
        ((serving 3 (cmd 2 1 2)).srvAt 3).cmds = [cmd 2 1 2] ∧
        (serving 3 (cmd 2 1 2)).cmdDue 3 (cmd 2 1 2) = true ∧
        (serving 3 (cmd 2 1 2)).recording 3 = false ∧
        (serving 3 (cmd 2 1 2)).pciUp = true ∧
        ((serving 3 (cmd 2 1 2)).get
        (Reg.SRV_RING_PROD.PROD 3 ((serving 3 (cmd 2 1 2)).get (Reg.SRV_CTRL.CMPL_RING 3))) +
        65536 -
        (serving 3 (cmd 2 1 2)).get
        (Reg.SRV_RING_CONS.CONS 3 ((serving 3 (cmd 2 1 2)).get (Reg.SRV_CTRL.CMPL_RING 3)))) %
        65536 +
        1 ≤
        2 ^
        (serving 3 (cmd 2 1 2)).get
        (Reg.SRV_RING_SIZE.SIZE 3 ((serving 3 (cmd 2 1 2)).get (Reg.SRV_CTRL.CMPL_RING 3)))) ∧
      (serving 3 (cmd 2 1 2)).ctxState 3 (cmd 2 1 2).ctx ≠ 1 ∧ (serving 3 (cmd 2 1 2)).ctxState 3 (cmd 2 1 2).ctx ≠ 2)
    ∧ ((3 < 12 ∧
        (cmd 3 1 0).ctx < 256 ∧
          (cmd 3 1 0).op = 3 ∧
        ((serving 1 (cmd 3 1 0)).srvAt 3).cmds = [cmd 3 1 0] ∧
        (serving 1 (cmd 3 1 0)).cmdDue 3 (cmd 3 1 0) = true ∧
        (serving 1 (cmd 3 1 0)).recording 3 = false ∧
        (serving 1 (cmd 3 1 0)).pciUp = true ∧
        ((serving 1 (cmd 3 1 0)).get
        (Reg.SRV_RING_PROD.PROD 3 ((serving 1 (cmd 3 1 0)).get (Reg.SRV_CTRL.CMPL_RING 3))) +
        65536 -
        (serving 1 (cmd 3 1 0)).get
        (Reg.SRV_RING_CONS.CONS 3 ((serving 1 (cmd 3 1 0)).get (Reg.SRV_CTRL.CMPL_RING 3)))) %
        65536 +
        1 ≤
        2 ^
        (serving 1 (cmd 3 1 0)).get
        (Reg.SRV_RING_SIZE.SIZE 3 ((serving 1 (cmd 3 1 0)).get (Reg.SRV_CTRL.CMPL_RING 3)))) ∧
      (serving 1 (cmd 3 1 0)).ctxState 3 (cmd 3 1 0).ctx = 1)
    ∧ ((3 < 12 ∧
        (cmd 3 1 0).ctx < 256 ∧
          (cmd 3 1 0).op = 3 ∧
        ((serving 2 (cmd 3 1 0)).srvAt 3).cmds = [cmd 3 1 0] ∧
        (serving 2 (cmd 3 1 0)).cmdDue 3 (cmd 3 1 0) = true ∧
        (serving 2 (cmd 3 1 0)).recording 3 = false ∧
        (serving 2 (cmd 3 1 0)).pciUp = true ∧
        ((serving 2 (cmd 3 1 0)).get
        (Reg.SRV_RING_PROD.PROD 3 ((serving 2 (cmd 3 1 0)).get (Reg.SRV_CTRL.CMPL_RING 3))) +
        65536 -
        (serving 2 (cmd 3 1 0)).get
        (Reg.SRV_RING_CONS.CONS 3 ((serving 2 (cmd 3 1 0)).get (Reg.SRV_CTRL.CMPL_RING 3)))) %
        65536 +
        1 ≤
        2 ^
        (serving 2 (cmd 3 1 0)).get
        (Reg.SRV_RING_SIZE.SIZE 3 ((serving 2 (cmd 3 1 0)).get (Reg.SRV_CTRL.CMPL_RING 3)))) ∧
      (serving 2 (cmd 3 1 0)).ctxState 3 (cmd 3 1 0).ctx ≠ 1) :=
  ⟨by decide +kernel, by decide +kernel, by decide +kernel, by decide +kernel, by decide +kernel, by decide +kernel⟩

theorem wit_ContextCommands_b :
    ((3 < 12 ∧
        (cmd 5 60 77).ctx < 256 ∧
          (cmd 5 60 77).op = 5 ∧
        ((serving 1 (cmd 5 60 77)).srvAt 3).cmds = [cmd 5 60 77] ∧
        (serving 1 (cmd 5 60 77)).cmdDue 3 (cmd 5 60 77) = true ∧
        (serving 1 (cmd 5 60 77)).recording 3 = false ∧
        (serving 1 (cmd 5 60 77)).pciUp = true ∧
        ((serving 1 (cmd 5 60 77)).get
        (Reg.SRV_RING_PROD.PROD 3 ((serving 1 (cmd 5 60 77)).get (Reg.SRV_CTRL.CMPL_RING 3))) +
        65536 -
        (serving 1 (cmd 5 60 77)).get
        (Reg.SRV_RING_CONS.CONS 3 ((serving 1 (cmd 5 60 77)).get (Reg.SRV_CTRL.CMPL_RING 3)))) %
        65536 +
        1 ≤
        2 ^
        (serving 1 (cmd 5 60 77)).get
        (Reg.SRV_RING_SIZE.SIZE 3 ((serving 1 (cmd 5 60 77)).get (Reg.SRV_CTRL.CMPL_RING 3)))) ∧
      (serving 1 (cmd 5 60 77)).ctxState 3 (cmd 5 60 77).ctx ≠ 0 ∧
        BitVec.toNat (cmd 5 60 77).arg0 ∈ [16, 20, 24, 28, 32, 36, 48, 60])
    ∧ ((3 < 12 ∧
        (cmd 5 16 77).ctx < 256 ∧
          (cmd 5 16 77).op = 5 ∧
        ((serving 2 (cmd 5 16 77)).srvAt 3).cmds = [cmd 5 16 77] ∧
        (serving 2 (cmd 5 16 77)).cmdDue 3 (cmd 5 16 77) = true ∧
        (serving 2 (cmd 5 16 77)).recording 3 = false ∧
        (serving 2 (cmd 5 16 77)).pciUp = true ∧
        ((serving 2 (cmd 5 16 77)).get
        (Reg.SRV_RING_PROD.PROD 3 ((serving 2 (cmd 5 16 77)).get (Reg.SRV_CTRL.CMPL_RING 3))) +
        65536 -
        (serving 2 (cmd 5 16 77)).get
        (Reg.SRV_RING_CONS.CONS 3 ((serving 2 (cmd 5 16 77)).get (Reg.SRV_CTRL.CMPL_RING 3)))) %
        65536 +
        1 ≤
        2 ^
        (serving 2 (cmd 5 16 77)).get
        (Reg.SRV_RING_SIZE.SIZE 3 ((serving 2 (cmd 5 16 77)).get (Reg.SRV_CTRL.CMPL_RING 3)))) ∧
      (serving 2 (cmd 5 16 77)).ctxState 3 (cmd 5 16 77).ctx ≠ 0 ∧
        BitVec.toNat (cmd 5 16 77).arg0 ∈ [16, 20, 24, 28, 32, 36, 48, 60])
    ∧ ((3 < 12 ∧
        (cmd 5 12 77).ctx < 256 ∧
          (cmd 5 12 77).op = 5 ∧
        ((serving 1 (cmd 5 12 77)).srvAt 3).cmds = [cmd 5 12 77] ∧
        (serving 1 (cmd 5 12 77)).cmdDue 3 (cmd 5 12 77) = true ∧
        (serving 1 (cmd 5 12 77)).recording 3 = false ∧
        (serving 1 (cmd 5 12 77)).pciUp = true ∧
        ((serving 1 (cmd 5 12 77)).get
        (Reg.SRV_RING_PROD.PROD 3 ((serving 1 (cmd 5 12 77)).get (Reg.SRV_CTRL.CMPL_RING 3))) +
        65536 -
        (serving 1 (cmd 5 12 77)).get
        (Reg.SRV_RING_CONS.CONS 3 ((serving 1 (cmd 5 12 77)).get (Reg.SRV_CTRL.CMPL_RING 3)))) %
        65536 +
        1 ≤
        2 ^
        (serving 1 (cmd 5 12 77)).get
        (Reg.SRV_RING_SIZE.SIZE 3 ((serving 1 (cmd 5 12 77)).get (Reg.SRV_CTRL.CMPL_RING 3)))) ∧
      ((serving 1 (cmd 5 12 77)).ctxState 3 (cmd 5 12 77).ctx = 0 ∨ BitVec.toNat (cmd 5 12 77).arg0 = 12))
    ∧ ((3 < 12 ∧
        (cmd 6 0 0).ctx < 256 ∧
          (cmd 6 0 0).op = 6 ∧
        ((serving 1 (cmd 6 0 0)).srvAt 3).cmds = [cmd 6 0 0] ∧
        (serving 1 (cmd 6 0 0)).cmdDue 3 (cmd 6 0 0) = true ∧
        (serving 1 (cmd 6 0 0)).recording 3 = false ∧
        (serving 1 (cmd 6 0 0)).pciUp = true ∧
        ((serving 1 (cmd 6 0 0)).get
        (Reg.SRV_RING_PROD.PROD 3 ((serving 1 (cmd 6 0 0)).get (Reg.SRV_CTRL.CMPL_RING 3))) +
        65536 -
        (serving 1 (cmd 6 0 0)).get
        (Reg.SRV_RING_CONS.CONS 3 ((serving 1 (cmd 6 0 0)).get (Reg.SRV_CTRL.CMPL_RING 3)))) %
        65536 +
        1 ≤
        2 ^
        (serving 1 (cmd 6 0 0)).get
        (Reg.SRV_RING_SIZE.SIZE 3 ((serving 1 (cmd 6 0 0)).get (Reg.SRV_CTRL.CMPL_RING 3)))) ∧
      (serving 1 (cmd 6 0 0)).ctxState 3 (cmd 6 0 0).ctx = 1)
    ∧ ((3 < 12 ∧
        (cmd 6 0 0).ctx < 256 ∧
          (cmd 6 0 0).op = 6 ∧
        ((serving 0 (cmd 6 0 0)).srvAt 3).cmds = [cmd 6 0 0] ∧
        (serving 0 (cmd 6 0 0)).cmdDue 3 (cmd 6 0 0) = true ∧
        (serving 0 (cmd 6 0 0)).recording 3 = false ∧
        (serving 0 (cmd 6 0 0)).pciUp = true ∧
        ((serving 0 (cmd 6 0 0)).get
        (Reg.SRV_RING_PROD.PROD 3 ((serving 0 (cmd 6 0 0)).get (Reg.SRV_CTRL.CMPL_RING 3))) +
        65536 -
        (serving 0 (cmd 6 0 0)).get
        (Reg.SRV_RING_CONS.CONS 3 ((serving 0 (cmd 6 0 0)).get (Reg.SRV_CTRL.CMPL_RING 3)))) %
        65536 +
        1 ≤
        2 ^
        (serving 0 (cmd 6 0 0)).get
        (Reg.SRV_RING_SIZE.SIZE 3 ((serving 0 (cmd 6 0 0)).get (Reg.SRV_CTRL.CMPL_RING 3)))) ∧
      (serving 0 (cmd 6 0 0)).ctxState 3 (cmd 6 0 0).ctx ≠ 1) :=
  ⟨by decide +kernel, by decide +kernel, by decide +kernel, by decide +kernel, by decide +kernel⟩

theorem wit_ParkStoreCommands_a :
    ((3 < 12 ∧
        (cmd 7 86400000 0).ctx < 256 ∧
          (cmd 7 86400000 0).op = 7 ∧
        ((serving 1 (cmd 7 86400000 0)).srvAt 3).cmds = [cmd 7 86400000 0] ∧
        (serving 1 (cmd 7 86400000 0)).cmdDue 3 (cmd 7 86400000 0) = true ∧
        (serving 1 (cmd 7 86400000 0)).recording 3 = false ∧
        (serving 1 (cmd 7 86400000 0)).pciUp = true ∧
        ((serving 1 (cmd 7 86400000 0)).get
        (Reg.SRV_RING_PROD.PROD 3 ((serving 1 (cmd 7 86400000 0)).get (Reg.SRV_CTRL.CMPL_RING 3))) +
        65536 -
        (serving 1 (cmd 7 86400000 0)).get
        (Reg.SRV_RING_CONS.CONS 3 ((serving 1 (cmd 7 86400000 0)).get (Reg.SRV_CTRL.CMPL_RING 3)))) %
        65536 +
        1 ≤
        2 ^
        (serving 1 (cmd 7 86400000 0)).get
        (Reg.SRV_RING_SIZE.SIZE 3 ((serving 1 (cmd 7 86400000 0)).get (Reg.SRV_CTRL.CMPL_RING 3)))) ∧
      (serving 1 (cmd 7 86400000 0)).ctxState 3 (cmd 7 86400000 0).ctx = 1 ∧
        1 ≤ BitVec.toNat (cmd 7 86400000 0).arg0 ∧
          BitVec.toNat (cmd 7 86400000 0).arg0 ≤ 86400000 ∧
        (serving 1 (cmd 7 86400000 0)).freeSlot = some 0 ∧
        (serving 1 (cmd 7 86400000 0)).takeGrans
        (48 *
        (serving 1 (cmd 7 86400000 0)).pagesFor 3
        ((serving 1 (cmd 7 86400000 0)).ctxLen 3 (cmd 7 86400000 0).ctx) +
        1) =
        some (List.range 49))
    ∧ ((3 < 12 ∧
        (cmd 7 86400001 0).ctx < 256 ∧
          (cmd 7 86400001 0).op = 7 ∧
        ((serving 1 (cmd 7 86400001 0)).srvAt 3).cmds = [cmd 7 86400001 0] ∧
        (serving 1 (cmd 7 86400001 0)).cmdDue 3 (cmd 7 86400001 0) = true ∧
        (serving 1 (cmd 7 86400001 0)).recording 3 = false ∧
        (serving 1 (cmd 7 86400001 0)).pciUp = true ∧
        ((serving 1 (cmd 7 86400001 0)).get
        (Reg.SRV_RING_PROD.PROD 3 ((serving 1 (cmd 7 86400001 0)).get (Reg.SRV_CTRL.CMPL_RING 3))) +
        65536 -
        (serving 1 (cmd 7 86400001 0)).get
        (Reg.SRV_RING_CONS.CONS 3 ((serving 1 (cmd 7 86400001 0)).get (Reg.SRV_CTRL.CMPL_RING 3)))) %
        65536 +
        1 ≤
        2 ^
        (serving 1 (cmd 7 86400001 0)).get
        (Reg.SRV_RING_SIZE.SIZE 3 ((serving 1 (cmd 7 86400001 0)).get (Reg.SRV_CTRL.CMPL_RING 3)))) ∧
      ((serving 1 (cmd 7 86400001 0)).ctxState 3 (cmd 7 86400001 0).ctx ≠ 1 ∨
        BitVec.toNat (cmd 7 86400001 0).arg0 = 0 ∨ 86400000 < BitVec.toNat (cmd 7 86400001 0).arg0))
    ∧ ((3 < 12 ∧
        (cmd 8 131079 0).ctx < 256 ∧
          (cmd 8 131079 0).op = 8 ∧
        ((parked handle7 0 (cmd 8 131079 0)).srvAt 3).cmds = [cmd 8 131079 0] ∧
        (parked handle7 0 (cmd 8 131079 0)).cmdDue 3 (cmd 8 131079 0) = true ∧
        (parked handle7 0 (cmd 8 131079 0)).recording 3 = false ∧
        (parked handle7 0 (cmd 8 131079 0)).pciUp = true ∧
        ((parked handle7 0 (cmd 8 131079 0)).get
        (Reg.SRV_RING_PROD.PROD 3
        ((parked handle7 0 (cmd 8 131079 0)).get (Reg.SRV_CTRL.CMPL_RING 3))) +
        65536 -
        (parked handle7 0 (cmd 8 131079 0)).get
        (Reg.SRV_RING_CONS.CONS 3 ((parked handle7 0 (cmd 8 131079 0)).get (Reg.SRV_CTRL.CMPL_RING 3)))) %
        65536 +
        1 ≤
        2 ^
        (parked handle7 0 (cmd 8 131079 0)).get
        (Reg.SRV_RING_SIZE.SIZE 3 ((parked handle7 0 (cmd 8 131079 0)).get (Reg.SRV_CTRL.CMPL_RING 3)))) ∧
      (parked handle7 0 (cmd 8 131079 0)).ctxState 3 (cmd 8 131079 0).ctx = 0 ∧
        (parked handle7 0 (cmd 8 131079 0)).lookup 3 (cmd 8 131079 0).arg0 = Lookup.found handle7 ∧
          (parked handle7 0 (cmd 8 131079 0)).now < handle7.expiry ∧
        handle7.layout = (parked handle7 0 (cmd 8 131079 0)).get (Reg.SRV_KV_CFG.LAYOUT 3) ∧
        (parked handle7 0 (cmd 8 131079 0)).pagesFor 3 handle7.len ≤
        ((parked handle7 0 (cmd 8 131079 0)).freePages 3).length)
    ∧ ((3 < 12 ∧
        (cmd 8 131080 0).ctx < 256 ∧
          (cmd 8 131080 0).op = 8 ∧
        ((parked handle7 0 (cmd 8 131080 0)).srvAt 3).cmds = [cmd 8 131080 0] ∧
        (parked handle7 0 (cmd 8 131080 0)).cmdDue 3 (cmd 8 131080 0) = true ∧
        (parked handle7 0 (cmd 8 131080 0)).recording 3 = false ∧
        (parked handle7 0 (cmd 8 131080 0)).pciUp = true ∧
        ((parked handle7 0 (cmd 8 131080 0)).get
        (Reg.SRV_RING_PROD.PROD 3
        ((parked handle7 0 (cmd 8 131080 0)).get (Reg.SRV_CTRL.CMPL_RING 3))) +
        65536 -
        (parked handle7 0 (cmd 8 131080 0)).get
        (Reg.SRV_RING_CONS.CONS 3 ((parked handle7 0 (cmd 8 131080 0)).get (Reg.SRV_CTRL.CMPL_RING 3)))) %
        65536 +
        1 ≤
        2 ^
        (parked handle7 0 (cmd 8 131080 0)).get
        (Reg.SRV_RING_SIZE.SIZE 3 ((parked handle7 0 (cmd 8 131080 0)).get (Reg.SRV_CTRL.CMPL_RING 3)))) ∧
      (parked handle7 0 (cmd 8 131080 0)).ctxState 3 (cmd 8 131080 0).ctx = 0 ∧
        (parked handle7 0 (cmd 8 131080 0)).lookup 3 (cmd 8 131080 0).arg0 = Lookup.bad)
    ∧ ((3 < 12 ∧
        (cmd 9 131079 0).ctx < 256 ∧
          (cmd 9 131079 0).op = 9 ∧
        ((parked handle7 0 (cmd 9 131079 0)).srvAt 3).cmds = [cmd 9 131079 0] ∧
        (parked handle7 0 (cmd 9 131079 0)).cmdDue 3 (cmd 9 131079 0) = true ∧
        (parked handle7 0 (cmd 9 131079 0)).recording 3 = false ∧
        (parked handle7 0 (cmd 9 131079 0)).pciUp = true ∧
        ((parked handle7 0 (cmd 9 131079 0)).get
        (Reg.SRV_RING_PROD.PROD 3
        ((parked handle7 0 (cmd 9 131079 0)).get (Reg.SRV_CTRL.CMPL_RING 3))) +
        65536 -
        (parked handle7 0 (cmd 9 131079 0)).get
        (Reg.SRV_RING_CONS.CONS 3 ((parked handle7 0 (cmd 9 131079 0)).get (Reg.SRV_CTRL.CMPL_RING 3)))) %
        65536 +
        1 ≤
        2 ^
        (parked handle7 0 (cmd 9 131079 0)).get
        (Reg.SRV_RING_SIZE.SIZE 3 ((parked handle7 0 (cmd 9 131079 0)).get (Reg.SRV_CTRL.CMPL_RING 3)))) ∧
      (parked handle7 0 (cmd 9 131079 0)).lookup 3 (cmd 9 131079 0).arg0 = Lookup.found handle7)
    ∧ ((3 < 12 ∧
        (cmd 10 0 0).ctx < 256 ∧
          (cmd 10 0 0).op = 10 ∧
        ((parking handle7 3).srvAt 3).cmds = [cmd 10 0 0] ∧
        (parking handle7 3).cmdDue 3 (cmd 10 0 0) = true ∧
        (parking handle7 3).recording 3 = false ∧
        (parking handle7 3).pciUp = true ∧
        ((parking handle7 3).get (Reg.SRV_RING_PROD.PROD 3 ((parking handle7 3).get (Reg.SRV_CTRL.CMPL_RING 3))) +
        65536 -
        (parking handle7 3).get
        (Reg.SRV_RING_CONS.CONS 3 ((parking handle7 3).get (Reg.SRV_CTRL.CMPL_RING 3)))) %
        65536 +
        1 ≤
        2 ^
        (parking handle7 3).get
        (Reg.SRV_RING_SIZE.SIZE 3 ((parking handle7 3).get (Reg.SRV_CTRL.CMPL_RING 3)))) ∧
      ((parking handle7 3).pciUp = true ∧
          ((parking handle7 3).get (Reg.SRV_RING_PROD.PROD 3 ((parking handle7 3).get (Reg.SRV_CTRL.CMPL_RING 3))) + 65536 -
        (parking handle7 3).get (Reg.SRV_RING_CONS.CONS 3 ((parking handle7 3).get (Reg.SRV_CTRL.CMPL_RING 3)))) %
        65536 +
        2 ≤
        2 ^ (parking handle7 3).get (Reg.SRV_RING_SIZE.SIZE 3 ((parking handle7 3).get (Reg.SRV_CTRL.CMPL_RING 3)))) ∧
        (parking handle7 3).ctxState 3 (cmd 10 0 0).ctx = 3 ∧ ((parking handle7 3).ctx 3 (cmd 10 0 0).ctx).xfer = some (7, 8)) :=
  ⟨by decide +kernel, by decide +kernel, by decide +kernel, by decide +kernel, by decide +kernel, by decide +kernel⟩

theorem wit_ParkStoreCommands_b :
    ((3 < 12 ∧
        (cmd 11 131079 1).ctx < 256 ∧
          (cmd 11 131079 1).op = 11 ∧
        ((parked handle7 0 (cmd 11 131079 1)).srvAt 3).cmds = [cmd 11 131079 1] ∧
        (parked handle7 0 (cmd 11 131079 1)).cmdDue 3 (cmd 11 131079 1) = true ∧
        (parked handle7 0 (cmd 11 131079 1)).recording 3 = false ∧
        (parked handle7 0 (cmd 11 131079 1)).pciUp = true ∧
        ((parked handle7 0 (cmd 11 131079 1)).get
        (Reg.SRV_RING_PROD.PROD 3
        ((parked handle7 0 (cmd 11 131079 1)).get (Reg.SRV_CTRL.CMPL_RING 3))) +
        65536 -
        (parked handle7 0 (cmd 11 131079 1)).get
        (Reg.SRV_RING_CONS.CONS 3
        ((parked handle7 0 (cmd 11 131079 1)).get (Reg.SRV_CTRL.CMPL_RING 3)))) %
        65536 +
        1 ≤
        2 ^
        (parked handle7 0 (cmd 11 131079 1)).get
        (Reg.SRV_RING_SIZE.SIZE 3 ((parked handle7 0 (cmd 11 131079 1)).get (Reg.SRV_CTRL.CMPL_RING 3)))) ∧
      (parked handle7 0 (cmd 11 131079 1)).lookup 3 (cmd 11 131079 1).arg0 = Lookup.found handle7 ∧
        1 ≤ BitVec.toNat (cmd 11 131079 1).arg1 ∧ BitVec.toNat (cmd 11 131079 1).arg1 ≤ 86400000)
    ∧ ((12 = 0 ∨ 11 < 12) ∧
      3 < 12 ∧
        (cmd 12 0 0).ctx < 256 ∧
          (cmd 12 0 0).op = 12 ∧
        ((serving 1 (cmd 12 0 0)).srvAt 3).cmds = [cmd 12 0 0] ∧
        (serving 1 (cmd 12 0 0)).cmdDue 3 (cmd 12 0 0) = true ∧
        (serving 1 (cmd 12 0 0)).recording 3 = false ∧
        (serving 1 (cmd 12 0 0)).pciUp = true ∧
        ((serving 1 (cmd 12 0 0)).get
        (Reg.SRV_RING_PROD.PROD 3 ((serving 1 (cmd 12 0 0)).get (Reg.SRV_CTRL.CMPL_RING 3))) +
        65536 -
        (serving 1 (cmd 12 0 0)).get
        (Reg.SRV_RING_CONS.CONS 3 ((serving 1 (cmd 12 0 0)).get (Reg.SRV_CTRL.CMPL_RING 3)))) %
        65536 +
        1 ≤
        2 ^
        (serving 1 (cmd 12 0 0)).get
        (Reg.SRV_RING_SIZE.SIZE 3 ((serving 1 (cmd 12 0 0)).get (Reg.SRV_CTRL.CMPL_RING 3))))
    ∧ (((serving 1 atEn).srvAt 3).cmds = [atEn] ∧
      atEn.atEn = true ∧
        1 ≤ atEn.op ∧
          atEn.op ≤ 11 ∧
        (∀ (n : Nat), ((serving 1 atEn).srvAt 3).boundary = some n → n % 65536 ≠ atEn.at_) ∧
        Instr.cmdTouch 3 ∈
        [Instr.cmdOpen 3, Instr.cmdAppend 3, Instr.cmdGo 3, Instr.cmdCancel 3, Instr.cmdSet 3, Instr.cmdClose 3,
        Instr.cmdPark 3, Instr.cmdResume 3, Instr.cmdDrop 3, Instr.cmdAbort 3, Instr.cmdTouch 3,
        Instr.badOpcodeCommand 3])
    ∧ (((serving 1 atEn).srvAt 3).cmds = [atEn] ∧
      atEn.atEn = true ∧
        1 ≤ atEn.op ∧
          atEn.op ≤ 11 ∧
        (∀ (n : Nat), ((serving 1 atEn).srvAt 3).boundary = some n → n % 65536 ≠ atEn.at_) ∧
        Instr.badOpcodeCommand 3 ∈
        [Instr.cmdOpen 3, Instr.cmdAppend 3, Instr.cmdGo 3, Instr.cmdCancel 3, Instr.cmdSet 3, Instr.cmdClose 3,
        Instr.cmdPark 3, Instr.cmdResume 3, Instr.cmdDrop 3, Instr.cmdAbort 3, Instr.cmdTouch 3,
        Instr.badOpcodeCommand 3]) :=
  ⟨by decide +kernel, by decide +kernel, by decide +kernel, by decide +kernel⟩

theorem wit_ParkedContexts :
    ((allReady (parking handleOpen 3)).handleAt 7 = some handleOpen ∧
      handleOpen.part < 12 ∧
        handleOpen.ctx < 256 ∧
          handleOpen.valid = false ∧
        handleOpen.freed = false ∧
        (allReady (parking handleOpen 3)).ctxState handleOpen.part handleOpen.ctx = 3 ∧
        ((allReady (parking handleOpen 3)).pciUp = true ∧
        ((allReady (parking handleOpen 3)).get
        (Reg.SRV_RING_PROD.PROD handleOpen.part
        ((allReady (parking handleOpen 3)).get (Reg.SRV_CTRL.CMPL_RING handleOpen.part))) +
        65536 -
        (allReady (parking handleOpen 3)).get
        (Reg.SRV_RING_CONS.CONS handleOpen.part
        ((allReady (parking handleOpen 3)).get (Reg.SRV_CTRL.CMPL_RING handleOpen.part)))) %
        65536 +
        1 ≤
        2 ^
        (allReady (parking handleOpen 3)).get
        (Reg.SRV_RING_SIZE.SIZE handleOpen.part
        ((allReady (parking handleOpen 3)).get (Reg.SRV_CTRL.CMPL_RING handleOpen.part)))) ∧
        (allReady (parking handleOpen 3)).bulk.upset = [] ∧
        ∀ (a : Nat),
        a < 48 →
        ∀ (k : Nat), k < 8 → (allReady (parking handleOpen 3)).sliceReady (ashOf handleOpen.part a) k = true)
    ∧ (3 < 12 ∧
      255 < 256 ∧
        (allReady (parking handle7 4)).ctxState 3 255 = 4 ∧
          ((allReady (parking handle7 4)).ctx 3 255).resumed = none ∧
        ((allReady (parking handle7 4)).ctx 3 255).xfer = some (7, 8) ∧
        (allReady (parking handle7 4)).handleAt 7 = some handle7 ∧
        handle7.pins ≤ 1 ∧
        (((allReady (parking handle7 4)).ctx 3 255).keep = false ∨ handle7.doomed = true) ∧
        ((allReady (parking handle7 4)).pciUp = true ∧
        ((allReady (parking handle7 4)).get
        (Reg.SRV_RING_PROD.PROD 3 ((allReady (parking handle7 4)).get (Reg.SRV_CTRL.CMPL_RING 3))) +
        65536 -
        (allReady (parking handle7 4)).get
        (Reg.SRV_RING_CONS.CONS 3 ((allReady (parking handle7 4)).get (Reg.SRV_CTRL.CMPL_RING 3)))) %
        65536 +
        1 ≤
        2 ^
        (allReady (parking handle7 4)).get
        (Reg.SRV_RING_SIZE.SIZE 3 ((allReady (parking handle7 4)).get (Reg.SRV_CTRL.CMPL_RING 3)))) ∧
        (allReady (parking handle7 4)).parkBad handle7 = none ∧
        (∀ (a : Nat),
        a < 48 → ∀ (k : Nat), k < 8 → (allReady (parking handle7 4)).sliceReady (ashOf 3 a) k = true) ∧
        handle7.grans.getLast? = some 0)
    ∧ (3 < 12 ∧
      255 < 256 ∧
        (parking handle7 4).ctxState 3 255 = 4 ∧
          ((parking handle7 4).ctx 3 255).resumed = none ∧
        ((parking handle7 4).ctx 3 255).xfer = some (7, 8) ∧
        (parking handle7 4).get Reg.MOR_UE_COUNT.COUNT + 1 < 2 ^ 32 ∧
        ((parking handle7 4).pciUp = true ∧
        ((parking handle7 4).get (Reg.SRV_RING_PROD.PROD 3 ((parking handle7 4).get (Reg.SRV_CTRL.CMPL_RING 3))) +
        65536 -
        (parking handle7 4).get
        (Reg.SRV_RING_CONS.CONS 3 ((parking handle7 4).get (Reg.SRV_CTRL.CMPL_RING 3)))) %
        65536 +
        1 ≤
        2 ^
        (parking handle7 4).get
        (Reg.SRV_RING_SIZE.SIZE 3 ((parking handle7 4).get (Reg.SRV_CTRL.CMPL_RING 3)))) ∧
        ∀ (h : Handle), (parking handle7 4).handleAt 7 = some h → h.pins ≤ 1)
    ∧ ((parking handle7 3).handleAt 7 = some handle7 ∧
      handle7.valid = true ∧
        handle7.pinned = false ∧
          handle7.expired = false ∧
        handle7.freed = false ∧
        (parking handle7 3).get Reg.SRV_PARK_EXPIRED.COUNT + 1 < 2 ^ 32 ∧
        handle7.part < 12 ∧
        ((parking handle7 3).pciUp = true ∧
        ((parking handle7 3).get
        (Reg.SRV_RING_PROD.PROD handle7.part
        ((parking handle7 3).get (Reg.SRV_CTRL.CMPL_RING handle7.part))) +
        65536 -
        (parking handle7 3).get
        (Reg.SRV_RING_CONS.CONS handle7.part
        ((parking handle7 3).get (Reg.SRV_CTRL.CMPL_RING handle7.part)))) %
        65536 +
        1 ≤
        2 ^
        (parking handle7 3).get
        (Reg.SRV_RING_SIZE.SIZE handle7.part
        ((parking handle7 3).get (Reg.SRV_CTRL.CMPL_RING handle7.part)))) ∧
        ((parking handle7 3).clk.load = none ∨ (parking handle7 3).tickEn = true)) :=
  ⟨by decide +kernel, by decide +kernel, by decide +kernel, by decide +kernel⟩

theorem wit_BoundariesCancelsAndEntries_a :
    (3 < 12 ∧
      255 < 256 ∧
        (boundary3.srvAt 3).boundary = some 7 ∧
          (boundary3.srvAt 3).ctxs = [(255, inputs)] ∧
        (boundary3.srvAt 3).cmds = [] ∧
        (boundary3.srvAt 3).inbox = [] ∧
        inputs.resumed = none ∧
        inputs.input ≠ [] ∧
        boundary3.recd.mode = 0 ∧
        boundary3.recd.want = none ∧
        (boundary3.ctxState 3 255 = 1 ∨ boundary3.ctxState 3 255 = 2) ∧
        boundary3.get (Reg.SRV_CTX_CFG.CANCEL_EN 3 255) = 0 ∧
        boundary3.ctxLen 3 255 + min 32 inputs.input.length < 2 ^ 32)
    ∧ ((3 < 12 ∧
        (cmd 4 0 0).ctx < 256 ∧
          (cmd 4 0 0).op = 4 ∧
        ((cancelling 2).srvAt 3).cmds = [cmd 4 0 0] ∧
        (cancelling 2).cmdDue 3 (cmd 4 0 0) = true ∧
        (cancelling 2).recording 3 = false ∧
        (cancelling 2).pciUp = true ∧
        ((cancelling 2).get (Reg.SRV_RING_PROD.PROD 3 ((cancelling 2).get (Reg.SRV_CTRL.CMPL_RING 3))) + 65536 -
        (cancelling 2).get (Reg.SRV_RING_CONS.CONS 3 ((cancelling 2).get (Reg.SRV_CTRL.CMPL_RING 3)))) %
        65536 +
        1 ≤
        2 ^ (cancelling 2).get (Reg.SRV_RING_SIZE.SIZE 3 ((cancelling 2).get (Reg.SRV_CTRL.CMPL_RING 3)))) ∧
      (cancelling 2).ctxState 3 (cmd 4 0 0).ctx = 2)
    ∧ ((3 < 12 ∧
        (cmd 4 0 0).ctx < 256 ∧
          (cmd 4 0 0).op = 4 ∧
        ((cancelling 1).srvAt 3).cmds = [cmd 4 0 0] ∧
        (cancelling 1).cmdDue 3 (cmd 4 0 0) = true ∧
        (cancelling 1).recording 3 = false ∧
        (cancelling 1).pciUp = true ∧
        ((cancelling 1).get (Reg.SRV_RING_PROD.PROD 3 ((cancelling 1).get (Reg.SRV_CTRL.CMPL_RING 3))) + 65536 -
        (cancelling 1).get (Reg.SRV_RING_CONS.CONS 3 ((cancelling 1).get (Reg.SRV_CTRL.CMPL_RING 3)))) %
        65536 +
        1 ≤
        2 ^ (cancelling 1).get (Reg.SRV_RING_SIZE.SIZE 3 ((cancelling 1).get (Reg.SRV_CTRL.CMPL_RING 3)))) ∧
      (cancelling 1).ctxState 3 (cmd 4 0 0).ctx ≠ 2)
    ∧ (3 < 12 ∧
      (cancelling 2).postFree Who.pf = true ∧
        (cancelling 2).hostOpen Who.pf (Reg.SRV_DB_CANCEL.addr 3) = true ∧
          (cancelling 2).mayField Who.pf (Reg.SRV_DB_CANCEL.addr 3) Access.wo = true ∧
        (cancelling 2).replaying 3 = false ∧
        (cancelling 2).recording 3 = false ∧
        (cancelling 2).ctxState 3 ((134152447#32).toNat % 256) = 2 ∧
        ((cancelling 2).ctx 3 ((134152447#32).toNat % 256)).undo = [(62, none), (63, none)] ∧ 62 < 2 ^ 32)
    ∧ (3 < 12 ∧
      (cancelling 1).postFree Who.pf = true ∧
        (cancelling 1).hostOpen Who.pf (Reg.SRV_DB_CANCEL.addr 3) = true ∧
          (cancelling 1).mayField Who.pf (Reg.SRV_DB_CANCEL.addr 3) Access.wo = true ∧
        (cancelling 1).replaying 3 = false ∧
        (cancelling 1).recording 3 = false ∧ (cancelling 1).ctxState 3 ((134152447#32).toNat % 256) ≠ 2)
    ∧ (3 < 12 ∧
      255 < 256 ∧
        (serving 0 (cmd 1 0 0)).postFree Who.pf = true ∧
          (serving 0 (cmd 1 0 0)).hostOpen Who.pf (Reg.SRV_CTX_STATE.addr 3 255 + 60) = true ∧
        (serving 0 (cmd 1 0 0)).mayField Who.pf (Reg.SRV_CTX_STATE.addr 3 255 + 60) Access.rw = true ∧
        (serving 0 (cmd 1 0 0)).writeDenied Who.pf (Reg.SRV_CTX_STATE.addr 3 255 + 60) = false ∧
        (serving 0 (cmd 1 0 0)).ctxState 3 255 = 0 ∧ 60 ∈ [16, 20, 24, 28, 32, 36, 48, 60]) :=
  ⟨by decide +kernel, by decide +kernel, by decide +kernel, by decide +kernel, by decide +kernel, by decide +kernel⟩

theorem wit_BoundariesCancelsAndEntries_b :
    (3 < 12 ∧
      255 < 256 ∧
        (serving 1 (cmd 1 0 0)).postFree Who.pf = true ∧
          (serving 1 (cmd 1 0 0)).hostOpen Who.pf (Reg.SRV_CTX_STATE.addr 3 255 + 60) = true ∧
        (serving 1 (cmd 1 0 0)).mayField Who.pf (Reg.SRV_CTX_STATE.addr 3 255 + 60) Access.rw = true ∧
        (serving 1 (cmd 1 0 0)).writeDenied Who.pf (Reg.SRV_CTX_STATE.addr 3 255 + 60) = false ∧
        (serving 1 (cmd 1 0 0)).ctxState 3 255 ≠ 0 ∧ 8 ≤ 60 ∧ 60 < 64) :=
  by decide +kernel

theorem wit_SwapsLoadLibraryEntries_a :
    (3 < 12 ∧
      armed3.postFree Who.pf = true ∧
        armed3.hostOpen Who.pf (Reg.MOR_SWAP_CTRL.addr 3) = true ∧
          armed3.mayField Who.pf (Reg.MOR_SWAP_CTRL.addr 3) Access.wo = true ∧
        (∀ (n : Nat), Who.pf ≠ Who.vf n) ∧
        (armed3.armed (armed3.leadOf 3) || decide (armed3.get (Reg.MOR_SWAP_STATUS.BUSY 3) = 1)) = true)
    ∧ (3 < 12 ∧
      library.postFree Who.pf = true ∧
        library.hostOpen Who.pf (Reg.MOR_SWAP_CTRL.addr 3) = true ∧
          library.mayField Who.pf (Reg.MOR_SWAP_CTRL.addr 3) Access.wo = true ∧
        (∀ (n : Nat), Who.pf ≠ Who.vf n) ∧
        (library.armed (library.leadOf 3) || decide (library.get (Reg.MOR_SWAP_STATUS.BUSY 3) = 1)) = false ∧
        (∀ (r : Nat),
        r ∈
        List.map (fun x => library.get (Reg.MOR_SWAP_ROW.ROW 3) + x)
        (List.range (ceilDiv (library.entryAt (library.get (Reg.MOR_SWAP_ROW.ROW 3))).length 64)) →
        library.rowBad r = false) ∧
        library.entryValid 3 (library.entryAt (library.get (Reg.MOR_SWAP_ROW.ROW 3))) = true)
    ∧ (3 < 12 ∧
      libraryBad.postFree Who.pf = true ∧
        libraryBad.hostOpen Who.pf (Reg.MOR_SWAP_CTRL.addr 3) = true ∧
          libraryBad.mayField Who.pf (Reg.MOR_SWAP_CTRL.addr 3) Access.wo = true ∧
        (∀ (n : Nat), Who.pf ≠ Who.vf n) ∧
        (libraryBad.armed (libraryBad.leadOf 3) || decide (libraryBad.get (Reg.MOR_SWAP_STATUS.BUSY 3) = 1)) = false ∧
        (∃ r,
        r ∈
        List.map (fun x => libraryBad.get (Reg.MOR_SWAP_ROW.ROW 3) + x)
        (List.range (ceilDiv (libraryBad.entryAt (libraryBad.get (Reg.MOR_SWAP_ROW.ROW 3))).length 64)) ∧
        libraryBad.rowBad r = true) ∧
        libraryBad.get Reg.MOR_UE_COUNT.COUNT + 1 < 2 ^ 32)
    ∧ (3 < 12 ∧
      hosted.postFree Who.pf = true ∧
        hosted.hostOpen Who.pf (Reg.MOR_SWAP_CTRL.addr 3) = true ∧
          hosted.mayField Who.pf (Reg.MOR_SWAP_CTRL.addr 3) Access.wo = true ∧
        (∀ (n : Nat), Who.pf ≠ Who.vf n) ∧
        (hosted.armed (hosted.leadOf 3) || decide (hosted.get (Reg.MOR_SWAP_STATUS.BUSY 3) = 1)) = false ∧
        (∀ (r : Nat),
        r ∈
        List.map (fun x => hosted.get (Reg.MOR_SWAP_ROW.ROW 3) + x)
        (List.range (ceilDiv (hosted.entryAt (hosted.get (Reg.MOR_SWAP_ROW.ROW 3))).length 64)) →
        hosted.rowBad r = false) ∧
        hosted.entryValid 3 (hosted.entryAt (hosted.get (Reg.MOR_SWAP_ROW.ROW 3))) = false)
    ∧ (3 < 12 ∧
      2 < 12 ∧
        hosted.postFree (Who.vf 2) = true ∧
          hosted.hostOpen (Who.vf 2) (Reg.MOR_SWAP_CTRL.addr 3) = true ∧
        hosted.get (Reg.MGT_PART_HOST_DENIED.COUNT 2) + 1 < 2 ^ 32)
    ∧ (3 < 12 ∧
      swapping.mor.swaps = [swap3] ∧
        swap3.part = 3 ∧
          (∀ (r : Nat), swapping.rowBad r = false) ∧
        ∀ (r : Nat × Nat × Nat), r ∈ swapRows 3 swap3.words → swapping.sliceReady r.snd.fst (bitsOf r.snd.snd 24 22) = true) :=
  ⟨⟨by decide +kernel, by decide +kernel, by decide +kernel, by decide +kernel, nofun, by decide +kernel⟩, ⟨by decide +kernel, by decide +kernel, by decide +kernel, by decide +kernel, nofun, by decide +kernel⟩, ⟨by decide +kernel, by decide +kernel, by decide +kernel, by decide +kernel, nofun, by decide +kernel⟩, ⟨by decide +kernel, by decide +kernel, by decide +kernel, by decide +kernel, nofun, by decide +kernel⟩, by decide +kernel, ⟨by decide +kernel, by decide +kernel, by decide +kernel, no_row_bad (swapping) (by decide +kernel) (by decide +kernel), by decide +kernel⟩⟩

theorem wit_SwapsLoadLibraryEntries_b :
    (3 < 12 ∧
      swapping.mor.swaps = [swap3] ∧
        swap3.part = 3 ∧
          (∀ (r : Nat), swapping.rowBad r = false) ∧
        32 ∈ List.map (fun x => x.fst) (swapRows 3 swap3.words) ∧
        swapping.get Reg.MOR_UE_COUNT.COUNT + 1 < 2 ^ 32 ∧
        ∀ (r : Nat × Nat × Nat),
        r ∈ swapRows 3 swap3.words → swapping.sliceReady r.snd.fst (bitsOf r.snd.snd 24 22) = true) :=
  ⟨by decide +kernel, by decide +kernel, by decide +kernel, no_row_bad (swapping) (by decide +kernel) (by decide +kernel), by decide +kernel, by decide +kernel, by decide +kernel⟩

theorem wit_LoadsFillTheMoraine_a :
    ((loads (List.replicate 64 (desc 1))).postFree Who.pf = true ∧
      (loads (List.replicate 64 (desc 1))).hostOpen Who.pf Reg.MOR_LOAD_D7.addr = true ∧
        (loads (List.replicate 64 (desc 1))).mayField Who.pf Reg.MOR_LOAD_D7.addr Access.wo = true ∧
          64 ≤ (loads (List.replicate 64 (desc 1))).mor.loads.length)
    ∧ ((loads (List.replicate 63 (desc 1))).postFree Who.pf = true ∧
      (loads (List.replicate 63 (desc 1))).hostOpen Who.pf Reg.MOR_LOAD_D7.addr = true ∧
        (loads (List.replicate 63 (desc 1))).mayField Who.pf Reg.MOR_LOAD_D7.addr Access.wo = true ∧
          (loads (List.replicate 63 (desc 1))).mor.loads.length < 64)
    ∧ (List.find? (fun y => decide (y.port = 1)) (loads [desc 1, desc 2]).mor.loads = some (desc 1) ∧
      (loads [desc 1, desc 2]).mor.relayWait = [] ∧
        (loads [desc 1, desc 2]).loadFits (desc 1) = true ∧ (bytes 4096).length = 4096 * (desc 1).len)
    ∧ (List.find? (fun y => decide (y.port = 1)) (loads [descAsh]).mor.loads = some descAsh ∧
      (loads [descAsh]).mor.relayWait = [] ∧
        (loads [descAsh]).loadFits descAsh = true ∧ (bytes 4096).length = 4096 * descAsh.len)
    ∧ (List.find? (fun y => decide (y.port = 1)) (loads [desc 1, desc 2]).mor.loads = some (desc 1) ∧
      (loads [desc 1, desc 2]).mor.relayWait = [] ∧
        (loads [desc 1, desc 2]).loadFits (desc 1) = true ∧ (1 ≠ 0 ∨ (bytes 0).length ≠ 4096 * (desc 1).len))
    ∧ (List.find? (fun y => decide (y.port = 1)) (loads [desc 1, desc 2]).mor.loads = some (desc 1) ∧
      (loads [desc 1, desc 2]).mor.relayWait = [] ∧
        (loads [desc 1, desc 2]).loadFits (desc 1) = true ∧ (0 ≠ 0 ∨ (bytes 0).length ≠ 4096 * (desc 1).len)) :=
  ⟨by decide +kernel, by decide +kernel, by decide +kernel, by decide +kernel, by decide +kernel, by decide +kernel⟩

theorem wit_LoadsFillTheMoraine_b :
    (List.find? (fun y => decide (y.port = 1)) (loads [desc 513]).mor.loads = some (desc 513) ∧
      (loads [desc 513]).mor.relayWait = [] ∧ (loads [desc 513]).loadFits (desc 513) = false)
    ∧ (List.find? (fun y => decide (y.port = 1)) (loads [desc 2]).mor.loads = some (desc 2) ∧
      (loads [desc 2]).mor.relayWait = [] ∧
        (loads [desc 2]).loadFits (desc 2) = true ∧ (bytes 8192).length = 4096 * (desc 2).len)
    ∧ (List.find? (fun y => decide (y.port = 1)) (loadChain false).mor.loads = some descChain ∧
      (loadChain false).mor.relayWait = [] ∧
        (loadChain false).loadFits descChain = true ∧ (bytes 4096).length = 4096 * descChain.len)
    ∧ (List.find? (fun y => decide (y.port = 1)) (loadChain true).mor.loads = some descChain ∧
      (loadChain true).mor.relayWait = [] ∧
        (loadChain true).loadFits descChain = true ∧ (bytes 4096).length = 4096 * descChain.len)
    ∧ (List.find? (fun y => decide (y.port = 1)) loadFull.mor.loads = some descAsh ∧
      loadFull.mor.relayWait = [] ∧ loadFull.loadFits descAsh = true ∧ (bytes 4096).length = 4096 * descAsh.len)
    ∧ (List.find? (fun y => decide (y.port = 1)) (loads [desc 2]).mor.loads = some (desc 2) ∧
      (loads [desc 2]).mor.relayWait = [] ∧
        (loads [desc 2]).loadFits (desc 2) = true ∧ (1 ≠ 0 ∨ (bytes 8191).length ≠ 4096 * (desc 2).len)) :=
  ⟨by decide +kernel, by decide +kernel, by decide +kernel, by decide +kernel, by decide +kernel, by decide +kernel⟩

theorem wit_LoadsFillTheMoraine_c :
    (List.find? (fun y => decide (y.port = 1)) (loads [desc 0]).mor.loads = some (desc 0) ∧
      (loads [desc 0]).mor.relayWait = [] ∧ (loads [desc 0]).loadFits (desc 0) = false)
    ∧ (List.find? (fun y => decide (y.port = 0)) (loads [desc 1]).mor.loads = none)
    ∧ (List.find? (fun y => decide (y.port = 1)) (loads []).mor.loads = none) :=
  ⟨by decide +kernel, by decide +kernel, by decide +kernel⟩

theorem wit_WritesReachTheMoraine_a :
    ((morWriting none 901).mor.writes = [morWrite none] ∧
      (morWrite none).land = none ∧ (morWriting none 901).inShadow (morWrite none).row (morWrite none).rows = true)
    ∧ ((morWriting none 900).mor.writes = [morWrite none] ∧
      (morWrite none).land = none ∧
        (morWriting none 900).inShadow (morWrite none).row (morWrite none).rows = false ∧
          (∀ (r : Nat), (morWriting none 900).stackFailed r = false) ∧
        ((morWrite none).chain = none ∨ (morWriting none 900).mor.relayWait = []))
    ∧ ((morWriting (some 15) 900).mor.writes = [morWrite (some 15)] ∧
      (morWrite (some 15)).land = none ∧
        (morWriting (some 15) 900).inShadow (morWrite (some 15)).row (morWrite (some 15)).rows = false ∧
          (∀ (r : Nat), (morWriting (some 15) 900).stackFailed r = false) ∧
        ((morWrite (some 15)).chain = none ∨ (morWriting (some 15) 900).mor.relayWait = []))
    ∧ ((relaying 14).fab.relayIn[0]? = some (relayPkt 14) ∧
      (decide ((relayPkt 14).dst < 16) && decide ((relaying 14).get (Reg.MOR_CHAIN_CFG.VALID (relayPkt 14).dst) = 1) &&
          decide ((relayPkt 14).addr < (relaying 14).get (Reg.MOR_CHAIN_LEN.LEN (relayPkt 14).dst))) =
        false)
    ∧ ((relaying 15).fab.relayIn[0]? = some (relayPkt 15) ∧
      (decide ((relayPkt 15).dst < 16) && decide ((relaying 15).get (Reg.MOR_CHAIN_CFG.VALID (relayPkt 15).dst) = 1) &&
        decide ((relayPkt 15).addr < (relaying 15).get (Reg.MOR_CHAIN_LEN.LEN (relayPkt 15).dst))) =
          true ∧
        (relaying 15).get (Reg.MOR_CHAIN_CFG.LOCAL_KIND (relayPkt 15).dst) = 1 ∧
          (relaying 15).get (Reg.MOR_CHAIN_CFG.FWD_EN (relayPkt 15).dst) = 0 ∧
        (relaying 15).relayBytes + (relayPkt 15).payload.length ≤ 1048576)
    ∧ (15 < 16 ∧
      Reg.MOR_CHAIN_BASE.addr 15 ∈
          [Reg.MOR_CHAIN_CFG.addr 15, Reg.MOR_CHAIN_BASE.addr 15, Reg.MOR_CHAIN_AUX.addr 15, Reg.MOR_CHAIN_LEN.addr 15] ∧
        hosted.postFree Who.fw = true ∧
          hosted.hostOpen Who.fw (Reg.MOR_CHAIN_BASE.addr 15) = true ∧
        hosted.mayField Who.fw (Reg.MOR_CHAIN_BASE.addr 15) Access.rw = true) :=
  ⟨by decide +kernel, ⟨by decide +kernel, by decide +kernel, by decide +kernel, no_stack_failed (morWriting none 900) (by decide +kernel), by decide +kernel⟩, ⟨by decide +kernel, by decide +kernel, by decide +kernel, no_stack_failed (morWriting (some 15) 900) (by decide +kernel), by decide +kernel⟩, by decide +kernel, by decide +kernel, by decide +kernel⟩

theorem wit_WritesReachTheMoraine_b :
    (15 < 16 ∧
      Reg.MOR_CHAIN_CFG.addr 15 ∈
          [Reg.MOR_CHAIN_CFG.addr 15, Reg.MOR_CHAIN_BASE.addr 15, Reg.MOR_CHAIN_AUX.addr 15, Reg.MOR_CHAIN_LEN.addr 15] ∧
        hosted.postFree Who.fw = true ∧
          hosted.hostOpen Who.fw (Reg.MOR_CHAIN_CFG.addr 15) = true ∧
        hosted.mayField Who.fw (Reg.MOR_CHAIN_CFG.addr 15) Access.rw = true)
    ∧ (31 < 32 ∧ (↑(shadowAt 762).now - ↑(12 * 31)) % 390 = 0)
    ∧ (31 < 32 ∧ (↑(shadowAt 761).now - ↑(12 * 31)) % 195 ≠ 0) :=
  ⟨by decide +kernel, by decide +kernel, by decide +kernel⟩

theorem wit_MoraineErrorsAreReported_a :
    (hosted.get Reg.MOR_CE_COUNT.COUNT + 1 < 2 ^ 32)
    ∧ (hosted.get Reg.MOR_UE_COUNT.COUNT + 1 < 2 ^ 32)
    ∧ (streamRunning.fab.stks[0]? = some (stk false) ∧
      (stk false).dir = false ∧
        (stk false).started = true ∧
          (stk false).mor ≤ 6 ∧
        6 - (stk false).mor ∈ (stk false).left ∧
        (stk false).ash < 576 ∧
        streamRunning.domOf (stk false).ash < 12 ∧ streamRunning.halted (streamRunning.domOf (stk false).ash) = false)
    ∧ (patrol.get Reg.MOR_CTRL.SCRUB_EN = 1 ∧ patrol.inAnyRegion 127 = true ∧ patrol.rowBad 127 = false ∧ 0 = 0)
    ∧ (patrol.get Reg.MOR_CTRL.SCRUB_EN = 1 ∧
      patrol.inAnyRegion 127 = true ∧ patrol.rowBad 127 = false ∧ 1 = 1 ∧ patrol.get Reg.MOR_CE_COUNT.COUNT + 1 < 2 ^ 32)
    ∧ (patrol.get Reg.MOR_CTRL.SCRUB_EN = 1 ∧
      patrol.inAnyRegion 127 = true ∧ patrol.rowBad 127 = false ∧ 2 = 2 ∧ patrol.get Reg.MOR_UE_COUNT.COUNT + 1 < 2 ^ 32) :=
  ⟨by decide +kernel, by decide +kernel, by decide +kernel, by decide +kernel, by decide +kernel, by decide +kernel⟩

theorem wit_MoraineErrorsAreReported_b :
    (noPatrol.get Reg.MOR_CTRL.SCRUB_EN = 0)
    ∧ (31 < 32 ∧ hosted.get (Reg.MOR_STACK.STATE 31) ≠ 2)
    ∧ (31 < 32 ∧ stackGone.get (Reg.MOR_STACK.STATE 31) = 2)
    ∧ (31 < 32)
    ∧ (31 < 32 ∧ 86 < 256)
    ∧ (31 < 32 ∧ 85 < 256) :=
  ⟨by decide +kernel, by decide +kernel, by decide +kernel, by decide +kernel, by decide +kernel, by decide +kernel⟩

theorem wit_MailboxRequestsAreAnswered_a :
    (0 < 13 ∧
      (ask 0 1 0 []).mbxBusy 0 = true ∧
        (ask 0 1 0 []).mbxOpcode 0 = 1 ∧
          (ask 0 1 0 []).mgmt.boluk = true ∧ (ask 0 1 0 []).mgmt.powered = true ∧ (ask 0 1 0 []).mbxTurn 0 = true)
    ∧ (12 < 13 ∧
      (ask 12 1 0 []).mbxBusy 12 = true ∧
        (ask 12 1 0 []).mbxOpcode 12 = 1 ∧
          (ask 12 1 0 []).mgmt.boluk = true ∧ (ask 12 1 0 []).mgmt.powered = true ∧ (ask 12 1 0 []).mbxTurn 12 = true)
    ∧ ((12 < 13 ∧
        (ask 12 6 4 [0]).mbxBusy 12 = true ∧
          (ask 12 6 4 [0]).mbxOpcode 12 = 6 ∧
        (ask 12 6 4 [0]).mgmt.boluk = true ∧ (ask 12 6 4 [0]).mgmt.powered = true ∧ (ask 12 6 4 [0]).mbxTurn 12 = true) ∧
      4 ≤ (ask 12 6 4 [0]).mbxLen 12)
    ∧ ((11 < 13 ∧
        (ask 11 6 3 [0]).mbxBusy 11 = true ∧
          (ask 11 6 3 [0]).mbxOpcode 11 = 6 ∧
        (ask 11 6 3 [0]).mgmt.boluk = true ∧ (ask 11 6 3 [0]).mgmt.powered = true ∧ (ask 11 6 3 [0]).mbxTurn 11 = true) ∧
      (ask 11 6 3 [0]).mbxLen 11 < 4)
    ∧ ((12 < 13 ∧
        (ask 12 7 1 [8]).mbxBusy 12 = true ∧
          (ask 12 7 1 [8]).mbxOpcode 12 = 7 ∧
        (ask 12 7 1 [8]).mgmt.boluk = true ∧ (ask 12 7 1 [8]).mgmt.powered = true ∧ (ask 12 7 1 [8]).mbxTurn 12 = true) ∧
      1 ≤ (ask 12 7 1 [8]).mbxLen 12 ∧ 1 ≤ (ask 12 7 1 [8]).mbxQuad 12 0 % 256 ∧ (ask 12 7 1 [8]).mbxQuad 12 0 % 256 ≤ 8)
    ∧ ((12 < 13 ∧
        (ask 12 7 1 [9]).mbxBusy 12 = true ∧
          (ask 12 7 1 [9]).mbxOpcode 12 = 7 ∧
        (ask 12 7 1 [9]).mgmt.boluk = true ∧ (ask 12 7 1 [9]).mgmt.powered = true ∧ (ask 12 7 1 [9]).mbxTurn 12 = true) ∧
      1 ≤ (ask 12 7 1 [9]).mbxLen 12 ∧ ((ask 12 7 1 [9]).mbxQuad 12 0 % 256 = 0 ∨ 8 < (ask 12 7 1 [9]).mbxQuad 12 0 % 256)) :=
  ⟨by decide +kernel, by decide +kernel, by decide +kernel, by decide +kernel, by decide +kernel, by decide +kernel⟩

theorem wit_MailboxRequestsAreAnswered_b :
    ((12 < 13 ∧
        (ask 12 8 8 [1, 1000]).mbxBusy 12 = true ∧
          (ask 12 8 8 [1, 1000]).mbxOpcode 12 = 8 ∧
        (ask 12 8 8 [1, 1000]).mgmt.boluk = true ∧
        (ask 12 8 8 [1, 1000]).mgmt.powered = true ∧ (ask 12 8 8 [1, 1000]).mbxTurn 12 = true) ∧
      12 = 12 ∧
        8 ≤ (ask 12 8 8 [1, 1000]).mbxLen 12 ∧
          policyOk ((ask 12 8 8 [1, 1000]).mbxQuad 12 0 % 256) ((ask 12 8 8 [1, 1000]).mbxQuad 12 0 / 2 ^ 32) = true)
    ∧ ((12 < 13 ∧
        (ask 12 8 8 [8, 4294967295]).mbxBusy 12 = true ∧
          (ask 12 8 8 [8, 4294967295]).mbxOpcode 12 = 8 ∧
        (ask 12 8 8 [8, 4294967295]).mgmt.boluk = true ∧
        (ask 12 8 8 [8, 4294967295]).mgmt.powered = true ∧ (ask 12 8 8 [8, 4294967295]).mbxTurn 12 = true) ∧
      12 = 12 ∧
        8 ≤ (ask 12 8 8 [8, 4294967295]).mbxLen 12 ∧
          policyOk ((ask 12 8 8 [8, 4294967295]).mbxQuad 12 0 % 256) ((ask 12 8 8 [8, 4294967295]).mbxQuad 12 0 / 2 ^ 32) = true)
    ∧ ((11 < 13 ∧
        (ask 11 8 8 [1, 1000]).mbxBusy 11 = true ∧
          (ask 11 8 8 [1, 1000]).mbxOpcode 11 = 8 ∧
        (ask 11 8 8 [1, 1000]).mgmt.boluk = true ∧
        (ask 11 8 8 [1, 1000]).mgmt.powered = true ∧ (ask 11 8 8 [1, 1000]).mbxTurn 11 = true) ∧
      11 ≠ 12)
    ∧ ((12 < 13 ∧
        (ask 12 9 272 [4095]).mbxBusy 12 = true ∧
          (ask 12 9 272 [4095]).mbxOpcode 12 = 9 ∧
        (ask 12 9 272 [4095]).mgmt.boluk = true ∧
        (ask 12 9 272 [4095]).mgmt.powered = true ∧ (ask 12 9 272 [4095]).mbxTurn 12 = true) ∧
      12 = 12 ∧
        (ask 12 9 272 [4095]).mbxLen 12 = 272 ∧
          bitOf ((wordsOf ((ask 12 9 272 [4095]).mbxData 12))[2]?.getD 0) 0 = false ∧ (ask 12 9 272 [4095]).anyArmed = false)
    ∧ ((12 < 13 ∧
        (askArmed 12 9 272 [4095]).mbxBusy 12 = true ∧
          (askArmed 12 9 272 [4095]).mbxOpcode 12 = 9 ∧
        (askArmed 12 9 272 [4095]).mgmt.boluk = true ∧
        (askArmed 12 9 272 [4095]).mgmt.powered = true ∧ (askArmed 12 9 272 [4095]).mbxTurn 12 = true) ∧
      12 = 12 ∧
        (askArmed 12 9 272 [4095]).mbxLen 12 = 272 ∧
          bitOf ((wordsOf ((askArmed 12 9 272 [4095]).mbxData 12))[2]?.getD 0) 0 = false ∧
        (askArmed 12 9 272 [4095]).anyArmed = true)
    ∧ ((10 = 0 ∨ 9 < 10) ∧
      12 < 13 ∧
        (ask 12 10 0 []).mbxBusy 12 = true ∧
          (ask 12 10 0 []).mbxOpcode 12 = 10 ∧
        (ask 12 10 0 []).mgmt.boluk = true ∧ (ask 12 10 0 []).mgmt.powered = true ∧ (ask 12 10 0 []).mbxTurn 12 = true) :=
  ⟨by decide +kernel, by decide +kernel, by decide +kernel, by decide +kernel, by decide +kernel, by decide +kernel⟩

theorem wit_MailboxRequestsAreAnswered_c :
    (askBehind.mbxTurn 12 = false ∧
      Instr.getInfo 12 ∈
        [Instr.getInfo 12, Instr.imageWrite 12, Instr.imageCommit 12, Instr.mbxReset 12, Instr.faultRead 12, Instr.policyGet 12,
          Instr.policySet 12, Instr.planSet 12, Instr.mailboxBadOpcode 12]) :=
  by decide +kernel

theorem wit_MailboxServesImagesAndResets_a :
    (12 = 12 ∧
      8 ≤ (ask 12 2 16 [2, 8, 5, 6]).mbxLen 12 ∧
        (12 < 13 ∧
        (ask 12 2 16 [2, 8, 5, 6]).mbxBusy 12 = true ∧
        (ask 12 2 16 [2, 8, 5, 6]).mbxOpcode 12 = 2 ∧
        (ask 12 2 16 [2, 8, 5, 6]).mgmt.boluk = true ∧
        (ask 12 2 16 [2, 8, 5, 6]).mgmt.powered = true ∧ (ask 12 2 16 [2, 8, 5, 6]).mbxTurn 12 = true) ∧
          imageWriteOk ((ask 12 2 16 [2, 8, 5, 6]).mbxQuad 12 0 % 256) ((ask 12 2 16 [2, 8, 5, 6]).mbxQuad 12 0 >>> 32)
        (List.drop 8 ((ask 12 2 16 [2, 8, 5, 6]).mbxData 12)).length =
        true ∧
        (ask 12 2 16 [2, 8, 5, 6]).mgmt.updKind ≠ some ((ask 12 2 16 [2, 8, 5, 6]).mbxQuad 12 0 % 256) ∧
        (ask 12 2 16 [2, 8, 5, 6]).mgmt.flash.selected ((ask 12 2 16 [2, 8, 5, 6]).mbxQuad 12 0 % 256) < 2)
    ∧ (12 = 12 ∧
      8 ≤ (ask 12 3 8 [2]).mbxLen 12 ∧
        (12 < 13 ∧
        (ask 12 3 8 [2]).mbxBusy 12 = true ∧
        (ask 12 3 8 [2]).mbxOpcode 12 = 3 ∧
        (ask 12 3 8 [2]).mgmt.boluk = true ∧
        (ask 12 3 8 [2]).mgmt.powered = true ∧ (ask 12 3 8 [2]).mbxTurn 12 = true) ∧
          ((ask 12 3 8 [2]).mbxQuad 12 0 % 256 = 1 ∨ (ask 12 3 8 [2]).mbxQuad 12 0 % 256 = 2) ∧
        (ask 12 3 8 [2]).mgmt.updKind ≠ some ((ask 12 3 8 [2]).mbxQuad 12 0 % 256))
    ∧ (12 = 12 ∧
      8 ≤ (ask 12 4 8 [0]).mbxLen 12 ∧
        (12 < 13 ∧
        (ask 12 4 8 [0]).mbxBusy 12 = true ∧
        (ask 12 4 8 [0]).mbxOpcode 12 = 4 ∧
        (ask 12 4 8 [0]).mgmt.boluk = true ∧
        (ask 12 4 8 [0]).mgmt.powered = true ∧ (ask 12 4 8 [0]).mbxTurn 12 = true) ∧
          (ask 12 4 8 [0]).mbxQuad 12 0 % 4 = 0)
    ∧ (12 = 12 ∧
      8 ≤ (ask 12 4 8 [1]).mbxLen 12 ∧
        (12 < 13 ∧
        (ask 12 4 8 [1]).mbxBusy 12 = true ∧
        (ask 12 4 8 [1]).mbxOpcode 12 = 4 ∧
        (ask 12 4 8 [1]).mgmt.boluk = true ∧
        (ask 12 4 8 [1]).mgmt.powered = true ∧ (ask 12 4 8 [1]).mbxTurn 12 = true) ∧
          (ask 12 4 8 [1]).mbxQuad 12 0 % 4 = 1)
    ∧ (12 = 12 ∧
      8 ≤ (ask 12 4 8 [2]).mbxLen 12 ∧
        (12 < 13 ∧
        (ask 12 4 8 [2]).mbxBusy 12 = true ∧
        (ask 12 4 8 [2]).mbxOpcode 12 = 4 ∧
        (ask 12 4 8 [2]).mgmt.boluk = true ∧
        (ask 12 4 8 [2]).mgmt.powered = true ∧ (ask 12 4 8 [2]).mbxTurn 12 = true) ∧
          (ask 12 4 8 [2]).mbxQuad 12 0 % 4 = 2)
    ∧ (12 = 12 ∧
      8 ≤ (ask 12 4 8 [3]).mbxLen 12 ∧
        (12 < 13 ∧
        (ask 12 4 8 [3]).mbxBusy 12 = true ∧
        (ask 12 4 8 [3]).mbxOpcode 12 = 4 ∧
        (ask 12 4 8 [3]).mgmt.boluk = true ∧
        (ask 12 4 8 [3]).mgmt.powered = true ∧ (ask 12 4 8 [3]).mbxTurn 12 = true) ∧
          (ask 12 4 8 [3]).mbxQuad 12 0 % 4 = 3) :=
  ⟨by decide +kernel, by decide +kernel, by decide +kernel, by decide +kernel, by decide +kernel, by decide +kernel⟩

theorem wit_MailboxServesImagesAndResets_b :
    ((12 < 13 ∧
        (ask 12 5 8 [0]).mbxBusy 12 = true ∧
          (ask 12 5 8 [0]).mbxOpcode 12 = 5 ∧
        (ask 12 5 8 [0]).mgmt.boluk = true ∧ (ask 12 5 8 [0]).mgmt.powered = true ∧ (ask 12 5 8 [0]).mbxTurn 12 = true) ∧
      8 ≤ (ask 12 5 8 [0]).mbxLen 12 ∧
        12 = 12 ∧
          (ask 12 5 8 [0]).mgmt.loading = none ∧
        ((ask 12 5 8 [0]).wholeDomains ((ask 12 5 8 [0]).mbxQuad 12 0 % 4096) = false ∨
        ∃ p,
        p < 12 ∧
        inMask ((ask 12 5 8 [0]).mbxQuad 12 0 % 4096) p = true ∧
        (ask 12 5 8 [0]).armed ((ask 12 5 8 [0]).leadOf p) = true))
    ∧ ((12 < 13 ∧
        (askArmed 12 5 8 [8]).mbxBusy 12 = true ∧
          (askArmed 12 5 8 [8]).mbxOpcode 12 = 5 ∧
        (askArmed 12 5 8 [8]).mgmt.boluk = true ∧
        (askArmed 12 5 8 [8]).mgmt.powered = true ∧ (askArmed 12 5 8 [8]).mbxTurn 12 = true) ∧
      8 ≤ (askArmed 12 5 8 [8]).mbxLen 12 ∧
        12 = 12 ∧
          (askArmed 12 5 8 [8]).mgmt.loading = none ∧
        ((askArmed 12 5 8 [8]).wholeDomains ((askArmed 12 5 8 [8]).mbxQuad 12 0 % 4096) = false ∨
        ∃ p,
        p < 12 ∧
        inMask ((askArmed 12 5 8 [8]).mbxQuad 12 0 % 4096) p = true ∧
        (askArmed 12 5 8 [8]).armed ((askArmed 12 5 8 [8]).leadOf p) = true))
    ∧ ((3 < 13 ∧
        (ask 3 5 8 [9]).mbxBusy 3 = true ∧
          (ask 3 5 8 [9]).mbxOpcode 3 = 5 ∧
        (ask 3 5 8 [9]).mgmt.boluk = true ∧ (ask 3 5 8 [9]).mgmt.powered = true ∧ (ask 3 5 8 [9]).mbxTurn 3 = true) ∧
      8 ≤ (ask 3 5 8 [9]).mbxLen 3 ∧ 3 ≠ 12 ∧ (ask 3 5 8 [9]).mgmt.loading = none ∧ (ask 3 5 8 [9]).mbxQuad 3 0 % 4096 ≠ 2 ^ 3)
    ∧ ((12 < 13 ∧
        (signed (ask 12 5 8 [8])).mbxBusy 12 = true ∧
          (signed (ask 12 5 8 [8])).mbxOpcode 12 = 5 ∧
        (signed (ask 12 5 8 [8])).mgmt.boluk = true ∧
        (signed (ask 12 5 8 [8])).mgmt.powered = true ∧ (signed (ask 12 5 8 [8])).mbxTurn 12 = true) ∧
      8 ≤ (signed (ask 12 5 8 [8])).mbxLen 12 ∧
        12 = 12 ∧
          (signed (ask 12 5 8 [8])).mgmt.loading = none ∧
        (signed (ask 12 5 8 [8])).wholeDomains ((signed (ask 12 5 8 [8])).mbxQuad 12 0 % 4096) = true ∧
        (∀ (p : Nat),
        p < 12 →
        inMask ((signed (ask 12 5 8 [8])).mbxQuad 12 0 % 4096) p = true →
        (signed (ask 12 5 8 [8])).armed ((signed (ask 12 5 8 [8])).leadOf p) = false) ∧
        (signed (ask 12 5 8 [8])).imageReason 2
        ((signed (ask 12 5 8 [8])).image 2 (signed (ask 12 5 8 [8])).mgmt.flash.selImage) true =
        0)
    ∧ ((12 < 13 ∧
        askLoading.mbxBusy 12 = true ∧
          askLoading.mbxOpcode 12 = 5 ∧
        askLoading.mgmt.boluk = true ∧ askLoading.mgmt.powered = true ∧ askLoading.mbxTurn 12 = true) ∧
      8 ≤ askLoading.mbxLen 12 ∧ askLoading.mgmt.loading = some (askLoading.mbxQuad 12 0 % 4096, 12, 1))
    ∧ ((firmware hosted).hears (Via.smbus 96) = true ∧
      Via.smbus 96 ≠ Via.smbus (80 + (firmware hosted).fuses.strap) ∧ (firmware hosted).mbxBusy 12 = false) :=
  ⟨by decide +kernel, by decide +kernel, by decide +kernel, by decide +kernel, by decide +kernel, by decide +kernel⟩

theorem wit_MailboxServesImagesAndResets_c :
    ((ask 12 1 0 []).hears (Via.smbus 96) = true ∧
      Via.smbus 96 ≠ Via.smbus (80 + (ask 12 1 0 []).fuses.strap) ∧ (ask 12 1 0 []).mbxBusy 12 = true)
    ∧ (hosted.mgmt.input = true)
    ∧ (dark.mgmt.input = false)
    ∧ (hosted.hears Via.vdm = false ∧ Via.vdm ≠ Via.smbus (80 + hosted.fuses.strap))
    ∧ ((firmware hosted).hears (Via.smbus 95) = false ∧ Via.smbus 95 ≠ Via.smbus (80 + (firmware hosted).fuses.strap))
    ∧ ((firmware hosted).hears (Via.smbus 96) = true ∧
      imageWriteOk 2 8 (bytes 8).length = true ∧
        (firmware hosted).mbxImage 2 = false ∧
          (firmware hosted).mgmt.updKind = none ∧ (firmware hosted).mgmt.flash.selected 2 < 2) :=
  ⟨by decide +kernel, by decide +kernel, by decide +kernel, by decide +kernel, by decide +kernel, by decide +kernel⟩

theorem wit_ResetsKeepWhatTheyMust_a :
    (unpowered.mgmt.powered = false ∧ 44000 ≤ 44000)
    ∧ (unpowered.mgmt.powered = false ∧ 43999 < 44000)
    ∧ (unpowered.mgmt.powered = false)
    ∧ (running3.mgmt.powered = true)
    ∧ (running3.mgmt.powered = true ∧ 15 < 16)
    ∧ ((firmware running3).mgmt.powered = true ∧ 15 < 16) :=
  ⟨by decide +kernel, by decide +kernel, by decide +kernel, by decide +kernel, by decide +kernel, by decide +kernel⟩

theorem wit_ResetsKeepWhatTheyMust_b :
    ((firmware running3).mgmt.boluk = true)
    ∧ ((firmware running3).mgmt.boluk = true)
    ∧ ((perst 0).mgmt.powered = true ∧
      (perst 0).get Reg.MGT_RESET_CFG.PERST_ACTION = 0 ∧ (perst 0).get Reg.MGT_PCI_PERST_COUNT.COUNT + 1 < 2 ^ 32)
    ∧ ((perst 1).mgmt.powered = true ∧ (perst 1).get Reg.MGT_RESET_CFG.PERST_ACTION = 1)
    ∧ ((perst 2).mgmt.powered = true ∧ (perst 2).get Reg.MGT_RESET_CFG.PERST_ACTION = 2) :=
  ⟨by decide +kernel, by decide +kernel, by decide +kernel, by decide +kernel, by decide +kernel⟩

theorem wit_BootGoesByStages_a :
    (State.reset.mgmt.powered = true ∧
      State.reset.mgmt.boluk = false ∧ State.reset.get Reg.MGT_BOOT_STATUS.STAGE = 0 ∧ State.reset.mgmt.dieDone = false)
    ∧ ((booting 2).mgmt.boluk = true ∧ (booting 2).mgmt.dieDone = false)
    ∧ ((booting 5).mgmt.boluk = true ∧
      2 ≤ (booting 5).get Reg.MGT_BOOT_STATUS.STAGE ∧
        (booting 5).get Reg.MGT_BOOT_STATUS.STAGE ≤ 5 ∧ (booting 5).mgmt.verDone = none)
    ∧ (verified.mgmt.boluk = true ∧ verified.get Reg.MGT_BOOT_STATUS.STAGE = 5 ∧ verified.mgmt.verDone = some 1)
    ∧ (hosted.mgmt.powered = true ∧ wfPci 6 16 = true)
    ∧ (hosted.mgmt.powered = true ∧ wfPci 1 1 = true) :=
  ⟨by decide +kernel, by decide +kernel, by decide +kernel, by decide +kernel, by decide +kernel, by decide +kernel⟩

theorem wit_BootGoesByStages_b :
    (hosted.mgmt.powered = true ∧ wfPci 5 8 = true)
    ∧ (hosted.mgmt.powered = true ∧ wfPci 5 8 = true)
    ∧ (maskedPci.mgmt.powered = true ∧ wfPci 5 8 = true)
    ∧ (hosted.mgmt.powered = true ∧ wfPci 7 16 = false)
    ∧ (hosted.mgmt.powered = true ∧ wfPci 6 17 = false) :=
  ⟨by decide +kernel, by decide +kernel, by decide +kernel, by decide +kernel, by decide +kernel⟩

theorem wit_GovernorFollowsTheForecast :
    ((buffered (14 * joule + 1)).mgmt.powered = true)
    ∧ ((buffered (2 * joule)).mgmt.powered = true)
    ∧ (throttled.gov.throttle = some (880, 100) ∧ (throttled.clk.load = none ∨ throttled.tickEn = true)) :=
  ⟨by decide +kernel, by decide +kernel, by decide +kernel⟩

theorem wit_MeasurementsAndPersistentLog :
    ((sampled 8).mgmt.powered = true ∧ 48000 < 2 ^ 16 ∧ 20000 / 10 < 2 ^ 16 ∧ (sampled 8).gov.samples.length < 9)
    ∧ ((sampled 9).mgmt.powered = true ∧ 65535 < 2 ^ 16 ∧ 655350 / 10 < 2 ^ 16 ∧ (sampled 9).gov.samples.length = 9)
    ∧ (hosted.mgmt.powered = true ∧ ∀ (v : Nat), v ∈ [1840, 5] → v < 2 ^ 12)
    ∧ (hosted.mgmt.powered = true ∧ ∀ (v : Nat), v ∈ [1600, 5] → v < 2 ^ 12)
    ∧ (running3.mgmt.powered = true ∧ ∀ (v : Nat), v ∈ [] → v < 2 ^ 12)
    ∧ (logged.mgmt.boluk = true) :=
  ⟨by decide +kernel, by decide +kernel, by decide +kernel, by decide +kernel, by decide +kernel, by decide +kernel⟩

theorem wit_RecordAndReplay :
    (hosted.postFree Who.fw = true ∧
      hosted.hostOpen Who.fw Reg.REC_CTRL.addr = true ∧ hosted.mayField Who.fw Reg.REC_CTRL.addr Access.rw = true)
    ∧ (∀ (e : REnt), e ∈ hosted.recd.todo → hosted.replayDue e = false ∧ hosted.replayAhead e = false)
    ∧ ((replay 8 2).recd.todo = [rent 8] ∧ (replay 8 2).replayAhead (rent 8) = true)
    ∧ ((replay 6 2).recd.todo = [rent 6] ∧
      (replay 6 2).replayDue (rent 6) = true ∧
        (replay 6 2).replayAhead (rent 6) = false ∧
          (rent 6).pre = false ∧
        (rent 6).boundary = false ∧
        (replay 6 2).leadOf (rent 6).part < 12 ∧
        (replay 6 2).halted ((replay 6 2).leadOf (rent 6).part) = false ∧
        (replay 6 2).stagedLate ((replay 6 2).leadOf (rent 6).part) = false ∧ 0 < 5)
    ∧ ((replay 6 2).recd.todo = [rent 6] ∧
      (replay 6 2).replayDue (rent 6) = true ∧
        (rent 6).part < 12 ∧
          (rent 6).ctx < 256 ∧
        ((rent 6).pre = true ∨
        (rent 6).boundary = true ∨ 0 = 0 ∧ (replay 6 2).stagedLate ((replay 6 2).leadOf (rent 6).part) = false) ∧
        (rent 6).kind = 6)
    ∧ ((replay 2 2).recd.todo = [rent 2] ∧
      (replay 2 2).replayDue (rent 2) = true ∧
        (rent 2).part < 12 ∧
          (rent 2).ctx < 256 ∧
        ((rent 2).pre = true ∨
        (rent 2).boundary = true ∨ 0 = 0 ∧ (replay 2 2).stagedLate ((replay 2 2).leadOf (rent 2).part) = false) ∧
        (rent 2).kind = 2 ∧
        (if (rent 2).boundary = true then (replay 2 2).openBoundary (rent 2).part else replay 2 2).ctxState
        (rent 2).part (rent 2).ctx =
        2 ∧
        ((if (rent 2).boundary = true then (replay 2 2).openBoundary (rent 2).part else replay 2 2).ctx (rent 2).part
        (rent 2).ctx).undo =
        []) :=
  ⟨by decide +kernel, by decide +kernel, by decide +kernel, by decide +kernel, by decide +kernel, by decide +kernel⟩

theorem wit_EthernetPorts_a :
    (1 < 2 ∧
      (eth hosted).ethUp 1 = true ∧
        Option.map (fun m => (eth hosted).rdmaFits m 1 1 14 (bytes 64).length) ((eth hosted).regionOf 43981) ≠ some true ∧
          (eth hosted).get (Reg.ETH_RDMA_NAK.COUNT 1) + 1 < 2 ^ 32)
    ∧ (1 < 2 ∧
      (eth hosted).ethUp 1 = true ∧
        ¬Option.map (fun m => (eth hosted).rdmaFits m 0 1 14 (bytes 64).length) ((eth hosted).regionOf 43981) ≠ some true ∧
          (bytes 64).length = 64 ∧ (eth hosted).regionOf 43981 = some 0)
    ∧ (1 < 2 ∧ (eth hosted).ethHears 1 = true ∧ (eth hosted).get (Reg.ETH_FCS_ERR.COUNT 1) + 1 < 2 ^ 32)
    ∧ (1 < 2 ∧
      (eth hosted).ethHears 1 = true ∧
        (9216 ≤ (eth hosted).get (Reg.ETH_CTRL.MTU 1) ∧ 9216 ≤ 9216) ∧
          (eth hosted).get (Reg.ETH_CTRL.MACSEC_EN 1) = 1 ∧
        EthFrame.other ≠ EthFrame.bad ∧
        (∀ (prio n : Nat), EthFrame.other ≠ EthFrame.pause prio n) ∧
        (EthFrame.other = EthFrame.unprotected ∨
        EthFrame.other = EthFrame.invalid ∨ ∀ (a : MacSa), a ∈ ((eth hosted).ethAt 1).rxSa → a.an ≠ 2) ∧
        (eth hosted).get (Reg.ETH_MACSEC_DROP.COUNT 1) + 1 < 2 ^ 32)
    ∧ (1 < 2 ∧
      (eth hosted).ethHears 1 = true ∧
        (9216 ≤ (eth hosted).get (Reg.ETH_CTRL.MTU 1) ∧ 9216 ≤ 9216) ∧
          (eth hosted).get (Reg.ETH_CTRL.MACSEC_EN 1) = 1 ∧
        EthFrame.invalid ≠ EthFrame.bad ∧
        (∀ (prio n : Nat), EthFrame.invalid ≠ EthFrame.pause prio n) ∧
        (EthFrame.invalid = EthFrame.unprotected ∨
        EthFrame.invalid = EthFrame.invalid ∨ ∀ (a : MacSa), a ∈ ((eth hosted).ethAt 1).rxSa → a.an ≠ 3) ∧
        (eth hosted).get (Reg.ETH_MACSEC_DROP.COUNT 1) + 1 < 2 ^ 32)
    ∧ (1 < 2 ∧
      (eth hosted).ethHears 1 = true ∧
        (9216 ≤ (eth hosted).get (Reg.ETH_CTRL.MTU 1) ∧ 9216 ≤ 9216) ∧
          ((eth hosted).get (Reg.ETH_CTRL.MACSEC_EN 1) = 0 ∨ ∃ a, a ∈ ((eth hosted).ethAt 1).rxSa ∧ a.an = 3)) :=
  ⟨by decide +kernel, by decide +kernel, by decide +kernel, ⟨by decide +kernel, by decide +kernel, by decide +kernel, by decide +kernel, by decide +kernel, nofun, by decide +kernel⟩, ⟨by decide +kernel, by decide +kernel, by decide +kernel, by decide +kernel, by decide +kernel, nofun, by decide +kernel⟩, by decide +kernel⟩

theorem wit_EthernetPorts_b :
    (1 < 2 ∧
      (plain hosted).ethHears 1 = true ∧
        (9216 ≤ (plain hosted).get (Reg.ETH_CTRL.MTU 1) ∧ 9216 ≤ 9216) ∧
          (plain hosted).get (Reg.ETH_CTRL.MACSEC_EN 1) = 0 ∧ (plain hosted).ethUp 1 = true)
    ∧ (1 < 2 ∧
      (plain hosted).ethHears 1 = true ∧
        (64 ≤ (plain hosted).get (Reg.ETH_CTRL.MTU 1) ∧ 64 ≤ 9216) ∧
          (plain hosted).get (Reg.ETH_CTRL.MACSEC_EN 1) = 0 ∧
        (plain hosted).ethUp 1 = true ∧ 127 < 128 ∧ 1 < mapGet 65536 ((plain hosted).ethAt 1).rate 127)
    ∧ (1 < 2 ∧ (eth hosted).ethHears 1 = true ∧ (64 ≤ (eth hosted).get (Reg.ETH_CTRL.MTU 1) ∧ 64 ≤ 9216) ∧ 0 < 65535)
    ∧ (1 < 2 ∧ (eth hosted).ethHears 1 = true ∧ 1 ≠ (eth hosted).get (Reg.ETH_CTRL.PFC_PRIO 1))
    ∧ (1 < 2 ∧ (eth hosted).ethHears 1 = true ∧ EthFrame.other ≠ EthFrame.bad ∧ (eth hosted).get (Reg.ETH_CTRL.MTU 1) < 9217)
    ∧ (1 < 2 ∧
      ((streams (eth hosted)).ethAt 1).queue = [(4095, [1, 2], stream.snd.snd)] ∧
        (streams (eth hosted)).ethUp 1 = true ∧
          (streams (eth hosted)).ethPaused 1 = false ∧ ((streams (eth hosted)).ethAt 1).held = []) :=
  ⟨by decide +kernel, by decide +kernel, by decide +kernel, by decide +kernel, by decide +kernel, by decide +kernel⟩

theorem wit_EthernetPorts_c :
    (1 < 2 ∧
      ((ethHolds (streams (eth hosted))).ethAt 1).queue = [(4095, [1, 2], stream.snd.snd)] ∧
        (ethHolds (streams (eth hosted))).ethUp 1 = true ∧ (ethHolds (streams (eth hosted))).ethPaused 1 = false)
    ∧ (1 < 2 ∧
      ((streams hosted).ethAt 1).queue = [(4095, [1, 2], stream.snd.snd)] ∧
        ((streams hosted).ethUp 1 = false ∨ (streams hosted).ethPaused 1 = true))
    ∧ (1 < 2 ∧
      ((paused (streams (eth hosted))).ethAt 1).queue = [(4095, [1, 2], stream.snd.snd)] ∧
        ((paused (streams (eth hosted))).ethUp 1 = false ∨ (paused (streams (eth hosted))).ethPaused 1 = true))
    ∧ (1 < 2 ∧
      (paused (eth hosted)).ethUp 1 = true ∧
        ¬Option.map (fun m => (paused (eth hosted)).rdmaFits m 0 1 14 (bytes 64).length)
        ((paused (eth hosted)).regionOf 43981) ≠
        some true ∧
          (bytes 64).length = 64 ∧ (paused (eth hosted)).regionOf 43981 = some 0)
    ∧ (4095 < 4096 ∧
      (streams hosted).postFree Who.pf = true ∧
        (streams hosted).hostOpen Who.pf (if false = true then Reg.ETH_FLOW_HI.addr 4095 else Reg.ETH_FLOW_LO.addr 4095) =
        true ∧
          (streams hosted).mayField Who.pf (if false = true then Reg.ETH_FLOW_HI.addr 4095 else Reg.ETH_FLOW_LO.addr 4095)
        Access.rw =
        true)
    ∧ (4095 < 4096 ∧
      (streams hosted).postFree Who.pf = true ∧
        (streams hosted).hostOpen Who.pf (if true = true then Reg.ETH_FLOW_HI.addr 4095 else Reg.ETH_FLOW_LO.addr 4095) = true ∧
          (streams hosted).mayField Who.pf (if true = true then Reg.ETH_FLOW_HI.addr 4095 else Reg.ETH_FLOW_LO.addr 4095)
        Access.rw =
        true) :=
  ⟨by decide +kernel, by decide +kernel, by decide +kernel, by decide +kernel, by decide +kernel, by decide +kernel⟩

theorem wit_EthernetPorts_d :
    (1 < 2 ∧ true = true ∧ (eth hosted).get (Reg.ETH_CTRL.EN 1) = 1 ∧ (eth hosted).mgmt.powered = true ∧ 0 < 3)
    ∧ (1 < 2 ∧ true = true ∧ (eth hosted).get (Reg.ETH_CTRL.EN 1) = 1 ∧ (eth hosted).mgmt.powered = true ∧ 2 < 3)
    ∧ (1 < 2 ∧ (true = false ∨ hosted.get (Reg.ETH_CTRL.EN 1) = 0 ∨ 3 ≤ 2))
    ∧ (1 < 2 ∧ (true = false ∨ (eth hosted).get (Reg.ETH_CTRL.EN 1) = 0 ∨ 3 ≤ 3))
    ∧ (1 < 2 ∧ (firmware hosted).mgmt.boluk = true)
    ∧ (1 < 2 ∧ (stamps 15).ethUp 1 = true ∧ ((stamps 15).ethAt 1).stamps.length < 16) :=
  ⟨by decide +kernel, by decide +kernel, by decide +kernel, by decide +kernel, by decide +kernel, by decide +kernel⟩

theorem wit_EthernetPorts_e :
    (1 < 2 ∧ (stamps 16).ethUp 1 = true ∧ 16 ≤ ((stamps 16).ethAt 1).stamps.length)
    ∧ (1 < 2 ∧
      (stamps 1).hostOpen Who.pf (Reg.ETH_PTP_TS_HI.addr 1) = true ∧
        whoReaches Who.pf (Reg.ETH_PTP_TS_HI.addr 1) = true ∧ ((stamps 1).ethAt 1).stamps = [(2 ^ 63, 5, true)]) :=
  ⟨by decide +kernel, by decide +kernel⟩

theorem wit_DeniedWritesOnlyCount :
    (writeTarget (Instr.arm Who.pf 3 false) = some (Who.pf, Reg.SEQ_COURSE_CTRL.addr 3, Access.wo) ∧
      unpowered.postFree Who.pf = true ∧ unpowered.hostOpen Who.pf (Reg.SEQ_COURSE_CTRL.addr 3) = false)
    ∧ (writeTarget (Instr.arm (Who.vf 2) 3 false) = some (Who.vf 2, Reg.SEQ_COURSE_CTRL.addr 3, Access.wo) ∧
      hosted.postFree (Who.vf 2) = true ∧
        hosted.hostOpen (Who.vf 2) (Reg.SEQ_COURSE_CTRL.addr 3) = true ∧
          Who.vf 2 ≠ Who.fw ∧ hosted.mayField (Who.vf 2) (Reg.SEQ_COURSE_CTRL.addr 3) Access.wo = false)
    ∧ (writeTarget (Instr.ethFlowWrite (Who.vf 2) 4095 true 0) = some (Who.vf 2, Reg.ETH_FLOW_HI.addr 4095, Access.rw) ∧
      hosted.postFree (Who.vf 2) = true ∧
        hosted.hostOpen (Who.vf 2) (Reg.ETH_FLOW_HI.addr 4095) = true ∧
          Who.vf 2 ≠ Who.fw ∧ hosted.mayField (Who.vf 2) (Reg.ETH_FLOW_HI.addr 4095) Access.rw = false)
    ∧ (writeTarget (Instr.planCommit Who.pf 1) = some (Who.pf, Reg.UBN_DISC_CTRL.addr, Access.rw) ∧
      hosted.postFree Who.pf = true ∧
        hosted.hostOpen Who.pf Reg.UBN_DISC_CTRL.addr = true ∧
          Who.pf ≠ Who.fw ∧ hosted.mayField Who.pf Reg.UBN_DISC_CTRL.addr Access.rw = false) :=
  ⟨by decide +kernel, by decide +kernel, by decide +kernel, by decide +kernel⟩

theorem wit_StepKeepsCanonicalStores :
    (oneWaits.inv = true ∧ step oneWaits = Host.Outcome.next State.reset) :=
  ⟨by decide +kernel, rfl⟩

/-! ## Ill-formed commands are refused

One term for each check of `Instr.wf`. -/

theorem test_wf_refuses_partitions_and_functions :
    (Instr.servingBoundary 12).wf = false ∧ (Instr.tickEnable (.vf 12) 1).wf = false ∧ (Instr.mma 12).wf = false
      ∧ (Instr.arm (.vf 12) 0 false).wf = false ∧ (Instr.arm .pf 12 false).wf = false
      ∧ (Instr.corniceDataHiWrite .pf 12 0).wf = false ∧ (Instr.hostPartitionWrite .pf (.commit 12 0 0)).wf = false
      ∧ (Instr.arm (.vf 11) 11 false).wf = true := by decide +kernel

theorem test_wf_refuses_ashlars_and_slices :
    (Instr.granuleLand 576 0 0 0 0).wf = false ∧ (Instr.granuleLand 575 8 0 0 0).wf = false
      ∧ (Instr.granuleLand 575 7 0 3 0).wf = false ∧ (Instr.granuleLand 575 7 0 2 0).wf = true
      ∧ (Instr.slicePowerCtrl .pf 576 0).wf = false ∧ (Instr.sliceReady 0 8).wf = false
      ∧ (Instr.groutRowApply .fw 0 256 0).wf = false ∧ (Instr.groutBankWrite .fw 0 8 0).wf = false
      ∧ (Instr.scrubRow 0 0 8192 []).wf = false ∧ (Instr.scrubRow 0 0 8191 [(64, false)]).wf = false
      ∧ (Instr.scrubRow 0 0 8191 [(63, true)]).wf = true ∧ (Instr.ingressRelease 576 0).wf = false
      ∧ (Instr.droopStretch 576 0 true).wf = false
      ∧ (Instr.hostPartitionWrite .pf (.scratch 0 33554432 [0])).wf = false := by decide +kernel

theorem test_wf_refuses_addresses :
    (Instr.registerWrite .pf 2 0).wf = false ∧ (Instr.readToClear .pf 1).wf = false
      ∧ (Instr.srvCtxWrite .pf 0 0 3 0).wf = false ∧ (Instr.srvCtxWrite .pf 0 256 0 0).wf = false
      ∧ (Instr.hostPartitionWrite .pf (.reg 2 0)).wf = false ∧ (Instr.hostPartitionWrite .pf (.commit 0 6144 0)).wf = false
      ∧ (Instr.registerWrite .pf 4 0).wf = true := by decide +kernel

theorem test_wf_refuses_ports_and_units :
    (Instr.linkDown 32).wf = false ∧ (Instr.retrain .pf 32 0).wf = false ∧ (Instr.refreshShadow 32).wf = false
      ∧ (Instr.moraineStackFailed 32).wf = false ∧ (Instr.moraineReadRetry 7 0 0 2).wf = false ∧ (Instr.moraineReadRetry 6 0 0 3).wf = false
      ∧ (Instr.morainePatrolScrub 4000000000 0).wf = false ∧ (Instr.morainePatrolScrub 0 3).wf = false
      ∧ (Instr.rdmaLoadTimeout 2).wf = false ∧ (Instr.ptpTsRead .pf 2).wf = false ∧ (Instr.ethFlowWrite .pf 4096 false 0).wf = false
      ∧ (Instr.getInfo 13).wf = false ∧ (Instr.temperatureSample [20] 0 []).wf = false
      ∧ (Instr.stepChangeApply [(576, 1)]).wf = false ∧ (Instr.arrayOpStart 0 [⟨0, 4, 0, .shadowRow, 1⟩]).wf = false ∧ (Instr.resumeCommit 0 256).wf = false
      ∧ (Instr.parkCommit 65536).wf = false ∧ (Instr.linkDown 31).wf = true ∧ (Instr.getInfo 12).wf = true := by decide +kernel

/-- The table gives no row any bits. -/
theorem test_no_word_spells_a_command : decodeTableWord 32 0 = none ∧ decodeTableWord 0 0xFFFFFFFF = none := by decide +kernel

/-! ## Reset and an idle step -/

theorem test_reset_inv : State.reset.inv = true := by decide +kernel

/-- A step of an empty queue counts one glacier count and nothing else. -/
theorem test_idle_step : step State.reset = .next (idleTick State.reset) := rfl

/-! ## Worked values of the spec -/

/-- 04, "FP32 to E4M3" (R112): encoding and SAT. -/
theorem test_convert_e4m3 :
    storeElem 8 (some fp32) false (f32 0x3FB00000) = (0x3B, {}) ∧ storeElem 8 (some fp32) false (f32 0x3F880000) = (0x39, {})
      ∧ storeElem 8 (some fp32) false (f32 0xBF880000) = (0xB9, {})
      ∧ storeElem 8 (some fp32) false (f32 0x43FA0000) = (0x7E, { sat := 1 })
      ∧ storeElem 8 (some fp32) false (f32 0x3B800000) = (0x02, {})
      ∧ storeElem 8 (some fp32) true (f32 0x3B800000) = (0x00, { flush := 1 })
      ∧ storeElem 8 (some fp32) false (f32 0x7F800000) = (0x7E, { sat := 1 }) := by decide +kernel

/-- 04, "MXP of one block into MXFP4" (R117). -/
theorem test_mxp_block :
    mxpBlock 0xC (some fp32) false [false, false, false, false] [f32 0x40B00000, f32 0x40200000, f32 0xBE800000, f32 0x3F800000]
      = (0x7F, [7, 5, 9, 2], {})
    ∧ (mxpBlock 0xC (some fp32) true [false, false, false, false] [f32 0x40B00000, f32 0x40200000, f32 0xBE800000, f32 0x3F800000]).2
      = ([7, 5, 8, 2], { flush := 1 }) := by decide +kernel

/-- 04, the accumulation example (R120, R110): 16.5 rounds to 17, and -68 in ACC96 form. -/
theorem test_product_term_and_acc96 :
    productTerm (decodeElem 8 0x3B) (decodeElem 0xC 3) false (-5) (-8) = (17, false, {})
      ∧ (productTerm (decodeElem 8 0xBB) (decodeElem 0xC 3) false (-5) (-8)).1 = -17
      ∧ acc96Bytes (-68) = 0xBC :: List.replicate 15 0xFF ∧ acc96Of (acc96Bytes (-68)) = -68 := by decide +kernel

/-- 04, the rescale example (R125). -/
theorem test_rescale :
    rescale 3 false 68 false (-8) 0x0005 = (9, {}) ∧ rescale 3 false (-68) false (-8) 0x0005 = (0xF7, {})
      ∧ rescale 1 false 68 false (-8) 0x0003 = (0x4008, {}) ∧ rescale 1 false 68 false (-8) 0x01FD = (0x3D08, {})
      ∧ rescale 3 false 68 false (-8) 0x000F = (0x7F, { sat := 1 }) := by decide +kernel

/-- 05, the elementary functions (R149, R151). -/
theorem test_elementary_functions :
    exp2Fx false (f32 0x3F000000) = (0x3FB504F3, {}) ∧ exp2Fx false (f32 0xBF800000) = (0x3F000000, {})
      ∧ exp2Fx false (f32 0x43020000) = (0x7F7FFFFF, { sat := 1 }) ∧ log2Fx false (f32 0x41000000) = (0x40400000, {})
      ∧ rsqrtFx false (f32 0x3E800000) = (0x40000000, {}) := by decide +kernel

/-- 10, the mesh latency across the seam (R292). -/
theorem test_mesh_latency : meshLat 2 22 6 27 = 45 ∧ meshLat 2 9 5 10 = 16 := by decide +kernel

/-- 07 and 08, the example encodings: what the sequencer reads from the words. -/
theorem test_example_encodings :
    (clsOf 0x0010063000000004 = 0 ∧ opOf 0x0010063000000004 = 1 ∧ fld 0x0010063000000004 47 36 = 99)
      ∧ (clsOf 0x30200C0000000010 = 3 ∧ opOf 0x30200C0000000010 = 2 ∧ fld 0x30200C0000000010 45 40 = 12 ∧ fld 0x30200C0000000010 31 0 = 16)
      ∧ (fld 0x0060070231000107 47 40 = 7 ∧ fld 0x0060070231000107 39 30 = 8 ∧ fld 0x0060070231000107 29 14 = 0xC400)
      ∧ ((passOf 0x40004F3C81234078).wf = 0xC ∧ (passOf 0x40004F3C81234078).xf = 8 ∧ (passOf 0x40004F3C81234078).t = 120
        ∧ (passOf 0x40004F3C81234078).n = 15)
      ∧ (assigned 0x70100052D86A5800 = true ∧ wordFault 0x70100052D86A5800 = none) := by decide +kernel

/-- 03, the pass of the main model: 120 steps of one cycle, the last accumulation at start + 138. -/
theorem test_pass_timing : (passOf 0x40004F3C81234078).occ = 120 ∧ (passOf 0x40004F3C81234078).last = 138 := by decide +kernel

end

end Sys2Proof.Tests
end

/-! SUPPORT and PROOF. Writes of control registers by a requester that may make them, and the tick parameters (R13, R14): the
gates a write passes, what a register with no RWS field stores, and the statement about TICK_PARAM_WRITE. -/

namespace Sys2Proof.Machine

/-! ## The gates that a write passes -/

/-- A write that finds the link free takes place at once. -/
theorem State.posting_of_free {s : State} {w : Who} (h : s.postFree w = true) (x : PostWhat) (k : State → State) :
    s.posting w x k = k s := by
  simp [State.posting, h]

/-- A write with an effect of its own acts for a requester to whom the address is open and who may write the field. -/
theorem State.gated_of_mayField {s : State} {w : Who} {a : Nat} {c : Access} (ho : s.hostOpen w a = true)
    (hm : s.mayField w a c = true) (k : State → State) : s.gated w a c k = k s := by
  simp [State.gated, ho, hm]

@[simp] theorem State.answerCtl_ww (s : State) (a : Nat) (v : Word) : s.answerCtl (s.ww a v) = .next (s.ww a v) := rfl
@[simp] theorem State.answerCtl_put (s : State) (f : Slot) (v : Nat) : s.answerCtl (s.put f v) = .next (s.put f v) :=
  s.answerCtl_ww _ _

/-! ## What a register stores -/

/-- No write of a register without RWS fields writes one (R443). -/
theorem State.writesRws_of_no_rws (s : State) {a : Nat} {r : RegRow} (v : Word) (hr : findRow a = some r)
    (hn : ∀ f ∈ r.fields, f.acc ≠ .rws) : s.writesRws a v = false := by
  have he : r.fields.filter (fun f => f.acc = .rws) = [] := by simpa using hn
  simp [State.writesRws, hr, he]

/-- A write of a register without RWS fields is neither counted as denied nor logged: it only stores the word. -/
theorem State.storeReg_of_no_rws (s : State) (w : Who) {a : Nat} {r : RegRow} (v : Word) (hr : findRow a = some r)
    (hn : ∀ f ∈ r.fields, f.acc ≠ .rws) : s.storeReg w a v = s.ww a (s.afterWrite w a r.fields v) := by
  have hs (t : State) : t.writesRws a v = false := t.writesRws_of_no_rws v hr hn
  simp [State.storeReg, State.noteSealed, hr, hs]

/-- A register of one RW field takes that field of the word written (R10). -/
theorem State.afterWrite_rw_field {s : State} {w : Who} {a : Nat} (hi lo rst : Nat) (v : Word)
    (hm : s.mayField w a .rw = true) (hz : zeroBits a = 0) :
    s.afterWrite w a [⟨hi, lo, .rw, rst⟩] v = setBits (s.rw a) hi lo (bitsOf v.toNat hi lo) := by
  simp [State.afterWrite, fieldAfter, hm, hz]

theorem bitsOf_zero (x hi : Nat) : bitsOf x hi 0 = x % 2 ^ (hi + 1) := rfl

/-! ## The tick parameters -/

/-- The highest bit of the field that a tick parameter's register holds from bit 0 up (R47). -/
def tickParamTop (a : Nat) : Nat :=
  if a = Reg.CLK_COURSE_PERIOD.addr then 17 else if a = Reg.CLK_ORIGIN_COURSE_HI.addr then 15 else 31

theorem tickParamTop_bounds (a : Nat) : 15 ≤ tickParamTop a ∧ tickParamTop a < 32 := by
  unfold tickParamTop
  split
  · decide
  · split <;> decide

/-- A tick parameter is one RW field, of which every bit can be written. -/
theorem tickParam_row {a : Nat} (h : tickParam a = true) :
    (∃ rst, findRow a = some ⟨.module, a, [], [⟨tickParamTop a, 0, .rw, rst⟩]⟩) ∧ zeroBits a = 0 := by
  simp only [tickParam, List.contains_iff_mem, List.mem_cons, List.not_mem_nil, or_false] at h
  obtain rfl | rfl | rfl | rfl | rfl := h
  case inl => exact ⟨⟨20000, rfl⟩, rfl⟩
  all_goals exact ⟨⟨0, rfl⟩, rfl⟩

/-- What a tick parameter stores when a write of it takes. -/
theorem State.storeReg_tickParam {s : State} {w : Who} {a : Nat} (v : Word) (ha : tickParam a = true)
    (hm : s.mayField w a .rw = true) :
    s.storeReg w a v = s.ww a (setBits (s.rw a) (tickParamTop a) 0 (bitsOf v.toNat (tickParamTop a) 0)) := by
  obtain ⟨⟨rst, hr⟩, hz⟩ := tickParam_row ha
  rw [s.storeReg_of_no_rws w v hr (by simp), State.afterWrite_rw_field _ _ _ v hm hz]

section
variable {s : State} {w : Who} {a : Nat} {v : Word}

/-- The two outcomes of TICK_PARAM_WRITE for a requester whose write acts (R13, R14). -/
theorem exec_tickParamWrite (ha : tickParam a = true) (hp : s.postFree w = true) (ho : s.hostOpen w a = true)
    (hm : s.mayField w a .rw = true) :
    exec (.tickParamWrite w a v) s =
      if s.tickEn = true ∨ a = Reg.CLK_COURSE_PERIOD.addr ∧ (v.toNat % 2 ^ 18 < 2000 ∨ 200000 < v.toNat % 2 ^ 18) then
        .next (s.put Reg.CLK_SYNC_STATUS.PERIOD_REJECT 1)
      else .next (s.ww a (setBits (s.rw a) (tickParamTop a) 0 (bitsOf v.toNat (tickParamTop a) 0))) := by
  have hx : exec (.tickParamWrite w a v) s = s.answerCtl (s.tickParamOp w a v) :=
    congrArg s.answerCtl (State.posting_of_free hp _ _)
  simp only [hx, State.tickParamOp, ha, State.gated_of_mayField ho hm, if_true, Bool.or_eq_true, Bool.and_eq_true,
    decide_eq_true_eq]
  split
  · rw [State.answerCtl_put]
  · rw [State.storeReg_tickParam v ha hm, State.answerCtl_ww]

/-- The outcome of a write that takes, by the bits that the register has: both of O7's clauses about such writes follow. -/
theorem tickParamWrite_takes (ha : tickParam a = true) (hp : s.postFree w = true) (ho : s.hostOpen w a = true)
    (hm : s.mayField w a .rw = true) (ht : s.tickEn = false)
    (hv : a = Reg.CLK_COURSE_PERIOD.addr → 2000 ≤ v.toNat % 2 ^ 18 ∧ v.toNat % 2 ^ 18 ≤ 200000) :
    ∃ t, exec (.tickParamWrite w a v) s = .next t ∧ sameRegs s t (fun b => b = a)
      ∧ (t.rw a).toNat % 2 ^ (tickParamTop a + 1) = v.toNat % 2 ^ (tickParamTop a + 1) := by
  refine ⟨_, (exec_tickParamWrite ha hp ho hm).trans (if_neg ?_), fun b hb => s.rw_ww_of_ne _ hb, ?_⟩
  · rintro (h | ⟨h, hr⟩)
    · simp [ht] at h
    · have := hv h
      omega
  · have hb := bitsOf_setBits_self (s.rw a) (bitsOf v.toNat (tickParamTop a) 0) (Nat.zero_le _) (tickParamTop_bounds a).2
    simpa [bitsOf_zero] using hb

end

/-- Settles O7: `exec_tickParamWrite` gives the writes turned away, `tickParamWrite_takes` those that take. -/
theorem tickParametersAreGuarded : Obligations.TickParametersAreGuarded := by
  unfold Obligations.TickParametersAreGuarded
  intro s w a v ha hp ho hm
  have takes := tickParamWrite_takes (v := v) ha hp ho hm
  refine ⟨fun ht => ?_, fun hx hr => ?_, fun ht hx hlo hhi => ?_, fun ht hx => ?_⟩
  · rw [exec_tickParamWrite ha hp ho hm, if_pos (.inl ht)]
  · rw [exec_tickParamWrite ha hp ho hm, if_pos (.inr ⟨hx, hr⟩)]
  · obtain ⟨t, he, hs, hb⟩ := takes ht fun _ => ⟨hlo, hhi⟩
    subst hx
    exact ⟨t, he, hb, hs⟩
  · obtain ⟨t, he, hs, hb⟩ := takes ht fun h => absurd h hx
    refine ⟨t, he, hs, ?_, fun hl => ?_⟩
    · have hd : 2 ^ 16 ∣ 2 ^ (tickParamTop a + 1) := Nat.pow_dvd_pow 2 (Nat.succ_le_succ (tickParamTop_bounds a).1)
      rw [← Nat.mod_mod_of_dvd (t.rw a).toNat hd, hb, Nat.mod_mod_of_dvd _ hd]
    · have htop : tickParamTop a = 31 := by simp [tickParamTop, hx, hl]
      rw [htop, Nat.mod_eq_of_lt (t.rw a).isLt, Nat.mod_eq_of_lt v.isLt] at hb
      exact BitVec.eq_of_toNat_eq hb

end Sys2Proof.Machine

/-! SUPPORT and PROOF. Reports of the hazard detector that do not halt, and what they leave alone (R491, R492, R498). -/

namespace Sys2Proof.Machine

/-! ## What a report leaves alone -/

/-- The schedule state without the moments that it keeps as glacier counts. -/
def Dom.untimed (x : Dom) : Dom := { x with startG := 0, tickG := 0, baseG := 0, launch := none }

/-- `t` differs from `s` in the module's own registers, the fault log, the clocks and what is sent at most: every control window and
page, the stores, and the schedule states but for the glacier counts in them are the same. -/
structure Reported (s t : State) : Prop where
  rw : ∀ a, 0x01000000 ≤ a → t.rw a = s.rw a
  bulk : t.bulk = s.bulk
  dom : ∀ d, (t.dom d).untimed = (s.dom d).untimed

theorem Reported.refl (s : State) : Reported s s := ⟨fun _ _ => rfl, rfl, fun _ => rfl⟩

theorem Reported.trans {s t u : State} (h : Reported s t) (k : Reported t u) : Reported s u :=
  ⟨fun a ha => (k.rw a ha).trans (h.rw a ha), k.bulk.trans h.bulk, fun d => (k.dom d).trans (h.dom d)⟩

/-- A part of the schedule state that is no glacier count is as before. -/
theorem Reported.dom_field {s t : State} (h : Reported s t) {α : Type} (f : Dom → α) (hf : ∀ x : Dom, f x.untimed = f x)
    (d : Nat) : f (t.dom d) = f (s.dom d) := by
  rw [← hf (t.dom d), h.dom d, hf]

theorem Reported.ite {c : Prop} [Decidable c] {s t u : State} (ht : c → Reported s t) (hu : ¬ c → Reported s u) :
    Reported s (if c then t else u) := by
  split
  · exact ht ‹_›
  · exact hu ‹_›

/-! ## Updates of the module's registers -/

theorem Reported.ww (s : State) {a : Nat} (v : Word) (h : a < 0x01000000) : Reported s (s.ww a v) :=
  ⟨fun _ hb => s.rw_ww_of_ne v (Nat.ne_of_gt (Nat.lt_of_lt_of_le h hb)), rfl, fun _ => rfl⟩

theorem Reported.put (s : State) {f : Slot} (v : Nat) (h : f.reg < 0x01000000) : Reported s (s.put f v) := Reported.ww s _ h

theorem Reported.inc (s : State) {f : Slot} (k : Nat) (h : f.reg < 0x01000000) : Reported s (s.inc f k) := Reported.put s _ h

theorem Reported.flt (s : State) (b : FltBook) : Reported s { s with flt := b } := ⟨fun _ _ => rfl, rfl, fun _ => rfl⟩

theorem Reported.wwList (s : State) (a : Nat) (l : List Nat) (h : a + 4 * l.length ≤ 0x01000000) : Reported s (s.wwList a l) := by
  induction l generalizing s a with
  | nil => exact Reported.refl s
  | cons x l ih =>
    rw [List.length_cons] at h
    exact (Reported.ww s _ (by omega)).trans (ih _ (a + 4) (by omega))

theorem Reported.irq (s : State) (fn v : Nat) : Reported s (s.irq fn v) := by
  unfold State.irq
  refine .ite (fun _ => .refl s) fun _ => .ite (fun _ => .ite (fun _ => .refl s) fun _ => ?_) fun _ => ?_
  all_goals exact ⟨fun _ _ => rfl, rfl, fun _ => rfl⟩

/-- As time goes on, a value loaded into the counter moves the glacier counts that domains keep, and no more of them. -/
theorem Reported.atLeast (s : State) (g : Nat) : Reported s (s.atLeast g) where
  rw a _ := State.atLeast_keeps (·.rw a) (fun _ _ => rfl) (fun _ _ => rfl) s g
  bulk := s.atLeast_bulk g
  dom d := by
    refine State.atLeast_keeps (fun u => (u.dom d).untimed) (fun _ _ => rfl) (fun u k => ?_) s g
    simp only [State.dom, State.shiftTime, Vector.getElem?_map]
    cases u.doms[d]? <;> rfl

theorem Reported.syncTime (s : State) (d : Nat) : Reported s (s.syncTime d) := by
  unfold State.syncTime State.reachWall
  exact .ite (fun _ => .atLeast s _) fun _ => .refl s

/-! ## The fault log -/

theorem fltRec_addr_lt (i : Nat) : Reg.FLT_REC.addr (i % 512) 0 + 64 ≤ 0x01000000 := by
  unfold Reg.FLT_REC.addr
  omega

theorem Reported.storeRec (s : State) (r : FRec) : Reported s (s.storeRec r) :=
  (Reported.ite (fun _ => Reported.put s _ (by decide)) fun _ => .refl s).trans (.wwList _ _ _ (fltRec_addr_lt r.seq))

theorem Reported.recIrq (s : State) (r : FRec) : Reported s (s.recIrq r) := by
  unfold State.recIrq
  have h : Reported s (if r.effect = 0 ∨ r.effect = 2 then s.irq 0 1 else s) := .ite (fun _ => .irq s _ _) fun _ => .refl s
  exact .ite (fun _ => h.trans (.irq _ _ _)) fun _ => h

theorem Reported.logRec (s : State) (r : FRec) : Reported s (s.logRec r) := by
  unfold State.logRec
  extract_lets r next same cur first pos l out book booked stored sent dropped
  have hb : Reported s booked := .flt s _
  have hs : Reported booked stored :=
    forAll_keeps (Reported booked) _ (fun t x h => h.trans (.storeRec t x)) _ _ (.refl _)
  have hi : Reported stored sent :=
    .ite (fun _ => (Reported.ite (fun _ => .inc stored _ (by decide)) fun _ => .refl stored).trans (.recIrq _ r)) fun _ => .refl _
  have hd : Reported sent dropped := .ite (fun _ => .put sent _ (by decide)) fun _ => .refl _
  exact (hb.trans (hs.trans hi)).trans (.ite (fun _ => .put _ _ (by decide))
    fun _ => hd.trans ((Reported.inc _ _ (by decide)).trans (.put _ _ (by decide))))

theorem Reported.repeatRec (s : State) (q : Nat) : Reported s (s.repeatRec q) := by
  unfold State.repeatRec
  have h := fltRec_addr_lt q
  exact .ite (fun _ => (Reported.flt s _).trans (.ww _ _ (by omega))) fun _ => .refl s

theorem Reported.stamp (s : State) (r : FRec) : Reported s (s.stamp r).1 := by
  unfold State.stamp
  extract_lets d
  split
  · exact .syncTime s d
  · exact .refl s

theorem Reported.logEvent (s : State) (r : FRec) : Reported s (s.logEvent r) := by
  have hs := Reported.stamp s r
  unfold State.logEvent
  generalize s.stamp r = p at hs ⊢
  dsimp only
  split
  · exact hs.trans (.repeatRec _ _)
  · have hl := hs.trans (Reported.logRec p.1 p.2)
    split
    · exact hl
    · exact hl.trans (.flt _ _)

/-! ## Reports -/

/-- A report where HALT_ON_HAZARD is 0 only counts and logs (R498). -/
theorem Reported.hazard (s : State) {k : Nat} (ash addr : Nat) (ia : Option Nat) (two : Nat × Nat) (hk : k < 16)
    (h : s.hazardHalts = false) : Reported s (s.hazard k ash addr ia two) := by
  unfold State.hazard
  refine .ite (fun hd => ?_) fun _ => .refl s
  have hreg : (Reg.DBG_HAZ_COUNT.COUNT k).reg = 0x70110 + 4 * k := rfl
  have hn : Reg.DBG_CTRL.HALT_ON_HAZARD.reg ≠ (Reg.DBG_HAZ_COUNT.COUNT k).reg := by
    rw [hreg, show Reg.DBG_CTRL.HALT_ON_HAZARD.reg = 0x70100 from rfl]
    omega
  have hg : (s.inc (Reg.DBG_HAZ_COUNT.COUNT k)).get Reg.DBG_CTRL.HALT_ON_HAZARD ≠ 1 := by
    rw [State.inc, s.get_put_of_reg _ _ _ hn]
    rw [State.hazardHalts, hd, Bool.true_and] at h
    exact of_decide_eq_false h
  simp only [if_neg hg]
  exact (Reported.inc s 1 (by omega)).trans (.logEvent _ _)

end Sys2Proof.Machine

/-! SUPPORT and PROOF. The cycle in which an instruction of class 0x0 issues: the state it acts in, and what the cycle leaves of
what it has done (R163, R172, R190, R192). -/

namespace Sys2Proof.Machine

/-! ## Control windows -/

theorem window_ge (p o : Nat) : 0x01000000 ≤ Reg.window p o := by
  unfold Reg.window
  omega

/-- Different offsets of control windows are different addresses. -/
theorem window_ne {p q o o' : Nat} (h : o < 0x100000) (h' : o' < 0x100000) (hne : o ≠ o') :
    Reg.window p o ≠ Reg.window q o' := by
  unfold Reg.window
  omega

/-! ## The state in which an instruction acts -/

/-- SEQ_PC holds the address of the instruction that issues. -/
def State.issuing (s : State) (d : Nat) : State := s.put (Reg.SEQ_PC.PC d) (s.dom d).pc

@[simp] theorem State.issuing_dom (s : State) (d j : Nat) : (s.issuing d).dom j = s.dom j := s.dom_put _ _ j
@[simp] theorem State.issuing_bulk (s : State) (d : Nat) : (s.issuing d).bulk = s.bulk := s.put_bulk _ _

theorem State.rw_issuing (s : State) (d : Nat) {a : Nat} (h : a ≠ Reg.SEQ_PC.addr d) : (s.issuing d).rw a = s.rw a :=
  s.rw_put_of_ne _ _ h

theorem State.get_issuing (s : State) (d : Nat) {f : Slot} (h : f.reg ≠ Reg.SEQ_PC.addr d) : (s.issuing d).get f = s.get f :=
  s.get_put_of_reg _ _ _ h

/-- A register of a control window other than SEQ_PC is as before. -/
theorem State.rw_issuing_window (s : State) (d p : Nat) {o : Nat} (h : o < 0x100000) (hne : o ≠ 0x10) :
    (s.issuing d).rw (Reg.window p o) = s.rw (Reg.window p o) :=
  s.rw_issuing d (window_ne h (by decide) hne)

/-- A field of a register outside the control windows is as before. -/
theorem State.get_issuing_module (s : State) (d : Nat) {f : Slot} (h : f.reg < 0x01000000) : (s.issuing d).get f = s.get f :=
  s.get_issuing d (Nat.ne_of_lt (Nat.lt_of_lt_of_le h (window_ge d 0x10)))

@[simp] theorem State.get_issuing_pc (s : State) (d : Nat) : (s.issuing d).get (Reg.SEQ_PC.PC d) = (s.dom d).pc % 2 ^ 17 :=
  s.get_put_self (Reg.SEQ_PC.PC d) _ (Nat.zero_le _) (by decide : 16 < 32)

@[simp] theorem State.issuing_debug (s : State) (d : Nat) : (s.issuing d).debug = s.debug := by
  rw [State.debug, s.get_issuing_module d (by decide), State.debug]

@[simp] theorem State.issuing_hazardHalts (s : State) (d : Nat) : (s.issuing d).hazardHalts = s.hazardHalts := by
  rw [State.hazardHalts, s.issuing_debug, s.get_issuing_module d (by decide), State.hazardHalts]

@[simp] theorem State.issuing_members (s : State) (d j : Nat) : (s.issuing d).members j = s.members j := by
  rw [State.members, s.get_issuing d (window_ne (by decide) (by decide) (by decide)), State.members]

@[simp] theorem State.issuing_bankPlace (s : State) (d j b : Nat) : (s.issuing d).bankPlace j b = s.bankPlace j b := by
  simp only [State.bankPlace, State.issuing_members]

/-- A state that holds the same members of a domain and the same chain tables finds the same operation in a chain word. -/
theorem State.chainOp_congr {s t : State} {d : Nat} (w : Quad) (hm : t.members d = s.members d)
    (h : ∀ p o, 0x1400 ≤ o → o < 0x2000 → t.rw (Reg.window p o) = s.rw (Reg.window p o)) :
    t.chainOp d w = s.chainOp d w := by
  have hx : fld w 43 35 % 32 < 32 := Nat.mod_lt _ (by decide)
  have hdr (p : Nat) : t.rw (Reg.VEC_CH_HDR.addr p (fld w 43 35 % 32)) = s.rw (Reg.VEC_CH_HDR.addr p (fld w 43 35 % 32)) :=
    h p _ (by omega) (by omega)
  have red (p : Nat) : t.rw (Reg.VEC_CH_RED.addr p (fld w 43 35 % 32)) = s.rw (Reg.VEC_CH_RED.addr p (fld w 43 35 % 32)) :=
    h p _ (by omega) (by omega)
  have red2 (p : Nat) : t.rw (Reg.VEC_CH_RED2.addr p (fld w 43 35 % 32)) = s.rw (Reg.VEC_CH_RED2.addr p (fld w 43 35 % 32)) :=
    h p _ (by omega) (by omega)
  have stg (p n : Nat) :
      ((List.range (bitsOf n 3 0)).map fun k => stageOf (t.rw (Reg.VEC_CH_STG.addr p (fld w 43 35 % 32) k)).toNat)
        = (List.range (bitsOf n 3 0)).map fun k => stageOf (s.rw (Reg.VEC_CH_STG.addr p (fld w 43 35 % 32) k)).toNat := by
    refine List.map_congr_left fun k hk => ?_
    have hn : bitsOf n 3 0 < 16 := Nat.mod_lt _ (by decide)
    have hk' := List.mem_range.mp hk
    rw [Reg.VEC_CH_STG.addr, h p _ (by omega) (by omega)]
  simp only [State.chainOp, hm, hdr, red, red2, stg]

/-- A race for a summary is seen in the schedule state and in what the vector words name. -/
theorem State.sumRace_congr {s t : State} {d : Nat} (z : Bool) (n : Nat) (hd : t.dom d = s.dom d)
    (hv : ∀ w, t.vopOf d w = s.vopOf d w) : t.sumRace d z n = s.sumRace d z n := by
  unfold State.sumRace
  simp only [hd, hv]

@[simp] theorem State.issuing_vopOf (s : State) (d j : Nat) (w : Quad) : (s.issuing d).vopOf j w = s.vopOf j w := by
  rw [State.vopOf, State.vopOf, State.chainOp_congr w (s.issuing_members d j)
    fun p o ho ho' => s.rw_issuing_window d p (by omega) (by omega)]

@[simp] theorem State.issuing_sumRace (s : State) (d j : Nat) (z : Bool) (n : Nat) :
    (s.issuing d).sumRace j z n = s.sumRace j z n :=
  State.sumRace_congr z n (s.issuing_dom d j) (s.issuing_vopOf d j)

@[simp] theorem State.issuing_halted (s : State) (d : Nat) : (s.issuing d).halted d = s.halted d := by
  rw [State.halted, s.get_issuing d (window_ne (by decide) (by decide) (by decide)), State.halted]

/-! ## The cycle of an instruction that issues -/

/-- `u` has the schedule cycle of `s` in domain `d`, what is due in it, and its SEQ_PC and SEQ_HALT_CODE. -/
structure SameCycle (s u : State) (d : Nat) : Prop where
  cyc : (u.dom d).cyc = (s.dom d).cyc
  wall : (u.dom d).wall = (s.dom d).wall
  due : (u.dom d).due = (s.dom d).due
  pcReg : u.rw (Reg.SEQ_PC.addr d) = s.rw (Reg.SEQ_PC.addr d)
  haltReg : u.rw (Reg.SEQ_HALT_CODE.addr d) = s.rw (Reg.SEQ_HALT_CODE.addr d)

theorem SameCycle.refl (s : State) (d : Nat) : SameCycle s s d := ⟨rfl, rfl, rfl, rfl, rfl⟩

theorem SameCycle.trans {s t u : State} {d : Nat} (h : SameCycle s t d) (k : SameCycle t u d) : SameCycle s u d :=
  ⟨k.cyc.trans h.cyc, k.wall.trans h.wall, k.due.trans h.due, k.pcReg.trans h.pcReg, k.haltReg.trans h.haltReg⟩

theorem SameCycle.halted {s u : State} {d : Nat} (h : SameCycle s u d) : u.halted d = s.halted d := by
  have hr : u.rw (Reg.SEQ_HALT_CODE.VALID d).reg = s.rw (Reg.SEQ_HALT_CODE.VALID d).reg := h.haltReg
  rw [State.halted, State.get, hr, State.halted, State.get]

theorem SameCycle.get_pc {s u : State} {d : Nat} (h : SameCycle s u d) : u.get (Reg.SEQ_PC.PC d) = s.get (Reg.SEQ_PC.PC d) := by
  have hr : u.rw (Reg.SEQ_PC.PC d).reg = s.rw (Reg.SEQ_PC.PC d).reg := h.pcReg
  simp only [State.get, hr]

/-- A write of another register of a control window. -/
theorem SameCycle.ww (s : State) (d p : Nat) {o : Nat} (v : Word) (ho : 0x20 < o) (ho' : o < 0x100000) :
    SameCycle s (s.ww (Reg.window p o) v) d where
  cyc := by rw [State.dom_ww]
  wall := by rw [State.dom_ww]
  due := by rw [State.dom_ww]
  pcReg := s.rw_ww_of_ne v (window_ne (by decide) ho' (by omega))
  haltReg := s.rw_ww_of_ne v (window_ne (by decide) ho' (by omega))

/-- A change of the schedule state that is neither of time nor of what is due. -/
theorem SameCycle.modDom (s : State) {d : Nat} (f : Dom → Dom) (hd : d < 12) (hc : ∀ x, (f x).cyc = x.cyc)
    (hw : ∀ x, (f x).wall = x.wall) (hu : ∀ x, (f x).due = x.due) : SameCycle s (s.modDom d f) d where
  cyc := by rw [s.dom_modDom_self f hd, hc]
  wall := by rw [s.dom_modDom_self f hd, hw]
  due := by rw [s.dom_modDom_self f hd, hu]
  pcReg := rfl
  haltReg := rfl

theorem Reported.sameCycle {s t : State} (h : Reported s t) (d : Nat) : SameCycle s t d :=
  ⟨h.dom_field Dom.cyc (fun _ => rfl) d, h.dom_field Dom.wall (fun _ => rfl) d, h.dom_field Dom.due (fun _ => rfl) d,
    h.rw _ (window_ge d _), h.rw _ (window_ge d _)⟩

/-- The state after the cycle in which the instruction at the fetch pointer of `s` has acted, with the effect `u`, and issued. -/
def State.issued (s u : State) (d : Nat) (n : Next) : State :=
  { u.modDom d (fun x => (x.issuedAt (s.dom d).pc n).passTo ((u.dom d).cyc + 1)) with
    fuses := s.fuses
    pending := s.pending }

@[simp] theorem State.issued_bulk (s u : State) (d : Nat) (n : Next) : (s.issued u d n).bulk = u.bulk := rfl
@[simp] theorem State.issued_rw (s u : State) (d : Nat) (n : Next) (a : Nat) : (s.issued u d n).rw a = u.rw a := rfl
@[simp] theorem State.issued_get (s u : State) (d : Nat) (n : Next) (f : Slot) : (s.issued u d n).get f = u.get f := rfl

theorem State.issued_dom (s u : State) {d : Nat} (n : Next) (hd : d < 12) :
    (s.issued u d n).dom d = ((u.dom d).issuedAt (s.dom d).pc n).passTo ((u.dom d).cyc + 1) :=
  u.dom_modDom_self (fun x => (x.issuedAt (s.dom d).pc n).passTo ((u.dom d).cyc + 1)) hd

/-- What neither the fetch pointer nor the marks of an issue change, an instruction's issue does not change. -/
theorem Dom.issuedAt_keeps {α : Type} (f : Dom → α)
    (hf : ∀ (x : Dom) (fw : Nat) (qs : Bool) (b : Option Nat) (l : List LoopLevel) (c : Option CallState) (p h : Nat),
      f { x with fetchWait := fw, queueStall := qs, bank := b, loops := l, call := c, pc := p, hold := h } = f x)
    (x : Dom) (ia : Nat) (n : Next) : f (x.issuedAt ia n) = f x := by
  cases n with
  | skip a => exact hf x ..
  | jump a => exact hf x ..
  | seq =>
    simp only [Dom.issuedAt, Dom.advance]
    split
    · split
      · exact hf x ..
      · exact hf x ..
    · exact hf x ..

/-- What a schedule cycle that passes does not change. -/
theorem Dom.passTo_keeps {α : Type} (f : Dom → α) (hr : ∀ (x : Dom) (w c : Nat), f { x with wall := w, cyc := c } = f x)
    (hl : ∀ (x : Dom) (l : List Lag), f { x with lags := l } = f x)
    (hp : ∀ (x : Dom) r u v b y q, f { x with runs := r, under := u, claims := v, bankLog := b, busy := y, lastQ := q } = f x)
    (x : Dom) (c : Nat) : f (x.passTo c) = f x := by
  have h : f (x.reach c).catchUp = f (x.reach c) := by
    unfold Dom.catchUp
    split
    · rfl
    · exact hl _ _
  have hs : f (x.reach c).catchUp.sweep = f (x.reach c).catchUp := hp (x.reach c).catchUp _ _ _ _ _ _
  exact (hp _ _ _ _ _ _ _).trans (hs.trans (h.trans (hr _ _ _)))

@[simp] theorem Dom.passTo_pc (x : Dom) (c : Nat) : (x.passTo c).pc = x.pc :=
  Dom.passTo_keeps Dom.pc (fun _ _ _ => rfl) (fun _ _ => rfl) (fun _ _ _ _ _ _ _ => rfl) x c
@[simp] theorem Dom.passTo_loops (x : Dom) (c : Nat) : (x.passTo c).loops = x.loops :=
  Dom.passTo_keeps Dom.loops (fun _ _ _ => rfl) (fun _ _ => rfl) (fun _ _ _ _ _ _ _ => rfl) x c
@[simp] theorem Dom.passTo_ovq (x : Dom) (c : Nat) : (x.passTo c).ovq = x.ovq :=
  Dom.passTo_keeps Dom.ovq (fun _ _ _ => rfl) (fun _ _ => rfl) (fun _ _ _ _ _ _ _ => rfl) x c

/-- Time as a schedule cycle passes. -/
theorem Dom.passTo_time (x : Dom) : (x.passTo (x.cyc + 1)).cyc = x.cyc + 1 ∧ (x.passTo (x.cyc + 1)).wall = x.wall + 1 := by
  have h : ∀ y : Dom, y.catchUp.cyc = y.cyc ∧ y.catchUp.wall = y.wall := fun y => by
    unfold Dom.catchUp
    split <;> exact ⟨rfl, rfl⟩
  obtain ⟨hc, hw⟩ := h (x.reach (x.cyc + 1))
  refine ⟨hc.trans ?_, hw.trans ?_⟩ <;> simp only [Dom.reach] <;> omega

/-- Fetch goes on by the loops and the call alone (R190, R192). -/
theorem Dom.advance_congr {x y : Dom} (ia : Nat) (n : Next) (hl : y.loops = x.loops) (hc : y.call = x.call) :
    (y.advance ia n).pc = (x.advance ia n).pc := by
  cases n with
  | skip a => rfl
  | jump a => rfl
  | seq =>
    simp only [Dom.advance, hl, hc]
    split
    · split <;> rfl
    · rfl

/-- Behind an instruction that is not the last of the innermost body, the loop levels stay (R192). -/
theorem Dom.advance_seq_loops (x : Dom) {ia : Nat} {ls : List LoopLevel} {l : LoopLevel} (h : x.loops = ls ++ [l])
    (hn : ia ≠ l.last) : (x.advance ia .seq).loops = x.loops := by
  simp only [Dom.advance, h, List.reverse_append, List.reverse_singleton, List.singleton_append, loopNext, if_neg hn]
  split
  · split <;> simp
  · simp

/-- The domain of an instruction that issues runs and has not halted. -/
theorem State.issues.running {s : State} {d cls op : Nat} {w : Quad} (h : s.issues d w cls op) :
    d < 12 ∧ s.running d = true ∧ s.halted d = false := by
  have hc := h.1
  simp only [State.canIssue, Bool.and_eq_true, decide_eq_true_eq, Bool.not_eq_true', and_assoc] at hc
  obtain ⟨hd, -, hr, hh, -⟩ := hc
  exact ⟨hd, hr, hh⟩

theorem State.issues.later {s : State} {d cls op : Nat} {w : Quad} (h : s.issues d w cls op) :
    ∀ a ∈ (s.dom d).due, (s.dom d).cyc + 1 < a.1 := by
  obtain ⟨-, -, -, -, -, -, -, hl⟩ := h
  exact hl

/-- An instruction of class 0x0 that acts, and does not halt the domain, issues. -/
theorem control_of_issues {s u : State} {d op : Nat} {w : Quad} {n : Next} (act : State → Quad → Nat → IssueRes)
    (h : s.issues d w 0 op) (ha : act (s.issuing d) w (s.dom d).pc = .done u n) (hu : SameCycle (s.issuing d) u d) :
    s.control d op act = .next (s.issued u d n) ∧ issuedTo s (s.issued u d n) d ((u.dom d).advance (s.dom d).pc n).pc := by
  obtain ⟨hd, -, hr⟩ := h.running
  have hh : u.halted d = false := by rw [hu.halted, s.issuing_halted, hr]
  have hdue : ∀ a ∈ (u.dom d).due, (u.dom d).cyc + 1 < a.1 := by
    rw [hu.due, hu.cyc, s.issuing_dom]
    exact h.later
  have hq : s.control d op act = s.answer (u.modDom d fun x => (x.issuedAt (s.dom d).pc n).passTo ((u.dom d).cyc + 1)) :=
    congrArg s.answer (issueOp_quiet s act h ha hd hh hdue)
  have hi : ((u.dom d).issuedAt (s.dom d).pc n).cyc = (u.dom d).cyc :=
    Dom.issuedAt_keeps Dom.cyc (fun _ _ _ _ _ _ _ _ => rfl) _ _ _
  have hw : ((u.dom d).issuedAt (s.dom d).pc n).wall = (u.dom d).wall :=
    Dom.issuedAt_keeps Dom.wall (fun _ _ _ _ _ _ _ _ => rfl) _ _ _
  obtain ⟨ht, htw⟩ := Dom.passTo_time ((u.dom d).issuedAt (s.dom d).pc n)
  rw [hi] at ht htw
  refine ⟨hq, ?_, ?_, ?_, ?_⟩
  · rw [s.issued_dom u n hd, ht, hu.cyc, s.issuing_dom]
  · rw [s.issued_dom u n hd, htw, hw, hu.wall, s.issuing_dom]
  · rw [s.issued_dom u n hd, Dom.passTo_pc]
    exact Dom.advance_congr _ _ rfl rfl
  · rw [State.issued_get, hu.get_pc, State.get_issuing_pc]

/-- One that leaves the loops and the call as they were: fetch goes on behind it (R172, R190, R192). -/
theorem control_seq_of_issues {s u : State} {d op : Nat} {w : Quad} (act : State → Quad → Nat → IssueRes)
    (h : s.issues d w 0 op) (ha : act (s.issuing d) w (s.dom d).pc = .done u .seq) (hu : SameCycle (s.issuing d) u d)
    (hl : (u.dom d).loops = (s.dom d).loops) (hc : (u.dom d).call = (s.dom d).call) :
    s.control d op act = .next (s.issued u d .seq) ∧ issuedTo s (s.issued u d .seq) d (s.pcAfter d) := by
  have hi := control_of_issues act h ha hu
  rwa [Dom.advance_congr _ _ hl hc] at hi

end Sys2Proof.Machine

/-! SUPPORT and PROOF. ENDC, OVL, SETQ and ADDQ, and the LOOP or BRS that reads what SETQ or ADDQ has written (R177, R186, R195,
R196, R218): the statement about them. -/

namespace Sys2Proof.Machine

/-! ## Reads of a q-register -/

/-- An instruction whose read of a summary stops nothing acts on a state that is as it was but for a report (R159, R498). -/
theorem State.sumLook_of_safe (s : State) {d : Nat} {z : Bool} {n : Nat} (ia : Nat) (k : State → IssueRes)
    (hs : s.sumSafe d z n = true) (hh : s.halted d = false) :
    ∃ t, s.sumLook d z n ia k = k t ∧ Reported s t ∧ (s.debug = false ∨ s.sumRace d z n = false → t = s) := by
  unfold State.sumLook
  extract_lets x next t
  have ht : Reported s t := by
    refine .ite (fun hr => .hazard s _ _ _ _ (by decide) ?_) fun _ => .refl s
    rw [Bool.and_eq_true] at hr
    rwa [State.sumSafe, hr.2, Bool.and_true, Bool.not_eq_true'] at hs
  refine ⟨t, ?_, ht, fun hn => if_neg ?_⟩
  · rw [(ht.sameCycle d).halted, hh]
    rfl
  · rw [Bool.and_eq_true, not_and, Bool.not_eq_true]
    exact fun hd => hn.resolve_left (by rw [hd]; exact Bool.noConfusion)

/-- The same at issue. -/
theorem sumLook_of_issues {s : State} {d op : Nat} {w : Quad} {z : Bool} {n : Nat} (k : State → IssueRes)
    (h : s.issues d w 0 op) (hs : s.sumSafe d z n = true) :
    ∃ t, (s.issuing d).sumLook d z n (s.dom d).pc k = k t ∧ Reported (s.issuing d) t
      ∧ (s.debug = false ∨ s.sumRace d z n = false → t = s.issuing d) := by
  obtain ⟨-, -, hh⟩ := h.running
  obtain ⟨t, hk, ht, he⟩ := (s.issuing d).sumLook_of_safe (s.dom d).pc k (d := d) (z := z) (n := n)
    (by rwa [State.sumSafe, s.issuing_hazardHalts, s.issuing_sumRace]) (by rw [s.issuing_halted, hh])
  rw [s.issuing_debug, s.issuing_sumRace] at he
  exact ⟨t, hk, ht, he⟩

theorem seqQ_ne_seqPc (d e n : Nat) (h : n < 16) : Reg.SEQ_Q.addr d n ≠ Reg.SEQ_PC.addr e :=
  window_ne (by omega) (by decide) (by omega)

theorem fld_lt (w : Quad) (hi lo : Nat) : fld w hi lo < 2 ^ (hi - lo + 1) := Nat.mod_lt _ (Nat.two_pow_pos _)

/-- A q-register is all of its word. -/
theorem State.get_qValue (s : State) (d n : Nat) : s.get (Reg.SEQ_Q.VALUE d n) = (s.rw (Reg.SEQ_Q.addr d n)).toNat :=
  Nat.mod_eq_of_lt (s.rw (Reg.SEQ_Q.addr d n)).isLt

/-- A q-register is the same where an instruction that reads it acts. -/
theorem Reported.rw_q {s t : State} {d n : Nat} (h : Reported (s.issuing d) t) (hn : n < 16) :
    t.rw (Reg.SEQ_Q.addr d n) = s.rw (Reg.SEQ_Q.addr d n) := by
  rw [h.rw (Reg.SEQ_Q.addr d n) (window_ge d _), s.rw_issuing d (seqQ_ne_seqPc d d n hn)]

/-- The loops and the call are the same where an instruction that reads a q-register acts. -/
theorem Reported.issuing_field {s t : State} {d : Nat} (h : Reported (s.issuing d) t) {α : Type} (f : Dom → α)
    (hf : ∀ x : Dom, f x.untimed = f x) : f (t.dom d) = f (s.dom d) := by
  rw [h.dom_field f hf d, s.issuing_dom]

/-! ## Writes of a q-register -/

theorem State.rw_modDom (s : State) (d : Nat) (f : Dom → Dom) (a : Nat) : (s.modDom d f).rw a = s.rw a := rfl

/-- The write of qn at the end of an instruction's cycle (R196, R218). -/
def State.writeQ (s : State) (d n : Nat) (v : Word) : State := (s.setQ d n v).noteQ d n

theorem State.rw_writeQ (s : State) (d n : Nat) (v : Word) : (s.writeQ d n v).rw (Reg.SEQ_Q.addr d n) = v := by
  rw [State.writeQ, State.noteQ, State.rw_modDom, State.setQ, State.rw_ww_self]

theorem State.rw_writeQ_of_ne (s : State) (d n : Nat) (v : Word) {a : Nat} (h : a ≠ Reg.SEQ_Q.addr d n) :
    (s.writeQ d n v).rw a = s.rw a := by
  rw [State.writeQ, State.noteQ, State.rw_modDom, State.setQ, s.rw_ww_of_ne v h]

@[simp] theorem State.writeQ_bulk (s : State) (d n : Nat) (v : Word) : (s.writeQ d n v).bulk = s.bulk := by
  rw [State.writeQ, State.noteQ, State.modDom_bulk, State.setQ, State.ww_bulk]

theorem State.dom_writeQ (s : State) {d : Nat} (n : Nat) (v : Word) (hd : d < 12) :
    (s.writeQ d n v).dom d = { s.dom d with lastQ := (n, (s.dom d).cyc) :: (s.dom d).lastQ } := by
  rw [State.writeQ, State.noteQ, State.dom_modDom_self _ _ hd, State.setQ, State.dom_ww]

theorem SameCycle.writeQ (s : State) {d n : Nat} (v : Word) (hd : d < 12) (hn : n < 16) :
    SameCycle s (s.writeQ d n v) d where
  cyc := by rw [s.dom_writeQ n v hd]
  wall := by rw [s.dom_writeQ n v hd]
  due := by rw [s.dom_writeQ n v hd]
  pcReg := s.rw_writeQ_of_ne d n v (window_ne (by decide) (by omega) (by omega))
  haltReg := s.rw_writeQ_of_ne d n v (window_ne (by decide) (by omega) (by omega))

/-- An instruction that ends with a write of qn, which it may have read and been reported for. -/
theorem control_writeQ {s t : State} {d op n : Nat} {w : Quad} {v : Word} (act : State → Quad → Nat → IssueRes)
    (h : s.issues d w 0 op) (ha : act (s.issuing d) w (s.dom d).pc = .done (t.writeQ d n v) .seq)
    (ht : Reported (s.issuing d) t) (hn : n < 16) :
    ∃ u, s.control d op act = .next u ∧ issuedTo s u d (s.pcAfter d) ∧ u.rw (Reg.SEQ_Q.addr d n) = v ∧ u.bulk = s.bulk
      ∧ sameRegs t u fun a => a = Reg.SEQ_Q.addr d n := by
  obtain ⟨hd, -, -⟩ := h.running
  have hdom := t.dom_writeQ n v hd
  obtain ⟨he, hi⟩ := control_seq_of_issues act h ha ((ht.sameCycle d).trans (.writeQ t v hd hn))
    (by rw [hdom]; exact ht.issuing_field Dom.loops fun _ => rfl) (by rw [hdom]; exact ht.issuing_field Dom.call fun _ => rfl)
  refine ⟨_, he, hi, ?_, ?_, fun a hx => ?_⟩
  · rw [State.issued_rw, State.rw_writeQ]
  · rw [State.issued_bulk, State.writeQ_bulk, ht.bulk, State.issuing_bulk]
  · rw [State.issued_rw, State.rw_writeQ_of_ne _ _ _ _ hx]

/-- What ADDQ writes. -/
def State.addToQ (s : State) (d : Nat) (w : Quad) : State :=
  s.writeQ d (fld w 35 32) (s.rw (Reg.SEQ_Q.addr d (fld w 35 32)) + BitVec.ofNat 32 (fld w 31 0))

/-- What SETQ does in its cycle. -/
def setqAct (d : Nat) (s : State) (w : Quad) (_ : Nat) : IssueRes :=
  .done (s.writeQ d (fld w 35 32) (BitVec.ofNat 32 (fld w 31 0))) .seq

/-- What ADDQ does in its cycle. -/
def addqAct (d : Nat) (s : State) (w : Quad) (ia : Nat) : IssueRes :=
  s.sumLook d false (fld w 35 32) ia fun s => .done (s.addToQ d w) .seq

theorem exec_setq (d : Nat) (s : State) : exec (.setq d) s = s.control d 7 (setqAct d) := rfl
theorem exec_addq (d : Nat) (s : State) : exec (.addq d) s = s.control d 8 (addqAct d) := rfl

section
variable {s : State} {d : Nat} {w : Quad}

/-- SETQ writes its immediate to qn, and no register but that and SEQ_PC. -/
theorem setq_writes_q (h : s.issues d w 0 7) :
    ∃ t, exec (.setq d) s = .next t ∧ issuedTo s t d (s.pcAfter d)
      ∧ t.rw (Reg.SEQ_Q.addr d (fld w 35 32)) = BitVec.ofNat 32 (fld w 31 0) ∧ t.bulk = s.bulk
      ∧ sameRegs s t fun a => a = Reg.SEQ_PC.addr d ∨ a = Reg.SEQ_Q.addr d (fld w 35 32) := by
  obtain ⟨t, he, hi, hq, hb, hr⟩ := control_writeQ (setqAct d) h rfl (.refl _) (fld_lt w 35 32)
  refine ⟨t, (exec_setq d s).trans he, hi, hq, hb, fun a ha => ?_⟩
  rw [not_or] at ha
  rw [hr a ha.2, s.rw_issuing d ha.1]

/-- ADDQ adds its immediate to qn; it writes no register but that, SEQ_PC and those of a report. -/
theorem addq_adds_to_q (h : s.issues d w 0 8) (hs : s.sumSafe d false (fld w 35 32) = true) :
    ∃ t, exec (.addq d) s = .next t ∧ issuedTo s t d (s.pcAfter d)
      ∧ t.rw (Reg.SEQ_Q.addr d (fld w 35 32)) = s.rw (Reg.SEQ_Q.addr d (fld w 35 32)) + BitVec.ofNat 32 (fld w 31 0)
      ∧ t.bulk = s.bulk ∧ (s.debug = false ∨ s.sumRace d false (fld w 35 32) = false →
        sameRegs s t fun a => a = Reg.SEQ_PC.addr d ∨ a = Reg.SEQ_Q.addr d (fld w 35 32)) := by
  obtain ⟨r, hk, hr, hsame⟩ := sumLook_of_issues (fun r => .done (r.addToQ d w) .seq) h hs
  obtain ⟨t, he, hi, hq, hb, ho⟩ := control_writeQ (addqAct d) h hk hr (fld_lt w 35 32)
  rw [hr.rw_q (fld_lt w 35 32)] at hq
  refine ⟨t, (exec_addq d s).trans he, hi, hq, hb, fun hn a ha => ?_⟩
  rw [not_or] at ha
  rw [ho a ha.2, hsame hn, s.rw_issuing d ha.1]

/-! ## ENDC and OVL -/

/-- A command's outcome holds what its operation leaves, but for the fused values and the commands that wait. -/
theorem State.answer_next (s t : State) :
    ∃ u, s.answer t = .next u ∧ (∀ d, u.dom d = t.dom d) ∧ (∀ a, u.rw a = t.rw a) ∧ u.bulk = t.bulk :=
  ⟨_, rfl, fun _ => rfl, fun _ => rfl, rfl⟩

/-- The schedule state of an ENDC at `ia` that waits to retire (R186, R187). -/
def Dom.retiring (x : Dom) (w : Quad) (ia : Nat) : Dom :=
  { x with
    retire := some (if fld w 47 47 = 1 then some (fld w 16 0) else none)
    fetchWait := 0
    queueStall := false
    bank := some (ia / 512) }

theorem endcOp_of_issues (h : s.issues d w 0 5) (hc : (s.dom d).call = none) :
    s.endcOp d = (s.issuing d).modDom d fun x => x.retiring w (s.dom d).pc := by
  obtain ⟨hi, hh, hf, -, hcl, hop, hw, -⟩ := h
  simp only [State.endcOp, hi, hh, hf, hcl, hop, hw, hc, decide_true, Bool.and_self, and_self, if_true]
  rfl

/-- ENDC waits to retire with its next entry; no cycle passes (R186, R187). -/
theorem endc_waits_to_retire (h : s.issues d w 0 5) (hc : (s.dom d).call = none) :
    ∃ t, exec (.endc d) s = .next t
      ∧ (t.dom d).retire = some (if fld w 47 47 = 1 then some (fld w 16 0) else none) ∧ (t.dom d).cyc = (s.dom d).cyc
      ∧ t.running d = true ∧ t.bulk = s.bulk ∧ sameRegs s t fun a => a = Reg.SEQ_PC.addr d := by
  obtain ⟨hd, hrun, -⟩ := h.running
  obtain ⟨t, ht, hdom, hrw, hb⟩ := s.answer_next ((s.issuing d).modDom d fun x => x.retiring w (s.dom d).pc)
  have hx : t.dom d = (s.dom d).retiring w (s.dom d).pc := by rw [hdom, State.dom_modDom_self _ _ hd, s.issuing_dom]
  have hr (a : Nat) (ha : a ≠ Reg.SEQ_PC.addr d) : t.rw a = s.rw a := by rw [hrw, State.rw_modDom, s.rw_issuing d ha]
  refine ⟨t, (congrArg s.answer (endcOp_of_issues h hc)).trans ht, by rw [hx]; rfl, by rw [hx]; rfl, ?_, ?_, hr⟩
  · have hs : t.rw (Reg.SEQ_COURSE_STATUS.RUNNING d).reg = s.rw (Reg.SEQ_COURSE_STATUS.RUNNING d).reg :=
      hr _ (window_ne (by decide) (by decide) (by decide))
    rw [← hrun, State.running, State.get, hs, State.running, State.get]
  · rw [hb, State.modDom_bulk, s.issuing_bulk]

/-- The load that an OVL queues in schedule cycle `c` (R177, R178). -/
def ovlOf (w : Quad) (c : Nat) : Ovl := ⟨fld w 47 40, fld w 39 30, fld w 29 14 / 8192, fld w 29 14 % 8192, fld w 13 0, c⟩

/-- The load of an OVL in the queue; `valid` tells what its bank held before. -/
def Dom.queueOvl (x : Dom) (w : Quad) (valid : Bool) : Dom :=
  { x with
    ovq := x.ovq ++ [ovlOf w x.cyc]
    ovPrev := x.ovPrev ++ [(fld w 47 40, valid)] }

/-- An OVL of an EMPTY or VALID bank: the bank is PENDING, the load is counted and queued (R177 to R179). -/
def State.queueOvl (s : State) (d : Nat) (w : Quad) (p b : Nat) : State :=
  ((s.put (Reg.SEQ_BANK.STATE p b) 2).put (Reg.SEQ_BANK.QUEUED p b) (s.get (Reg.SEQ_BANK.QUEUED p b) + 1)).modDom d
    fun x => x.queueOvl w (decide (s.get (Reg.SEQ_BANK.STATE p b) = 1))

/-- An OVL of a source that may be read, with room in the queue, is queued (R177 to R181). -/
theorem ovlAct_queues {p b : Nat} (ia : Nat) (hp : s.bankPlace d (fld w 47 40) = some (p, b))
    (hres : s.get (Reg.SEQ_BANK.RESIDENT p b) = 0) (hrow : fld w 29 14 % 8192 ≤ 8184) (hash : fld w 39 30 < 576)
    (hmem : (s.members d).contains (partOf (fld w 39 30)) = true) (hrdy : s.sliceReady (fld w 39 30) (fld w 29 14 / 8192) = true)
    (hroom : (s.dom d).ovq.length < 4) (hst : s.get (Reg.SEQ_BANK.STATE p b) < 2) :
    s.ovlAct d w ia = .done (s.queueOvl d w p b) .seq := by
  have hq : (s.put (Reg.SEQ_BANK.STATE p b) 2).get (Reg.SEQ_BANK.QUEUED p b) = s.get (Reg.SEQ_BANK.QUEUED p b) :=
    s.get_put_of_disjoint _ _ _ (Nat.zero_le _) (by decide : 1 < 32) (by decide : 4 ≤ 6) (.inl (by decide : 1 < 4))
  simp only [State.ovlAct, hp, hres, hmem, hrdy, if_pos hst, hq, Nat.not_lt.mpr hrow, Nat.not_le.mpr hash, Nat.not_le.mpr hroom,
    Nat.zero_ne_one, or_self, Bool.true_eq_false, if_false]
  rfl

@[simp] theorem State.queueOvl_bulk (s : State) (d : Nat) (w : Quad) (p b : Nat) : (s.queueOvl d w p b).bulk = s.bulk := by
  rw [State.queueOvl, State.modDom_bulk, State.put_bulk, State.put_bulk]

theorem State.dom_queueOvl (s : State) {d : Nat} (w : Quad) (p b : Nat) (hd : d < 12) :
    (s.queueOvl d w p b).dom d = (s.dom d).queueOvl w (decide (s.get (Reg.SEQ_BANK.STATE p b) = 1)) := by
  rw [State.queueOvl, State.dom_modDom_self _ _ hd, State.dom_put, State.dom_put]

theorem State.get_modDom (s : State) (d : Nat) (f : Dom → Dom) (g : Slot) : (s.modDom d f).get g = s.get g := rfl

theorem State.get_state_queueOvl (s : State) (d : Nat) (w : Quad) (p b : Nat) :
    (s.queueOvl d w p b).get (Reg.SEQ_BANK.STATE p b) = 2 := by
  rw [State.queueOvl, State.get_modDom, State.get_put_of_disjoint _ _ _ _ (by decide : 4 ≤ 6) (by decide : 6 < 32) (Nat.zero_le _)
    (.inr (by decide : 1 < 4)), State.get_put_self _ _ _ (Nat.zero_le _) (by decide : 1 < 32)]
  rfl

theorem State.get_queued_queueOvl (s : State) (d : Nat) (w : Quad) (p b : Nat) (h : s.get (Reg.SEQ_BANK.QUEUED p b) < 4) :
    (s.queueOvl d w p b).get (Reg.SEQ_BANK.QUEUED p b) = s.get (Reg.SEQ_BANK.QUEUED p b) + 1 := by
  rw [State.queueOvl, State.get_modDom, State.get_put_self _ _ _ (by decide : 4 ≤ 6) (by decide : 6 < 32)]
  exact Nat.mod_eq_of_lt (Nat.lt_of_lt_of_le (Nat.succ_lt_succ h) (by decide : 5 ≤ 2 ^ (6 - 4 + 1)))

theorem SameCycle.queueOvl (s : State) {d : Nat} (w : Quad) (p b : Nat) (hd : d < 12) (hb : b < 12) :
    SameCycle s (s.queueOvl d w p b) d :=
  ((SameCycle.ww s d p (o := 0xc0 + 4 * b) _ (by omega) (by omega)).trans
    (.ww _ d p (o := 0xc0 + 4 * b) _ (by omega) (by omega))).trans (.modDom _ _ hd (fun _ => rfl) (fun _ => rfl) fun _ => rfl)

theorem bankPlace_bank_lt {n p b : Nat} (h : s.bankPlace d n = some (p, b)) : b < 12 := by
  simp only [State.bankPlace, Option.map_eq_some_iff, Prod.mk.injEq] at h
  obtain ⟨_, -, -, rfl⟩ := h
  exact Nat.mod_lt _ (by decide)

/-- Which slices are ready does not change at issue. -/
theorem State.issuing_sliceReady (s : State) (d : Nat) {ash : Nat} (slice : Nat) (h : ash < 576) :
    (s.issuing d).sliceReady ash slice = s.sliceReady ash slice := by
  have hreg : (Reg.TILE_SLICE_PWR.READY (partOf ash) (idxOf ash)).reg
      = Reg.window (partOf ash) (0x40000 + idxOf ash * 0x1000 + 0x10) := by
    show Reg.page _ _ _ = _
    unfold Reg.page Reg.window
    omega
  have hi : idxOf ash < 48 := by
    unfold idxOf
    omega
  have hne : (Reg.TILE_SLICE_PWR.READY (partOf ash) (idxOf ash)).reg ≠ Reg.SEQ_PC.addr d := by
    rw [hreg]
    exact window_ne (by omega) (by decide) (by omega)
  rw [State.sliceReady, s.get_issuing d hne, State.sliceReady]

end

theorem exec_ovl (d : Nat) (s : State) : exec (.ovl d) s = s.control d 6 fun s w ia => s.ovlAct d w ia := rfl

/-- OVL queues its load and makes its bank PENDING. -/
theorem ovl_queues_load {s : State} {d : Nat} {w : Quad} {p b : Nat} (h : s.issues d w 0 6)
    (hp : s.bankPlace d (fld w 47 40) = some (p, b)) (hres : s.get (Reg.SEQ_BANK.RESIDENT p b) = 0)
    (hrow : fld w 29 14 % 8192 ≤ 8184) (hash : fld w 39 30 < 576)
    (hmem : (s.members d).contains (partOf (fld w 39 30)) = true) (hrdy : s.sliceReady (fld w 39 30) (fld w 29 14 / 8192) = true)
    (hroom : (s.dom d).ovq.length < 4) (hst : s.get (Reg.SEQ_BANK.STATE p b) < 2) (hq : s.get (Reg.SEQ_BANK.QUEUED p b) < 4) :
    ∃ t, exec (.ovl d) s = .next t ∧ issuedTo s t d (s.pcAfter d) ∧ t.get (Reg.SEQ_BANK.STATE p b) = 2
      ∧ t.get (Reg.SEQ_BANK.QUEUED p b) = s.get (Reg.SEQ_BANK.QUEUED p b) + 1
      ∧ (t.dom d).ovq = (s.dom d).ovq ++ [ovlOf w (s.dom d).cyc] ∧ t.bulk = s.bulk := by
  obtain ⟨hd, -, -⟩ := h.running
  have hb := bankPlace_bank_lt hp
  have hbank (f : Slot) (hf : f.reg = Reg.SEQ_BANK.addr p b) : (s.issuing d).get f = s.get f :=
    s.get_issuing d (by rw [hf]; exact window_ne (by omega) (by decide) (by omega))
  have hdom := (s.issuing d).dom_queueOvl w p b hd
  rw [s.issuing_dom] at hdom
  have ha : (s.issuing d).ovlAct d w (s.dom d).pc = .done ((s.issuing d).queueOvl d w p b) .seq :=
    ovlAct_queues _ (by rwa [s.issuing_bankPlace]) (by rwa [hbank _ rfl]) hrow hash (by rwa [s.issuing_members])
      (by rwa [s.issuing_sliceReady d _ hash]) (by rwa [s.issuing_dom]) (by rwa [hbank _ rfl])
  obtain ⟨he, hi⟩ := control_seq_of_issues (fun s w ia => s.ovlAct d w ia) h ha (.queueOvl _ w p b hd hb) (by rw [hdom]; rfl)
    (by rw [hdom]; rfl)
  refine ⟨_, (exec_ovl d s).trans he, hi, ?_, ?_, ?_, ?_⟩
  · rw [State.issued_get, State.get_state_queueOvl]
  · rw [State.issued_get, State.get_queued_queueOvl _ _ _ _ _ (by rwa [hbank _ rfl]), hbank _ rfl]
  · rw [s.issued_dom _ _ hd, Dom.passTo_ovq, Dom.issuedAt_keeps Dom.ovq (fun _ _ _ _ _ _ _ _ => rfl), hdom]
    rfl
  · rw [State.issued_bulk, State.queueOvl_bulk, s.issuing_bulk]

/-! ## LOOP and BRS by a q-register -/

/-- What LOOP does in its cycle. -/
def loopStart (d : Nat) (s : State) (w : Quad) (ia : Nat) : IssueRes :=
  if fld w 35 35 = 1 then s.sumLook d false (fld w 3 0) ia fun s => s.loopAct d w ia else s.loopAct d w ia

/-- What BRS does in its cycle. -/
def brsStart (d : Nat) (s : State) (w : Quad) (ia : Nat) : IssueRes :=
  s.sumLook d (brsOnZ w) (brsReads w) ia fun s => if s.brsCond d w then s.jumpTo d ia (fld w 16 0) else .done s .seq

theorem exec_loop (d : Nat) (s : State) : exec (.loop d) s = s.control d 1 (loopStart d) := rfl
theorem exec_brs (d : Nat) (s : State) : exec (.brs d) s = s.control d 3 (brsStart d) := rfl

/-- The loop levels become `l`. -/
def State.setLoops (s : State) (d : Nat) (l : List LoopLevel) : State := s.modDom d fun x => { x with loops := l }

theorem State.dom_setLoops (s : State) {d : Nat} (l : List LoopLevel) (hd : d < 12) :
    (s.setLoops d l).dom d = { s.dom d with loops := l } :=
  s.dom_modDom_self (fun x => { x with loops := l }) hd

theorem SameCycle.setLoops (s : State) {d : Nat} (l : List LoopLevel) (hd : d < 12) : SameCycle s (s.setLoops d l) d :=
  .modDom s _ hd (fun _ => rfl) (fun _ => rfl) fun _ => rfl

section
variable {s : State} {d : Nat} {w : Quad}

/-- LOOP with a count of 0 skips its body (R189). -/
theorem loopAct_of_zero (ia : Nat) (hf : fld w 35 35 = 1) (hn : s.get (Reg.SEQ_Q.VALUE d (fld w 3 0)) = 0) :
    s.loopAct d w ia = .done s (.skip (ia + fld w 47 36 + 1 + 1)) := by
  simp only [State.loopAct, hf, hn, if_true]

/-- LOOP with another count, whose body fits, opens a level of as many rounds (R189 to R191). -/
theorem loopAct_of_fits (ia : Nat) (hf : fld w 35 35 = 1) (hn : s.get (Reg.SEQ_Q.VALUE d (fld w 3 0)) ≠ 0)
    (hl : (s.dom d).loops.length < 4) (hb : (s.dom d).bodyFits (ia + 1) (ia + fld w 47 36 + 1) = true) :
    s.loopAct d w ia = .done (s.setLoops d ((s.dom d).loops ++ [⟨ia + 1, ia + fld w 47 36 + 1,
      s.get (Reg.SEQ_Q.VALUE d (fld w 3 0)), s.get (Reg.SEQ_Q.VALUE d (fld w 3 0))⟩])) .seq := by
  simp only [State.loopAct, hf, if_true, if_neg hn, if_neg (Nat.ne_of_lt hl), hb, Bool.not_true, Bool.false_eq_true, if_false]
  rfl

/-- A LOOP that issues and reads a q-register acts on the value the register has (R189, R218). -/
theorem loopStart_of_issues (h : s.issues d w 0 1) (hf : fld w 35 35 = 1) (hs : s.sumSafe d false (fld w 3 0) = true) :
    ∃ t, loopStart d (s.issuing d) w (s.dom d).pc = t.loopAct d w (s.dom d).pc ∧ Reported (s.issuing d) t
      ∧ t.get (Reg.SEQ_Q.VALUE d (fld w 3 0)) = (s.rw (Reg.SEQ_Q.addr d (fld w 3 0))).toNat := by
  obtain ⟨t, hk, ht, -⟩ := sumLook_of_issues (fun t => t.loopAct d w (s.dom d).pc) h hs
  refine ⟨t, ?_, ht, by rw [State.get_qValue, ht.rw_q (fld_lt w 3 0)]⟩
  rw [loopStart, if_pos hf, hk]

theorem loop_of_zero_q (h : s.issues d w 0 1) (hf : fld w 35 35 = 1) (hs : s.sumSafe d false (fld w 3 0) = true)
    (hn : (s.rw (Reg.SEQ_Q.addr d (fld w 3 0))).toNat = 0) :
    ∃ u, exec (.loop d) s = .next u ∧ issuedTo s u d ((s.dom d).pc + fld w 47 36 + 1 + 1)
      ∧ (u.dom d).loops = (s.dom d).loops := by
  obtain ⟨hd, -, -⟩ := h.running
  obtain ⟨t, hk, ht, hq⟩ := loopStart_of_issues h hf hs
  rw [loopAct_of_zero _ hf (hq.trans hn)] at hk
  obtain ⟨he, hi⟩ := control_of_issues (loopStart d) h hk (ht.sameCycle d)
  refine ⟨_, (exec_loop d s).trans he, hi, ?_⟩
  rw [s.issued_dom _ _ hd, Dom.passTo_loops]
  exact ht.issuing_field Dom.loops fun _ => rfl

theorem loop_of_q (h : s.issues d w 0 1) (hf : fld w 35 35 = 1) (hs : s.sumSafe d false (fld w 3 0) = true) {n : Nat}
    (hn : (s.rw (Reg.SEQ_Q.addr d (fld w 3 0))).toNat = n) (hz : n ≠ 0) (hl : (s.dom d).loops.length < 4)
    (hb : (s.dom d).bodyFits ((s.dom d).pc + 1) ((s.dom d).pc + fld w 47 36 + 1) = true) :
    ∃ u, exec (.loop d) s = .next u
      ∧ (u.dom d).loops = (s.dom d).loops ++ [⟨(s.dom d).pc + 1, (s.dom d).pc + fld w 47 36 + 1, n, n⟩] := by
  obtain ⟨hd, -, -⟩ := h.running
  obtain ⟨t, hk, ht, hq⟩ := loopStart_of_issues h hf hs
  rw [hn] at hq
  have hloops : (t.dom d).loops = (s.dom d).loops := ht.issuing_field Dom.loops fun _ => rfl
  have hfits := ht.issuing_field (fun x => x.bodyFits ((s.dom d).pc + 1) ((s.dom d).pc + fld w 47 36 + 1)) fun _ => rfl
  rw [loopAct_of_fits _ hf (by rwa [hq]) (by rwa [hloops]) (hfits.trans hb), hq, hloops] at hk
  obtain ⟨he, -⟩ := control_of_issues (loopStart d) h hk ((ht.sameCycle d).trans (.setLoops t _ hd))
  refine ⟨_, (exec_loop d s).trans he, ?_⟩
  rw [s.issued_dom _ _ hd, Dom.passTo_loops, t.dom_setLoops _ hd]
  exact Dom.advance_seq_loops _ rfl (by dsimp only; omega)

/-! ### BRS -/

/-- The sign of a register word (R195). -/
theorem sgn_toNat (v : Word) : sgn v.toNat = v.toInt := by
  have hv := v.isLt
  rw [BitVec.toInt_eq_toNat_cond, sgn, signedOf, Nat.mod_eq_of_lt hv]
  split <;> split <;> omega

theorem brsReads_of_q (hz : brsOnZ w = false) : brsReads w = fld w 43 40 := by
  rw [brsReads, hz]
  rfl

/-- A BRS that looks at qn compares its value with zero (R195). -/
theorem brsCond_of_q (hz : brsOnZ w = false) :
    s.brsCond d w = cmpZero (fld w 38 36) (s.rw (Reg.SEQ_Q.addr d (brsReads w))).toInt := by
  have hm : 2 ≤ fld w 47 46 := Nat.not_lt.mp (of_decide_eq_false hz)
  have hr := brsReads_of_q hz
  rw [hr, ← sgn_toNat, ← State.get_qValue]
  unfold State.brsCond
  split
  · omega
  · omega
  · rfl

/-- Outside a routine a jump pops the levels that do not hold its target (R193). -/
theorem jumpTo_of_no_call (ia t : Nat) (hc : (s.dom d).call = none) :
    s.jumpTo d ia t = .done (s.setLoops d (popLoops 0 t (s.dom d).loops)) (.jump t) := by
  simp only [State.jumpTo, hc]
  rfl

/-- A BRS on qn branches by the value that the register has (R195, R218). -/
theorem brs_of_q (h : s.issues d w 0 3) (hz : brsOnZ w = false) (hs : s.sumSafe d false (brsReads w) = true)
    (hc : (s.dom d).call = none) :
    ∃ u, exec (.brs d) s = .next u ∧ issuedTo s u d
      (if cmpZero (fld w 38 36) (s.rw (Reg.SEQ_Q.addr d (brsReads w))).toInt then fld w 16 0 else s.pcAfter d) := by
  obtain ⟨hd, -, -⟩ := h.running
  obtain ⟨t, hk, ht, -⟩ := sumLook_of_issues
    (fun t => if t.brsCond d w then t.jumpTo d (s.dom d).pc (fld w 16 0) else .done t .seq) h (z := brsOnZ w) (by rwa [hz])
  have hn : brsReads w < 16 := by
    rw [brsReads_of_q hz]
    exact fld_lt w 43 40
  have hcall : (t.dom d).call = none := (ht.issuing_field Dom.call fun _ => rfl).trans hc
  rw [brsCond_of_q hz, ht.rw_q hn] at hk
  split at hk
  · next hb =>
    rw [jumpTo_of_no_call _ _ hcall] at hk
    obtain ⟨he, hi⟩ := control_of_issues (brsStart d) h hk ((ht.sameCycle d).trans (.setLoops t _ hd))
    exact ⟨_, (exec_brs d s).trans he, by rwa [if_pos hb]⟩
  · next hb =>
    obtain ⟨he, hi⟩ := control_seq_of_issues (brsStart d) h hk (ht.sameCycle d) (ht.issuing_field Dom.loops fun _ => rfl)
      (ht.issuing_field Dom.call fun _ => rfl)
    exact ⟨_, (exec_brs d s).trans he, by rwa [if_neg hb]⟩

end

/-! ## The next cycle sees the new value -/

/-- What the next instruction reads in qn is what the SETQ or the ADDQ has written (R218). -/
theorem rw_q_of_qThen {s t : State} {d op : Nat} {w w' : Quad} {add : Bool} (h : qThen s d w add t w' op) :
    t.rw (Reg.SEQ_Q.addr d (fld w 35 32)) = qAfter s d w add := by
  obtain ⟨hi, hs, he, -, -⟩ := h
  cases add with
  | false =>
    obtain ⟨u, hu, -, hq, -⟩ := setq_writes_q hi
    obtain rfl : u = t := Host.Outcome.next.inj (hu.symm.trans he)
    exact hq.trans (BitVec.zero_add _).symm
  | true =>
    obtain ⟨u, hu, -, hq, -⟩ := addq_adds_to_q hi (hs rfl)
    obtain rfl : u = t := Host.Outcome.next.inj (hu.symm.trans he)
    exact hq

/-- Settles O29: ENDC by `endc_waits_to_retire`, OVL by `ovl_queues_load`, SETQ and ADDQ by `setq_writes_q` and `addq_adds_to_q`;
`loop_of_q`, `loop_of_zero_q` and `brs_of_q` read the register, of which `rw_q_of_qThen` gives the value. -/
theorem sequencerStateInstructions : Obligations.SequencerStateInstructions := by
  unfold Obligations.SequencerStateInstructions
  intro s d w
  refine ⟨endc_waits_to_retire, ?_, setq_writes_q, addq_adds_to_q, ?_, ?_⟩
  · intro p b h hp hres hrow hash hmem hrdy hroom hst hq
    exact ovl_queues_load h hp hres hrow hash hmem hrdy hroom hst hq
  · intro add t w' h hf hreg
    have hv := congrArg BitVec.toNat (rw_q_of_qThen h)
    obtain ⟨-, -, -, hi, hs⟩ := h
    rw [← hreg] at hv hs
    exact ⟨fun hn hl hb => loop_of_q hi hf hs hv hn hl hb, fun hn => loop_of_zero_q hi hf hs (hv.trans hn)⟩
  · intro add t w' h hz hreg hc
    have hv := rw_q_of_qThen h
    obtain ⟨-, -, -, hi, hs⟩ := h
    rw [← hreg] at hv hs
    rw [← hv]
    exact brs_of_q hi hz hs hc

end Sys2Proof.Machine
